-- ==== Sys2Proof/Word.lean ====
section
/-!
DEFINITION. The words of the machine and the sparse map in which the state keeps everything that is indexed by
a number: an ascending list of (key, value) pairs, plain data, with no entry equal to the map's default.
-/
namespace Sys2Proof

/-- A scalar register, a system register, an address: 64 bits. -/
abbrev W64 := BitVec 64

/-- A lane word, a predicate: 32 bits. -/
abbrev W32 := BitVec 32

/-- The smallest addressable unit of every space. -/
abbrev Byte := BitVec 8

/-- A FLAGS value (R63): bits 6..0. -/
abbrev Fl := BitVec 7

/-- A map from numbers, kept as pairs in ascending order of the key. What an absent key reads as is the reader's
argument (`SMap.get`), one value for each map. -/
abbrev SMap (α : Type) := List (Nat × α)

/-- The 32 lanes of a vector value, lane 0 first. -/
abbrev Lanes := List W32

end Sys2Proof
end

