-- ==== Sys2Proof/Config.lean ====
section
/-!
DEFINITION. What the spec leaves open as a value: constants without a body. Nothing can evaluate them, so a
theorem about a state that holds one holds for every value of it.
-/
namespace Sys2Proof.Config

open Sys2Proof

/-- The free values of the model: the n-th free value drawn since reset (State.freeCtr counts the draws). Used for
the parts of a saved context, a log frame or a report whose bits the spec does not give.
(DESIGN CHOICE: assumptions 7, 10, 35, 36, 42, 62, 65 to 67, 77, 87 and 89.) -/
opaque freeWord : Nat → W64

/-- A free byte, drawn like `freeWord`. -/
opaque freeByte : Nat → Byte

/-- The bank of a channel that holds a line, and the line's row in it: the spec gives no mapping (R178).
(DESIGN CHOICE: assumption 78.) -/
opaque lineBank : Nat → Nat
opaque lineRow : Nat → Nat

/-- What the spec does not give of what a report measures: Shuone's ROM, and the firmware that a device is shipped with.
(DESIGN CHOICE: assumption 67.) -/
opaque rom : List Byte
opaque shippedFirmware : List Byte

/-- The signing key that Stage A derives from the fused secret of the device and the measurement of the firmware (R363).
(DESIGN CHOICE: assumption 67.) -/
opaque signingKey : List Byte → List Byte

/-- Byte i of the Falcon-1024 signature of some bytes under a key, with the random number of the signing (R363).
(DESIGN CHOICE: assumption 67.) -/
opaque falconSign : List Byte → List Byte → Nat → Nat → Byte

end Sys2Proof.Config
end

