-- ==== Sys2Proof/Syntax.lean ====
section
/-!
DEFINITION. The instruction set as data. `Instr` has one constructor for each row of spec/opcode_table.json: the
196 instruction words of R49 and the 79 steps of the device that no instruction word names (a message
accepted at a home, a slot's passage, a host command). An instruction word carries its guard and hints (`Ctl`)
and its operands, each of a type that says which operand kinds the field accepts (R32, R33, R106, R128). A step of
the device carries what it acts on.
-/
namespace Sys2Proof

/-- The type codes of R37. -/
inductive Ty where
  | i8 | i16 | i32 | i64 | b8 | b16 | b32 | b64
  | int4s | int4x | fp8e4 | fp8e5 | bf16 | f32 | f56
  deriving DecidableEq, Repr

/-- Guard and hints (R28, R39, R48): bits 79..54 of every word. -/
structure Ctl where
  tt : BitVec 8
  ga : BitVec 4
  gb : BitVec 4
  gc : BitVec 4
  hint : BitVec 6
  deriving DecidableEq, Repr

/-- Set S of R106: a scalar source. -/
inductive Src where
  | w (r : BitVec 5)
  | imm (v : BitVec 15)
  | g (r : BitVec 5)
  | q (r : BitVec 4)
  | s (r : BitVec 3)
  | n (r : BitVec 3)
  deriving DecidableEq, Repr

/-- Set W of R106: a scalar destination. -/
inductive Dst where
  | w (r : BitVec 5)
  | q (r : BitVec 4)
  | n (r : BitVec 3)
  deriving DecidableEq, Repr

/-- The loop registers of R33, class 00101. -/
inductive LoopReg where
  | lc | ls | le
  deriving DecidableEq, Repr

/-- A source of `mov`: set S, or a loop register (R119). -/
inductive MovSrc where
  | src (a : Src)
  | loop (r : LoopReg)
  deriving DecidableEq, Repr

/-- A destination of `mov`: set W, or a loop register (R119). -/
inductive MovDst where
  | dst (d : Dst)
  | loop (r : LoopReg)
  deriving DecidableEq, Repr

/-- Set VD of R128, and every vector register operand: `v` or `v[wN+off]`. -/
inductive VReg where
  | v (r : BitVec 11)
  | vi (w : BitVec 5) (off : BitVec 10)
  deriving DecidableEq, Repr

/-- Set VV of R128: a vector register or a stream register. -/
inductive VV where
  | reg (r : VReg)
  | s (r : BitVec 3)
  deriving DecidableEq, Repr

/-- Set V of R106: a lane source. -/
inductive VSrc where
  | reg (r : VReg)
  | sc (a : Src)
  deriving DecidableEq, Repr

/-- A field that takes kind 000 or kind 011. -/
inductive WI where
  | w (r : BitVec 5)
  | imm (v : BitVec 15)
  deriving DecidableEq, Repr

/-- A field that takes kind 000 or kind 101: the base of an address. -/
inductive WG where
  | w (r : BitVec 5)
  | g (r : BitVec 5)
  deriving DecidableEq, Repr

/-- A slot operand (R313): `sl:k`, or a register that holds the pool-relative number. -/
inductive SlotOp where
  | sl (k : BitVec 15)
  | w (r : BitVec 5)
  deriving DecidableEq, Repr

/-- A predicate pair `pt:pf` (R33). -/
structure Pair where
  pt : BitVec 4
  pf : BitVec 4
  deriving DecidableEq, Repr

/-- The destination of a load: a scalar register for a scalar size, a vector register for `.v`; the size of R144
goes with it. -/
inductive LdDst where
  | w (t : Ty) (r : BitVec 5)
  | v (r : VReg)
  deriving DecidableEq, Repr

/-- The data of a store, with its size (R144, R159). -/
inductive StSrc where
  | s (t : Ty) (a : Src)
  | v (a : VV)
  deriving DecidableEq, Repr

/-- The source of `slboard` (R313), with its type: a 64-bit word, or sixteen lanes. -/
inductive SlSrc where
  | s (t : Ty) (a : Src)
  | v (r : VReg)
  deriving DecidableEq, Repr

/-- The operations of an atomic (R160), numbered as FN[3:0]. -/
inductive AtOp where
  | addI64 | addI32 | addfx | minI64 | maxI64 | minB64 | maxB64 | andB64 | orB64 | xorB64
  | swapB64 | casB64 | casB32 | faddF32 | faddF56 | swapB32
  deriving DecidableEq, Repr

/-- The ordering scopes of R146. -/
inductive Scope where
  | core | cluster | die | package | system
  deriving DecidableEq, Repr

/-- The ordering modifier of R146, and the row scope of R162. -/
structure Ord where
  acq : Option Scope
  rel : Option Scope
  row : Bool
  deriving DecidableEq, Repr

/-- The conditions of an integer compare (R113). -/
inductive ICond where
  | eq | ne | lt | le | gt | ge | lo | ls | hi | hs
  deriving DecidableEq, Repr

/-- The conditions of a float compare (R113). -/
inductive FCond where
  | oeq | olt | ole | uno
  deriving DecidableEq, Repr

/-- The conversion modifiers that `fcvt`, `vcvt` carry in B (R124) and `accrd` in B (R254). -/
structure CvtMode where
  sat : Bool
  mode : BitVec 2
  deriving DecidableEq, Repr

/-- The operations of `vred` and `vscan` (R137). -/
inductive RedOp where
  | add | min | max
  deriving DecidableEq, Repr

/-- The patterns of `vshuf` (R136), with k where the pattern takes one. -/
inductive Shuf where
  | rev | rot (k : WI) | shd (k : WI) | shu (k : WI) | xor (k : WI) | unzip | zip
  deriving DecidableEq, Repr

/-- The kind and parameter of a generated matrix (R236, R247, R252). -/
inductive GenMat where
  | ident
  | shift (s : WI)
  | ones (s : WI)
  | perm (idx : VReg)
  deriving DecidableEq, Repr

/-- The source space of a copy (R260). -/
inductive CpySpace where
  | dm | sp | hm | pm (port : BitVec 3)
  deriving DecidableEq, Repr

/-- The destination of `cpyg`, `cpyx`, `cpys` (R260). -/
inductive CpyDst where
  | sp (w : BitVec 5)
  | stream (s : BitVec 3)
  deriving DecidableEq, Repr

/-- The record operand of `spawn.rec` (R215). -/
inductive RecSrc where
  | mem (w : BitVec 5)
  | vec (r : VReg)
  deriving DecidableEq, Repr

/-- Which request queue a home, or an ordering point, accepts from next: the router port, the local port (R175), or
the next access of a copy that an engine has started (R258). -/
inductive AcceptSrc where
  | router (endpoint : Nat)
  | localPort (endpoint : Nat)
  | copy (engine : Nat) (index : Nat)
  deriving DecidableEq, Repr

/-- What a peer package asks of a partition through a peer port (R166, R300). -/
inductive PeerReq where
  | load (va : W64) (bytes : Nat)
  | store (va : W64) (data : List Byte)
  | atomic (op : AtOp) (va : W64) (b cmp : W64)
  /-- The record of an index, of the table that the partition exports (R300). -/
  | pull (i : W64)
  deriving DecidableEq, Repr

/-- Some bytes of BAR2 (R361). -/
structure BarSpan where
  off : Nat
  len : Nat
  deriving DecidableEq, Repr

/-- One constructor for each row of spec/opcode_table.json, in the table's order. -/
inductive Instr where
  -- control (R108)
  | nop (c : Ctl)
  | br (c : Ctl) (off : BitVec 15)
  | brLong (c : Ctl) (off : BitVec 36)
  | brx (c : Ctl) (a : BitVec 5)
  | call (c : Ctl) (off : BitVec 15)
  | callLong (c : Ctl) (off : BitVec 36)
  | callx (c : Ctl) (a : BitVec 5)
  | ret (c : Ctl) (a : BitVec 5)
  | loop (c : Ctl) (count : WI) (off : BitVec 15)
  | done (c : Ctl)
  | doneJ (c : Ctl) (a : BitVec 5)
  | yield (c : Ctl)
  | brk (c : Ctl) (code : BitVec 15)
  -- predicates (R113 to R118)
  | cmp (c : Ctl) (k : ICond) (t : Ty) (d : Pair) (a b : Src)
  | cmpf (c : Ctl) (k : FCond) (t : Ty) (d : Pair) (a b : Src)
  | vcmp (c : Ctl) (k : ICond) (t : Ty) (d : Pair) (a b : VSrc)
  | vcmpf (c : Ctl) (k : FCond) (t : Ty) (d : Pair) (a b : VSrc)
  | plog (c : Ctl) (tt : BitVec 8) (d a b : BitVec 4)
  | pmov (c : Ctl) (d a : BitVec 4)
  | pmovFromW (c : Ctl) (d : BitVec 4) (a : BitVec 5)
  | pmovToW (c : Ctl) (d : BitVec 5) (a : BitVec 4)
  | pcnt (c : Ctl) (d : Dst) (a : BitVec 4)
  | pfirst (c : Ctl) (d : Dst) (a : BitVec 4)
  | pset (c : Ctl) (d : BitVec 4) (m : BitVec 15)
  | psetFirst (c : Ctl) (d : BitVec 4) (n : WI)
  -- scalar arithmetic (R119 to R124)
  | add (c : Ctl) (t : Ty) (d : Dst) (a b : Src)
  | sub (c : Ctl) (t : Ty) (d : Dst) (a b : Src)
  | mul (c : Ctl) (t : Ty) (d : Dst) (a b : Src)
  | mulh (c : Ctl) (t : Ty) (d : Dst) (a b : Src)
  | div (c : Ctl) (t : Ty) (d : Dst) (a b : Src)
  | rem (c : Ctl) (t : Ty) (d : Dst) (a b : Src)
  | and (c : Ctl) (t : Ty) (d : Dst) (a b : Src)
  | or (c : Ctl) (t : Ty) (d : Dst) (a b : Src)
  | xor (c : Ctl) (t : Ty) (d : Dst) (a b : Src)
  | andn (c : Ctl) (t : Ty) (d : Dst) (a b : Src)
  | shl (c : Ctl) (t : Ty) (d : Dst) (a b : Src)
  | shr (c : Ctl) (t : Ty) (d : Dst) (a b : Src)
  | sar (c : Ctl) (t : Ty) (d : Dst) (a b : Src)
  | rot (c : Ctl) (t : Ty) (d : Dst) (a b : Src)
  | min (c : Ctl) (t : Ty) (d : Dst) (a b : Src)
  | max (c : Ctl) (t : Ty) (d : Dst) (a b : Src)
  | clz (c : Ctl) (t : Ty) (d : Dst) (a : Src)
  | popc (c : Ctl) (t : Ty) (d : Dst) (a : Src)
  | sel (c : Ctl) (t : Ty) (k : BitVec 4) (d : Dst) (a b : Src)
  | mov (c : Ctl) (t : Ty) (d : MovDst) (a : MovSrc)
  | movi (c : Ctl) (d : BitVec 5) (v : BitVec 36)
  | moviH (c : Ctl) (d : BitVec 5) (v : BitVec 28)
  | lea (c : Ctl) (d : Dst) (off : BitVec 15)
  | leaScaled (c : Ctl) (sh : BitVec 2) (d : Dst) (a b : Src)
  | bext (c : Ctl) (t : Ty) (d : Dst) (a b : Src)
  | bins (c : Ctl) (d : BitVec 5) (a b : Src)
  | sext (c : Ctl) (t : Ty) (d : Dst) (a : Src)
  | zext (c : Ctl) (t : Ty) (d : Dst) (a : Src)
  | fadd (c : Ctl) (t : Ty) (d : Dst) (a b : Src)
  | fsub (c : Ctl) (t : Ty) (d : Dst) (a b : Src)
  | fmul (c : Ctl) (t : Ty) (d : Dst) (a b : Src)
  | ffma (c : Ctl) (t : Ty) (d : BitVec 5) (a b : Src)
  | fcvt (c : Ctl) (dt : Ty) (st : Ty) (m : CvtMode) (d : Dst) (a : Src)
  -- vector and permute (R129)
  | vadd (c : Ctl) (sat : Bool) (t : Ty) (d : VReg) (a b : VSrc)
  | vsub (c : Ctl) (sat : Bool) (t : Ty) (d : VReg) (a b : VSrc)
  | vmul (c : Ctl) (t : Ty) (d : VReg) (a b : VSrc)
  | vmulh (c : Ctl) (t : Ty) (d : VReg) (a b : VSrc)
  | vmin (c : Ctl) (t : Ty) (d : VReg) (a b : VSrc)
  | vmax (c : Ctl) (t : Ty) (d : VReg) (a b : VSrc)
  | vabs (c : Ctl) (t : Ty) (d : VReg) (a : VSrc)
  | vneg (c : Ctl) (t : Ty) (d : VReg) (a : VSrc)
  | vand (c : Ctl) (t : Ty) (d : VReg) (a b : VSrc)
  | vor (c : Ctl) (t : Ty) (d : VReg) (a b : VSrc)
  | vxor (c : Ctl) (t : Ty) (d : VReg) (a b : VSrc)
  | vshl (c : Ctl) (t : Ty) (d : VReg) (a b : VSrc)
  | vshr (c : Ctl) (t : Ty) (d : VReg) (a b : VSrc)
  | vsar (c : Ctl) (t : Ty) (d : VReg) (a b : VSrc)
  | vfadd (c : Ctl) (t : Ty) (d : VReg) (a b : VSrc)
  | vfsub (c : Ctl) (t : Ty) (d : VReg) (a b : VSrc)
  | vfmul (c : Ctl) (t : Ty) (d : VReg) (a b : VSrc)
  | vfma (c : Ctl) (t : Ty) (d : VReg) (a b : VSrc)
  | vfmin (c : Ctl) (t : Ty) (d : VReg) (a b : VSrc)
  | vfmax (c : Ctl) (t : Ty) (d : VReg) (a b : VSrc)
  | vrcp (c : Ctl) (t : Ty) (d : VReg) (a : VSrc)
  | vrsq (c : Ctl) (t : Ty) (d : VReg) (a : VSrc)
  | vexp2 (c : Ctl) (t : Ty) (d : VReg) (a : VSrc)
  | vlog2 (c : Ctl) (t : Ty) (d : VReg) (a : VSrc)
  | vcvt (c : Ctl) (dt : Ty) (st : Ty) (m : CvtMode) (d : VReg) (a : VSrc)
  | vsel (c : Ctl) (t : Ty) (k : BitVec 4) (d : VReg) (a b : VSrc)
  | vmov (c : Ctl) (t : Ty) (d : VReg) (a : VSrc)
  | vbcast (c : Ctl) (t : Ty) (d : VReg) (a : Src)
  | vbcastLane (c : Ctl) (t : Ty) (d : VReg) (a : VV) (j : WI)
  | vidx (c : Ctl) (t : Ty) (d : VReg)
  | vidxStep (c : Ctl) (t : Ty) (d : VReg) (base step : Src)
  | vperm (c : Ctl) (d : VReg) (a b : VV)
  | vshuf (c : Ctl) (pat : Shuf) (d : VReg) (a : VV)
  | vred (c : Ctl) (op : RedOp) (t : Ty) (d : BitVec 5) (a : VV)
  | vscan (c : Ctl) (op : RedOp) (t : Ty) (d : VReg) (a : VV)
  | vpack (c : Ctl) (t : Ty) (d : VReg) (a : VReg)
  | vunpack (c : Ctl) (t : Ty) (d : VReg) (a : VV)
  | vgath (c : Ctl) (l : BitVec 8) (d : VReg) (tab : VReg) (idx : VV)
  | vscat (c : Ctl) (l : BitVec 8) (tab : VReg) (idx : VV) (a : VSrc)
  -- memory (R159 to R169)
  | ldsp (c : Ctl) (o : Ord) (d : LdDst) (base : WG) (off : WI)
  | stsp (c : Ctl) (o : Ord) (base : WG) (off : WI) (a : StSrc)
  | atsp (c : Ctl) (o : Ord) (op : AtOp) (d : BitVec 5) (base : WG) (b : Src)
  | ldd (c : Ctl) (o : Ord) (d : LdDst) (base : WG) (off : WI)
  | std (c : Ctl) (o : Ord) (base : WG) (off : WI) (a : StSrc)
  | atd (c : Ctl) (o : Ord) (op : AtOp) (d : BitVec 5) (base : WG) (b : Src)
  | rowadd (c : Ctl) (o : Ord) (t : Ty) (row : BitVec 5) (a : VReg)
  | rowld (c : Ctl) (o : Ord) (t : Ty) (d : VReg) (row : BitVec 5) (minv : WI)
  | ldh (c : Ctl) (o : Ord) (d : LdDst) (base : WG) (off : WI)
  | sth (c : Ctl) (o : Ord) (base : WG) (off : WI) (a : StSrc)
  | ath (c : Ctl) (o : Ord) (op : AtOp) (d : BitVec 5) (base : WG) (b : Src)
  | ldp (c : Ctl) (port : BitVec 3) (o : Bool) (d : LdDst) (base : WG) (off : WI)
  | stp (c : Ctl) (port : BitVec 3) (o : Bool) (base : WG) (off : WI) (a : StSrc)
  | atp (c : Ctl) (port : BitVec 3) (o : Bool) (op : AtOp) (d : BitVec 5) (base : WG) (b : Src)
  | ldmb (c : Ctl) (d : BitVec 5) (mb word : BitVec 15)
  | ldmbOut (c : Ctl) (d : BitVec 5) (mb word : BitVec 15)
  | stmb (c : Ctl) (mb word : BitVec 15) (a : Src)
  | ldcf (c : Ctl) (d : BitVec 5) (num : WI)
  | stcf (c : Ctl) (num : WI) (a : Src)
  | fence (c : Ctl) (scope : BitVec 3) (classes : BitVec 6)
  -- tasks (R213)
  | spawn (c : Ctl) (desc : WI) (base : WG) (len : WI)
  | spawnRec (c : Ctl) (src : RecSrc)
  | spawnr (c : Ctl) (desc : WI) (origin shape : WI)
  | spawnd (c : Ctl) (desc : WI) (map : BitVec 5) (shape : WI)
  | fork (c : Ctl) (entry : WI)
  | forkAnchored (c : Ctl) (entry : WI) (base : WG) (len : WI)
  | migrate (c : Ctl) (entry : WI) (base : WG) (len : WI)
  | setdep (c : Ctl) (blk : BitVec 5) (count : WI)
  | setdepHeld (c : Ctl) (blk : BitVec 5) (count : WI) (rec : BitVec 5)
  | decr (c : Ctl) (blk : BitVec 5)
  | qcfgThresh (c : Ctl) (addr : WG) (q : WI) (v : WI)
  | qcfgTickets (c : Ctl) (addr : WG) (q : WI) (v : WI)
  | qcfgSpbase (c : Ctl) (addr : WG) (q : WI) (v : WI)
  | qcfgSpsize (c : Ctl) (addr : WG) (q : WI) (v : WI)
  | qstat (c : Ctl) (d : Dst) (addr : BitVec 5) (q : WI)
  | steal (c : Ctl) (d : VReg) (addr : BitVec 5) (q : WI)
  | stealAny (c : Ctl) (d : VReg) (addr : BitVec 5) (q : WI)
  -- barriers (R125)
  | barArr (c : Ctl) (b : WI)
  | barWait (c : Ctl) (b : WI)
  | barSync (c : Ctl) (b : WI)
  | barcfg (c : Ctl) (b : WI) (count : WI) (barto : WI)
  | barrierTimeout (t : Nat)
  -- active messages, stream ports, speculation (R285, R289, R293)
  | amsg (c : Ctl) (addr : WG) (tag : WI) (rtag : WI)
  | amsgRel (c : Ctl) (addr : WG) (tag : WI) (rtag : WI)
  | bind (c : Ctl) (addr : WG) (tag : WI) (entry : WI)
  | unbind (c : Ctl) (addr : WG) (tag : WI)
  | openTx (c : Ctl) (port : BitVec 3) (core : WI) (chan : WI)
  | openRx (c : Ctl) (port : BitVec 3) (chan : WI)
  | close (c : Ctl) (port : BitVec 3)
  | spec (c : Ctl)
  | commit (c : Ctl) (d : BitVec 5)
  | abort (c : Ctl) (d : BitVec 5)
  -- Solera (R313)
  | slrd (c : Ctl) (j : BitVec 3) (d : LdDst) (sl : SlotOp) (p : Pair)
  | slcas (c : Ctl) (j : BitVec 3) (t : Ty) (d : BitVec 5) (sl : SlotOp) (b : Src)
  | sladd (c : Ctl) (j : BitVec 3) (t : Ty) (d : BitVec 5) (sl : SlotOp) (b : Src)
  | slswap (c : Ctl) (j : BitVec 3) (t : Ty) (d : BitVec 5) (sl : SlotOp) (b : Src)
  | slboard (c : Ctl) (j : BitVec 3) (d : BitVec 5) (a : SlSrc) (p : Pair)
  | slalight (c : Ctl) (j : BitVec 3) (d : LdDst) (sl : SlotOp) (p : Pair)
  | slwait (c : Ctl) (j : BitVec 3) (t : Ty) (d : BitVec 5) (sl : SlotOp) (b : Src)
  | slwaitRev (c : Ctl) (d : BitVec 5) (sl : SlotOp) (b : Src)
  | slinfoPool (c : Ctl) (d : BitVec 5)
  | slinfoStn (c : Ctl) (d : BitVec 5)
  | slinfoHdr (c : Ctl) (d : BitVec 5) (sl : SlotOp)
  -- matrix (R245)
  | ldwC (c : Ctl) (f : Ty) (v : VReg)
  | ldwK (c : Ctl) (f : Ty) (v : VReg)
  | ldwg (c : Ctl) (f : Ty) (z : GenMat)
  | ldws (c : Ctl) (v : VReg)
  | swpw (c : Ctl)
  | mma (c : Ctl) (f : Ty) (acc : BitVec 6) (a : VV) (m : WI)
  | mmaSc (c : Ctl) (f : Ty) (acc : BitVec 6) (a : VV) (m : WI)
  | mmag (c : Ctl) (f : Ty) (acc : BitVec 6) (z : GenMat) (m : WI)
  | accz (c : Ctl) (acc : BitVec 6) (m : WI)
  | accrd (c : Ctl) (t : Ty) (m : CvtMode) (d : VReg) (acc : BitVec 6)
  | accwr (c : Ctl) (t : Ty) (acc : BitVec 6) (v : VReg)
  | mstat (c : Ctl) (d : BitVec 5) (n : WI)
  | engineClaim (core : Nat)
  | weightLoadComplete (core : Nat)
  | mmaRowEnter (core : Nat)
  | mmaAccumulationComplete (core : Nat)
  -- copies (R260)
  | cpy (c : Ctl) (grp : BitVec 2) (sp : CpySpace) (d : WG) (a : WG) (len : WI)
  | cpyg (c : Ctl) (strict : Bool) (grp : BitVec 2) (sp : CpySpace) (d : CpyDst) (desc : VReg)
  | cpyx (c : Ctl) (keep : Bool) (grp : BitVec 2) (d : CpyDst) (desc : VReg)
  | cpys (c : Ctl) (grp : BitVec 2) (sp : CpySpace) (d : CpyDst) (desc : VReg)
  | cbind (c : Ctl) (grp : BitVec 2) (sp : CpySpace) (s : BitVec 3) (a : WG) (len : WI)
  | cwait (c : Ctl) (grp : BitVec 2) (n : WI)
  | ccancel (c : Ctl) (grp : BitVec 2)
  | cstat (c : Ctl) (grp : BitVec 2) (d : BitVec 5)
  | copyStart (engine : Nat) (index : Nat)
  | copyFinish (engine : Nat) (index : Nat)
  | copySourceFault (engine : Nat) (index : Nat)
  | streamBytesArrive (engine : Nat) (index : Nat)
  -- system (R334)
  | csrr (c : Ctl) (d : BitVec 5) (num : BitVec 15)
  | csrw (c : Ctl) (num : BitVec 15) (a : Src)
  | csrwSet (c : Ctl) (num : BitVec 15) (a : Src)
  | csrwClr (c : Ctl) (num : BitVec 15) (a : Src)
  | ecall (c : Ctl) (code : BitVec 15)
  | eret (c : Ctl)
  | tlbinvPage (c : Ctl) (a : BitVec 5)
  | tlbinvAll (c : Ctl)
  | ckpt (c : Ctl) (d : BitVec 5)
  -- steps of the device (spec/95_what_each_step_holds.md)
  | budget (t : Nat)
  | replyLand (t : Nat)
  | tableWalkComplete (t : Nat)
  | homeAccept (src : AcceptSrc)
  | ckptcfgWrite (p : Nat)
  | dramBankSchedule (home : Nat) (bank : Nat)
  | scrubVisit (home : Nat)
  | recordArrival (home : Nat) (loc : Bool)
  | recordResend (core : Nat) (index : Nat)
  | queueDecide (home : Nat) (p : Nat) (q : Nat)
  | queuePublication (home : Nat)
  | stealDecision (t : Nat)
  | dispatch (t : Nat)
  | cellarSlotDraw (t : Nat)
  | taskStart (t : Nat)
  | counterDecrement (home : Nat) (loc : Bool)
  | counterDeposit (home : Nat) (loc : Bool)
  | setdepArrival (home : Nat) (loc : Bool)
  | launchInstanceArrival (core : Nat)
  | runlistAdmit (core : Nat)
  | amArrival (home : Nat) (loc : Bool)
  | bindArrival (home : Nat) (loc : Bool)
  | unbindArrival (home : Nat) (loc : Bool)
  | handlerStart (t : Nat)
  | messageDelivery (index : Nat)
  | routeComplete (index : Nat)
  | slotPassage (k : Nat) (station : Nat)
  | slboardPoolFull (t : Nat)
  | rollbackEnd (p : Nat)
  | unwindEnd (p : Nat)
  | preemptDrain (p : Nat)
  | preemptStopNow (p : Nat)
  | preemptMigrate (p : Nat)
  | preemptRestore (p : Nat)
  | preemptResume (p : Nat)
  | drainDone (p : Nat)
  | contextSaveComplete (t : Nat)
  | restorePlace (p : Nat) (slot : Nat)
  | liveMigrationMove (p : Nat)
  | forwardMessage (core : Nat) (index : Nat)
  | mailboxTaskPlace (p : Nat) (m : Nat)
  | replayMessagePlace (p : Nat)
  | mailboxBind (p : Nat)
  | spRegionWrite (p : Nat)
  | ptrootWrite (p : Nat)
  | stageB (failed : List Nat)
  | stageC
  -- steps that come from outside the package
  | unitFailureReport (p : Nat)
  | mailboxWordWrite (p : Nat) (m : Nat) (j : Nat) (v : W64)
  | mailboxMessageComplete (p : Nat) (m : Nat) (v : W64)
  | mbstatWrite (p : Nat) (m : Nat) (v : W64)
  | hostDmWrite (off : Nat) (bs : List Byte)
  | hostDmRead (x : BarSpan)
  | atsInvalidation (p : Nat) (page : Nat)
  | remoteEnqueueIndex (p : Nat) (port : Nat) (va : W64) (i : W64)
  | remoteRecordPull (p : Nat) (port : Nat) (recd : Option (List W64))
  | peerFlitFailure (index : Nat)
  | attest (ws : List W64)
  | fwupdate (ws : List W64)
  | zero (ws : List W64)
  | status (ws : List W64)
  | create (ws : List W64)
  | destroy (ws : List W64)
  | grant (ws : List W64)
  | keyshare (ws : List W64)
  | peerbind (ws : List W64)
  | preempt (ws : List W64)
  | powercap (ws : List W64)
  | frames (ws : List W64)
  | tune (ws : List W64)
  | replay (ws : List W64)
  | reset (firmwareGood : Bool)
  | powerOverCap
  | thermalTrip
  | peerUnwindToken (port : Nat)
  | peerMemoryRequest (p : Nat) (port : Nat) (r : PeerReq)
  | atsTranslationComplete (t : Nat) (ok : Bool) (hpage : Nat)
  | powerBelowCap
  deriving DecidableEq, Repr

end Sys2Proof
end

