-- ==== Sys2Proof/Machine/Numbers.lean ====
section
/-!
DEFINITION. Number formats, rounding, conversions and the matrix sum's element decoding (spec/04_number_formats.md,
R51 to R73). Every operation works on bit patterns held as naturals and answers a pattern with the FLAGS bits
it raises.
-/
namespace Sys2Proof.Machine

open Sys2Proof

/-! ## FLAGS bits (R63) -/

def flIV : Fl := 1#7
def flDZ : Fl := 2#7
def flOF : Fl := 4#7
def flUF : Fl := 8#7
def flNX : Fl := 16#7
def flRC : Fl := 32#7
def flOOB : Fl := 64#7

/-! ## Types (R37, R51) -/

/-- The width of a type in bits. INT4S and INT4X elements are 4 bits wide. -/
def tyWidth : Ty → Nat
  | .i8 => 8 | .i16 => 16 | .i32 => 32 | .i64 => 64
  | .b8 => 8 | .b16 => 16 | .b32 => 32 | .b64 => 64
  | .int4s => 4 | .int4x => 4 | .fp8e4 => 8 | .fp8e5 => 8
  | .bf16 => 16 | .f32 => 32 | .f56 => 56

/-- The types whose results are sign-extended where they are written (R107, R124, R127). -/
def tySigned : Ty → Bool
  | .i8 | .i16 | .i32 | .i64 | .int4s => true
  | _ => false

def tyFloat : Ty → Bool
  | .fp8e4 | .fp8e5 | .bf16 | .f32 | .f56 => true
  | _ => false

/-- Two's complement reading of the low `n` bits. -/
def toSigned (n : Nat) (x : Nat) : Int :=
  let v := x % 2 ^ n
  if v < 2 ^ (n - 1) then (v : Int) else (v : Int) - (2 ^ n : Nat)

/-- The low `n` bits of an integer. -/
def wrapInt (n : Nat) (x : Int) : Nat := (x % (2 ^ n : Nat)).toNat

/-- Sign extension of the low `n` bits to `m` bits. -/
def sextNat (n m : Nat) (x : Nat) : Nat := wrapInt m (toSigned n x)

/-- An element as its type reads it: signed for `.iN`, unsigned for `.bN`. -/
def elemInt (t : Ty) (x : Nat) : Int :=
  if tySigned t then toSigned (tyWidth t) x else ((x % 2 ^ tyWidth t : Nat) : Int)

/-- The result of a type written to a container of `m` bits (R107, R127). -/
def extendTo (t : Ty) (m : Nat) (x : Nat) : Nat :=
  if tySigned t then sextNat (tyWidth t) m x else x % 2 ^ tyWidth t

/-! ## Floating-point formats (R54 to R56) -/

/-- A format of R54: exponent bits, fraction bits; `e4` marks E4M3, which has no infinities. -/
structure FFmt where
  eb : Nat
  fb : Nat
  e4 : Bool
  deriving DecidableEq, Repr

def fmtF32 : FFmt := ⟨8, 23, false⟩
def fmtBf16 : FFmt := ⟨8, 7, false⟩
def fmtE4 : FFmt := ⟨4, 3, true⟩
def fmtE5 : FFmt := ⟨5, 2, false⟩
def fmtF56 : FFmt := ⟨10, 45, false⟩

/-- The format of a float type (the other types have none; they are given FP32 and never asked). -/
def tyFmt : Ty → FFmt
  | .bf16 => fmtBf16 | .fp8e4 => fmtE4 | .fp8e5 => fmtE5 | .f56 => fmtF56 | _ => fmtF32

def FFmt.bias (f : FFmt) : Nat := 2 ^ (f.eb - 1) - 1
def FFmt.width (f : FFmt) : Nat := 1 + f.eb + f.fb
def FFmt.emax (f : FFmt) : Nat := 2 ^ f.eb - 1
/-- The exponent of the least subnormal: the quantum below which nothing is representable. -/
def FFmt.qmin (f : FFmt) : Int := 1 - (f.bias : Int) - (f.fb : Int)
/-- The magnitude pattern of ∞ (for E4M3: the pattern of NaN). -/
def FFmt.infMag (f : FFmt) : Nat := if f.e4 then 127 else f.emax * 2 ^ f.fb
/-- The magnitude pattern of the largest finite value. -/
def FFmt.maxMag (f : FFmt) : Nat := f.infMag - 1
/-- The canonical NaN (R56). -/
def FFmt.nan (f : FFmt) : Nat := if f.e4 then 127 else f.emax * 2 ^ f.fb + 2 ^ (f.fb - 1)
def FFmt.signed (f : FFmt) (neg : Bool) (mag : Nat) : Nat :=
  if neg then 2 ^ (f.eb + f.fb) + mag else mag

/-- A decoded float: m · 2^e exactly, an infinity or a NaN. -/
inductive FVal where
  | nan
  | inf (neg : Bool)
  | fin (neg : Bool) (m : Nat) (e : Int)
  deriving DecidableEq, Repr

/-- R54: the value of a pattern. -/
def fdec (f : FFmt) (x : Nat) : FVal :=
  let neg := x / 2 ^ (f.eb + f.fb) % 2 == 1
  let e := x / 2 ^ f.fb % 2 ^ f.eb
  let fr := x % 2 ^ f.fb
  if e == 0 then .fin neg fr f.qmin
  else if e == f.emax && f.e4 && fr == 2 ^ f.fb - 1 then .nan
  else if e == f.emax && !f.e4 then (if fr == 0 then .inf neg else .nan)
  else .fin neg (2 ^ f.fb + fr) (f.qmin + (e : Int) - 1)

/-- An infinite result in a format: ∞, or the canonical NaN in E4M3 (R58, R59). -/
def finf (f : FFmt) (neg : Bool) : Nat := if f.e4 then f.nan else f.signed neg f.infMag

/-! ## Rounding (R57, R58) -/

/-- m · 2^e cut to the quantum 2^q in a mode: the integer number of quanta, and whether it differs. -/
def cutTo (mode : BitVec 2) (neg : Bool) (m : Nat) (e q : Int) : Nat × Bool :=
  if q ≤ e then (m * 2 ^ (e - q).toNat, false)
  else
    let s := (q - e).toNat
    let fl := m / 2 ^ s
    let rm := m % 2 ^ s
    let half := 2 ^ (s - 1)
    let up := match mode with
      | 0#2 => decide (half < rm) || (rm == half && fl % 2 == 1)
      | 1#2 => false
      | 2#2 => !neg && rm != 0
      | _ => neg && rm != 0
    (if up then fl + 1 else fl, rm != 0)

/-- a · 2^ea < b · 2^eb. -/
def dyLt (a : Nat) (ea : Int) (b : Nat) (eb : Int) : Bool :=
  let lo := min ea eb
  decide (a * 2 ^ (ea - lo).toNat < b * 2 ^ (eb - lo).toNat)

/-- Whether overflow gives the infinity in this mode (IEEE 754). -/
def ovfInf (mode : BitVec 2) (neg : Bool) : Bool :=
  match mode with
  | 0#2 => true
  | 1#2 => false
  | 2#2 => !neg
  | _ => neg

/-- R57, R58, R60: the exact nonzero value ±m · 2^e rounded once to a format. `sat` is `.sat` of a conversion. -/
def roundNz (f : FFmt) (mode : BitVec 2) (sat : Bool) (neg : Bool) (m : Nat) (e : Int) : Nat × Fl :=
  let len : Int := (Nat.log2 m : Int) + 1
  let qu : Int := e + len - ((f.fb : Int) + 1)
  let un := cutTo mode neg m e qu
  let maxM := match fdec f f.maxMag with
    | .fin _ mm me => (mm, me)
    | _ => (0, 0)
  if dyLt maxM.1 maxM.2 un.1 qu then
    if sat then (f.signed neg f.maxMag, flOF ||| flNX)
    else if f.e4 then (f.nan, flOF ||| flNX)
    else (f.signed neg (if ovfInf mode neg then f.infMag else f.maxMag), flOF ||| flNX)
  else
    let q := max qu f.qmin
    let r := cutTo mode neg m e q
    let tiny := dyLt un.1 qu (2 ^ f.fb) f.qmin
    let mag := (q - f.qmin).toNat * 2 ^ f.fb + r.1
    (f.signed neg mag, if r.2 then (if tiny then flUF ||| flNX else flNX) else 0#7)

/-- Rounding of any exact finite value; an exact zero keeps the sign given. -/
def roundFin (f : FFmt) (mode : BitVec 2) (sat : Bool) (neg : Bool) (m : Nat) (e : Int) : Nat × Fl :=
  if m == 0 then (f.signed neg 0, 0#7) else roundNz f mode sat neg m e

/-- An exact dyadic integer ±k · 2^e as sign and magnitude. -/
def signedMag (neg : Bool) (m : Nat) : Int := if neg then -(m : Int) else (m : Int)

/-- The exact sum of two finite values, with R57's sign of an exact zero under RNE. -/
def addFin (na : Bool) (ma : Nat) (ea : Int) (nb : Bool) (mb : Nat) (eb : Int) : Bool × Nat × Int :=
  let lo := min ea eb
  let v := signedMag na (ma * 2 ^ (ea - lo).toNat) + signedMag nb (mb * 2 ^ (eb - lo).toNat)
  if v == 0 then (na && nb, 0, lo) else (decide (v < 0), v.natAbs, lo)

/-- A sum of decoded values, rounded once (RNE), R57 to R59. -/
def addVals (f : FFmt) (a b : FVal) : Nat × Fl :=
  match a, b with
  | .nan, _ => (f.nan, 0#7)
  | _, .nan => (f.nan, 0#7)
  | .inf x, .inf y => if x == y then (finf f x, 0#7) else (f.nan, flIV)
  | .inf x, .fin _ _ _ => (finf f x, 0#7)
  | .fin _ _ _, .inf y => (finf f y, 0#7)
  | .fin na ma ea, .fin nb mb eb =>
    let s := addFin na ma ea nb mb eb
    roundFin f 0#2 false s.1 s.2.1 s.2.2

/-- The exact product of two decoded values, with the flag of 0 × ∞ (R59, R67). -/
def mulVals (a b : FVal) : FVal × Fl :=
  match a, b with
  | .nan, _ => (.nan, 0#7)
  | _, .nan => (.nan, 0#7)
  | .inf x, .inf y => (.inf (x != y), 0#7)
  | .inf x, .fin y m _ => if m == 0 then (.nan, flIV) else (.inf (x != y), 0#7)
  | .fin x m _, .inf y => if m == 0 then (.nan, flIV) else (.inf (x != y), 0#7)
  | .fin x m e, .fin y k g => (.fin (x != y) (m * k) (e + g), 0#7)

/-- A decoded value rounded to a format (RNE). -/
def roundVal (f : FFmt) (a : FVal) : Nat × Fl :=
  match a with
  | .nan => (f.nan, 0#7)
  | .inf x => (finf f x, 0#7)
  | .fin n m e => roundFin f 0#2 false n m e

def negVal : FVal → FVal
  | .nan => .nan
  | .inf x => .inf (!x)
  | .fin n m e => .fin (!n) m e

def fAdd (f : FFmt) (a b : Nat) : Nat × Fl := addVals f (fdec f a) (fdec f b)
def fSub (f : FFmt) (a b : Nat) : Nat × Fl := addVals f (fdec f a) (negVal (fdec f b))
def fMul (f : FFmt) (a b : Nat) : Nat × Fl :=
  let p := mulVals (fdec f a) (fdec f b)
  let r := roundVal f p.1
  (r.1, p.2 ||| r.2)
/-- d + a × b, rounded once (R123, R131). 0 × ∞ raises invalid whatever d is (R59), a NaN
among them. (DESIGN CHOICE: assumption 117.) -/
def fFma (f : FFmt) (d a b : Nat) : Nat × Fl :=
  let p := mulVals (fdec f a) (fdec f b)
  let r := addVals f (fdec f d) p.1
  (r.1, p.2 ||| r.2)

/-- Order of two values that are not NaN; −0 and +0 are equal. -/
def valLt (a b : FVal) : Bool :=
  match a, b with
  | .nan, _ => false
  | _, .nan => false
  | .inf x, .inf y => x && !y
  | .inf x, .fin _ _ _ => x
  | .fin _ _ _, .inf y => !y
  | .fin na ma ea, .fin nb mb eb =>
    let lo := min ea eb
    decide (signedMag na (ma * 2 ^ (ea - lo).toNat) < signedMag nb (mb * 2 ^ (eb - lo).toNat))

def valIsNan : FVal → Bool
  | .nan => true
  | _ => false

def valNeg : FVal → Bool
  | .nan => false
  | .inf x => x
  | .fin n _ _ => n

/-- `vfmin` and `vfmax` (R131): −0 below +0, a NaN gives the canonical NaN, no flag. -/
def fMinMax (isMax : Bool) (f : FFmt) (a b : Nat) : Nat :=
  let x := fdec f a
  let y := fdec f b
  if valIsNan x || valIsNan y then f.nan
  else
    let aLess := valLt x y || (!valLt y x && valNeg x && !valNeg y)
    if aLess != isMax then a % 2 ^ f.width else b % 2 ^ f.width

/-! ## Reciprocal, square root, exponential and logarithm (R132) -/

/-- An inexact real known to lie strictly between m and m + 1 units of 2^e, as a dyadic that rounds as it does. -/
def sticky (m : Nat) (e : Int) (exact : Bool) : Nat × Int := if exact then (m, e) else (2 * m + 1, e - 1)

def fRcp (f : FFmt) (a : Nat) : Nat × Fl :=
  match fdec f a with
  | .nan => (f.nan, 0#7)
  | .inf x => (f.signed x 0, 0#7)
  | .fin n m e =>
    if m == 0 then (finf f n, flDZ)
    else
      let k := 2 ^ (80 + Nat.log2 m)
      let s := sticky (k / m) (-(e + (80 + Nat.log2 m : Nat))) (k % m == 0)
      roundNz f 0#2 false n s.1 s.2

/-- The integer square root, bit by bit from `2^k` down. -/
def isqrtFrom : Nat → Nat → Nat → Nat
  | 0, _, acc => acc
  | k + 1, n, acc =>
    let t := acc + 2 ^ k
    isqrtFrom k n (if t * t ≤ n then t else acc)

def fRsq (f : FFmt) (a : Nat) : Nat × Fl :=
  match fdec f a with
  | .nan => (f.nan, 0#7)
  | .inf x => if x then (f.nan, flIV) else (f.signed false 0, 0#7)
  | .fin n m e =>
    if m == 0 then (finf f n, flDZ)
    else if n then (f.nan, flIV)
    else
      -- 1/√(m·2^e), with e made even
      let odd := e % 2 == 1
      let m2 := if odd then 2 * m else m
      let e2 := if odd then e - 1 else e
      let num := 2 ^ 200
      let q := num / m2
      let r := isqrtFrom 101 q 0
      let s := sticky r (-(100 : Int) - e2 / 2) (r * r * m2 == num)
      roundNz f 0#2 false false s.1 s.2

/-- Fixed point of the transcendental functions: 320 fraction bits. -/
def fxBits : Nat := 320

/-- Σ z^(2k+1) / (2k+1), the series of artanh, `n` terms, in fixed point: `p` is the current power. -/
def atanhSum : Nat → Nat → Nat → Nat → Nat
  | 0, _, _, _ => 0
  | n + 1, k, p, z2 => p / (2 * k + 1) + atanhSum n (k + 1) (p * z2 / 2 ^ fxBits) z2

/-- ln(num / den) for 1 ≤ num/den < 2, in fixed point. -/
def lnFx (num den : Nat) : Nat :=
  let z := (num - den) * 2 ^ fxBits / (num + den)
  2 * atanhSum 110 0 z (z * z / 2 ^ fxBits)

/-- ln 2 = ln(4/3) + ln(3/2), in fixed point. -/
def ln2Fx : Nat := lnFx 4 3 + lnFx 3 2

/-- Σ x^k / k! in fixed point: `t` is the current term. -/
def expSum : Nat → Nat → Nat → Nat → Nat
  | 0, _, _, _ => 0
  | n + 1, k, t, x => t + expSum n (k + 1) (t * x / 2 ^ fxBits / (k + 1)) x

/-- 2^a, exact and then rounded once. The fraction of `a` is handled in fixed point with 320 bits; the value is
irrational unless `a` is an integer, so its low bits only decide the direction of rounding. (DEDUCED: assumption 80.) -/
def fExp2 (f : FFmt) (a : Nat) : Nat × Fl :=
  match fdec f a with
  | .nan => (f.nan, 0#7)
  | .inf x => if x then (f.signed false 0, 0#7) else (finf f false, 0#7)
  | .fin n m e =>
    let fx : Int := if 0 ≤ e then signedMag n (m * 2 ^ (min e.toNat 64 + fxBits))
      else signedMag n m * (2 ^ fxBits : Nat) / (2 ^ (-e).toNat : Nat)
    let ip := fx / (2 ^ fxBits : Nat)
    let fr := (fx % (2 ^ fxBits : Nat)).toNat
    let k : Int := max (-2000) (min 2000 ip)
    if fr == 0 then roundNz f 0#2 false false 1 k
    else
      let y := expSum 80 0 (2 ^ fxBits) (fr * ln2Fx / 2 ^ fxBits)
      let s := sticky (y / 2 ^ 40) (k - (fxBits - 40 : Nat)) false
      roundNz f 0#2 false false s.1 s.2

/-- log₂ a, exact and then rounded once. -/
def fLog2 (f : FFmt) (a : Nat) : Nat × Fl :=
  match fdec f a with
  | .nan => (f.nan, 0#7)
  | .inf x => if x then (f.nan, flIV) else (finf f false, 0#7)
  | .fin n m e =>
    if m == 0 then (finf f true, flDZ)
    else if n then (f.nan, flIV)
    else
      let l := Nat.log2 m
      let k : Int := e + l
      if m == 2 ^ l then roundFin f 0#2 false (decide (k < 0)) k.natAbs 0
      else
        let fr := lnFx m (2 ^ l) * 2 ^ fxBits / ln2Fx
        let v : Int := k * (2 ^ (fxBits - 40) : Nat) + ((fr / 2 ^ 40 : Nat) : Int)
        -- the true value lies strictly between v and v + 1 units
        let neg := decide (v < 0)
        let mag := if neg then (-(v + 1)).toNat else v.toNat
        let s := sticky mag (-((fxBits - 40 : Nat) : Int)) false
        roundNz f 0#2 false neg s.1 s.2

/-! ## INT4S and INT4X elements (R51 to R53) -/

/-- R52: an INT4S nibble, and whether it is the reserved code. -/
def int4sVal (n : Nat) : Int × Bool :=
  let v := n % 16
  if v == 8 then (0, true) else if 9 ≤ v then ((v : Int) - 16, false) else ((v : Int), false)

/-- R53: the value at position 2k (`hiPos` false) or 2k+1 of an INT4X byte. -/
def int4xVal (byte : Nat) (hiPos : Bool) : FVal :=
  let lo := byte % 16
  let hi := byte / 16 % 16
  let nib (x : Nat) : FVal :=
    let v := (int4sVal x).1
    .fin (decide (v < 0)) v.natAbs 0
  if lo == 8 then (if hiPos then .fin false 0 0 else fdec fmtE4 (hi * 16 + 8))
  else if hi == 8 then (if hiPos then fdec fmtE4 (lo * 16 + 8) else .fin false 0 0)
  else if hiPos then nib hi else nib lo

/-! ## Conversions (R34, R60 to R62) -/

/-- The integer indefinite pattern (R61). -/
def indefinite (t : Ty) : Nat := 2 ^ (tyWidth t - 1)

/-- The range of an integer type (R51). -/
def intRange (t : Ty) : Int × Int :=
  match t with
  | .int4s => (-7, 7)
  | _ => if tySigned t then (-(2 ^ (tyWidth t - 1) : Nat), ((2 ^ (tyWidth t - 1) : Nat) : Int) - 1)
         else (0, ((2 ^ tyWidth t : Nat) : Int) - 1)

/-- R61. -/
def valToInt (dt : Ty) (m : CvtMode) (v : FVal) : Nat × Fl :=
  let r := intRange dt
  let bad (lim : Int) : Nat × Fl :=
    if m.sat then (wrapInt (tyWidth dt) lim, flIV) else (indefinite dt, flIV)
  match v with
  | .nan => if m.sat then (0, flIV) else (indefinite dt, flIV)
  | .inf n => bad (if n then r.1 else r.2)
  | .fin n k e =>
    let c := cutTo m.mode n k e 0
    let x := signedMag n c.1
    if x < r.1 then bad r.1
    else if r.2 < x then bad r.2
    else (wrapInt (tyWidth dt) x, if c.2 then flNX else 0#7)

/-- R60 and R57: a decoded float to a float format. -/
def valToFloat (f : FFmt) (m : CvtMode) (v : FVal) : Nat × Fl :=
  match v with
  | .nan => (f.nan, 0#7)
  | .inf n => if f.e4 then (if m.sat then f.signed n f.maxMag else f.nan, flIV) else (f.signed n f.infMag, 0#7)
  | .fin n k e => roundFin f m.mode m.sat n k e

/-- R62, R57: an integer to a float format. -/
def intToFloat (f : FFmt) (m : CvtMode) (x : Int) : Nat × Fl :=
  roundFin f m.mode m.sat (decide (x < 0)) x.natAbs 0

/-- R62: between integer formats. With `.sat` a narrowing clamps, and raises OF; so does a conversion between formats of equal
width, of which R62 says nothing. (DESIGN CHOICE: assumption 107.) -/
def intToInt (dt : Ty) (sat : Bool) (sw : Nat) (x : Int) : Nat × Fl :=
  let r := intRange dt
  if sat && decide (tyWidth dt ≤ sw) then
    if x < r.1 then (wrapInt (tyWidth dt) r.1, flOF)
    else if r.2 < x then (wrapInt (tyWidth dt) r.2, flOF)
    else (wrapInt (tyWidth dt) x, 0#7)
  else (wrapInt (tyWidth dt) x, 0#7)

/-- `fcvt`, `vcvt` (R124, R133): one element from a source type to a destination type. -/
def convert (dt st : Ty) (m : CvtMode) (x : Nat) : Nat × Fl :=
  if tyFloat st then
    let v := fdec (tyFmt st) (x % 2 ^ tyWidth st)
    if dt == st then (if valIsNan v then (tyFmt st).nan else x % 2 ^ tyWidth st, 0#7)
    else if tyFloat dt then valToFloat (tyFmt dt) m v
    else valToInt dt m v
  else
    let s : Int × Fl := match st with
      | .int4s => ((int4sVal x).1, if (int4sVal x).2 then flRC else 0#7)
      | _ => (elemInt st x, 0#7)
    let r := if tyFloat dt then intToFloat (tyFmt dt) m s.1 else intToInt dt m.sat (tyWidth st) s.1
    (r.1, s.2 ||| r.2)

/-- R34: a short immediate as an operand of a type; the conversion of an operand raises no flag. (DEDUCED: assumption 24.) -/
def immVal (t : Ty) (v : BitVec 15) : Nat :=
  if tyFloat t then (intToFloat (tyFmt t) ⟨false, 0#2⟩ v.toInt).1
  else wrapInt (tyWidth t) v.toInt

/-! ## The matrix sum (R65 to R69) -/

/-- A scale of R66. -/
def actScale (e : Nat) : FVal :=
  if e == 0 then .fin false 0 0 else .fin false 1 ((e : Int) - 127)

/-- R69: one INT56 step. -/
def int56Step (acc p : Int) : Int × Fl :=
  let t := acc + p
  let lim : Int := (2 ^ 55 : Nat) - 1
  if lim < t then (lim, flOF) else if t < -lim then (-lim, flOF) else (t, 0#7)

/-! ## Reductions (R70 to R72) -/

/-- The identity of R72. -/
def redIdentity (op : RedOp) (t : Ty) : Nat :=
  let f := tyFmt t
  if tyFloat t then
    match op with
    | .add => f.signed true 0
    | .min => if f.e4 then f.maxMag else f.infMag
    | .max => if f.e4 then f.signed true f.maxMag else f.signed true f.infMag
  else
    match op with
    | .add => 0
    | .min => wrapInt (tyWidth t) (intRange t).2
    | .max => wrapInt (tyWidth t) (intRange t).1

/-- One combination of `vred` and `vscan` (R137). -/
def redOp (op : RedOp) (t : Ty) (a b : Nat) : Nat × Fl :=
  if tyFloat t then
    match op with
    | .add => fAdd (tyFmt t) a b
    | .min => (fMinMax false (tyFmt t) a b, 0#7)
    | .max => (fMinMax true (tyFmt t) a b, 0#7)
  else
    match op with
    | .add => (wrapInt (tyWidth t) (elemInt t a + elemInt t b), 0#7)
    | .min => (if elemInt t a ≤ elemInt t b then a else b, 0#7)
    | .max => (if elemInt t a ≤ elemInt t b then b else a, 0#7)

/-- One level of the tree of R70: adjacent pairs. -/
def redLevel (op : RedOp) (t : Ty) : List Nat → List Nat × Fl
  | a :: b :: rest =>
    let r := redOp op t a b
    let more := redLevel op t rest
    (r.1 :: more.1, r.2 ||| more.2)
  | l => (l, 0#7)

/-- `n` levels of the tree. -/
def redTree (op : RedOp) (t : Ty) : Nat → List Nat → List Nat × Fl
  | 0, l => (l, 0#7)
  | n + 1, l =>
    let r := redLevel op t l
    let more := redTree op t n r.1
    (more.1, r.2 ||| more.2)

/-- One step of R71 at distance d: each lane with the flags of its combinations so far. A lane below d keeps its value as
it stands, NaN payload and all. (DEDUCED: assumption 90.) -/
def scanStep (op : RedOp) (t : Ty) (d : Nat) (l : List (Nat × Fl)) : List (Nat × Fl) :=
  l.take d ++ List.zipWith (fun x y => let r := redOp op t x.1 y.1; (r.1, y.2 ||| r.2)) l (l.drop d)

/-- The scan of R71: each lane's prefix, and the flags of the combinations formed at the lane. -/
def scanAll (op : RedOp) (t : Ty) (ds : List Nat) (l : List Nat) : List (Nat × Fl) :=
  ds.foldl (fun x d => scanStep op t d x) (l.map (fun x => (x, 0#7)))

end Sys2Proof.Machine
end

