-- ==== Sys2Proof/Decode.lean ====
section
/-!
DEFINITION. The 96-bit instruction word (R28), checks 2 to 6 of R46 as a total decoder that rejects by name, and
the encoder, both from the encoding tables of R108 to R334.
-/
namespace Sys2Proof

/-! ## The word (R28) -/

/-- The fields of R28. -/
structure Raw where
  op : BitVec 8
  fn : BitVec 8
  tt : BitVec 8
  ga : BitVec 4
  gb : BitVec 4
  gc : BitVec 4
  hint : BitVec 6
  d : BitVec 18
  a : BitVec 18
  b : BitVec 18
  deriving DecidableEq, Repr

/-- R28: the 96 bits of the fields. -/
def Raw.pack (r : Raw) : BitVec 96 :=
  r.op ++ r.fn ++ r.tt ++ r.ga ++ r.gb ++ r.gc ++ r.hint ++ r.d ++ r.a ++ r.b

/-- R28: the fields of 96 bits. -/
def Raw.unpack (w : BitVec 96) : Raw where
  op := w.extractLsb' 88 8
  fn := w.extractLsb' 80 8
  tt := w.extractLsb' 72 8
  ga := w.extractLsb' 68 4
  gb := w.extractLsb' 64 4
  gc := w.extractLsb' 60 4
  hint := w.extractLsb' 54 6
  d := w.extractLsb' 36 18
  a := w.extractLsb' 18 18
  b := w.extractLsb' 0 18

/-- A little-endian number from its bytes (R2). -/
def leNat : List Byte → Nat
  | [] => 0
  | b :: bs => b.toNat + 256 * leNat bs

/-- The n bytes of a number, lowest address first (R2). -/
def leBytes : Nat → Nat → List Byte
  | 0, _ => []
  | n + 1, x => BitVec.ofNat 8 x :: leBytes n (x / 256)

/-- R29: an instruction word from its 12 bytes. -/
def wordOfBytes (bs : List Byte) : BitVec 96 := BitVec.ofNat 96 (leNat bs)

/-! ## Decode errors (R46, R47) -/

/-- Which check of R46 refused the word: `wher` is WHERE and `field` is FIELD of R47. -/
inductive DecErr where
  | opcode
  | function (wher : Nat) (field : Nat)
  | feature (wher : Nat) (bit : Nat)
  | operand (wher : Nat) (field : Nat)
  | range (wher : Nat) (field : Nat)
  deriving DecidableEq, Repr

/-- TVAL of ILLEGAL (R47). -/
def illegalTval (field fn op wher sub : Nat) : W64 :=
  BitVec.ofNat 64 (field * 2 ^ 24 + fn * 2 ^ 16 + op * 2 ^ 8 + wher * 2 ^ 4 + sub)

def DecErr.tval (e : DecErr) (r : Raw) : W64 :=
  match e with
  | .opcode => illegalTval 0 r.fn.toNat r.op.toNat 0 1
  | .function w f => illegalTval f r.fn.toNat r.op.toNat w 2
  | .feature w b => illegalTval b r.fn.toNat r.op.toNat w 3
  | .operand w f => illegalTval f r.fn.toNat r.op.toNat w 4
  | .range w f => illegalTval f r.fn.toNat r.op.toNat w 5

/-! ## Types (R37) -/

def tyCode : Ty → BitVec 4
  | .i8 => 0x0#4 | .i16 => 0x1#4 | .i32 => 0x2#4 | .i64 => 0x3#4
  | .b8 => 0x4#4 | .b16 => 0x5#4 | .b32 => 0x6#4 | .b64 => 0x7#4
  | .int4s => 0x8#4 | .int4x => 0x9#4 | .fp8e4 => 0xA#4 | .fp8e5 => 0xB#4
  | .bf16 => 0xC#4 | .f32 => 0xD#4 | .f56 => 0xE#4

def tyOf (c : BitVec 4) : Option Ty :=
  [Ty.i8, .i16, .i32, .i64, .b8, .b16, .b32, .b64, .int4s, .int4x, .fp8e4, .fp8e5, .bf16, .f32, .f56][c.toNat]?

/-- The type lists of the encoding tables. -/
def tyI : Ty → Bool | .i8 | .i16 | .i32 | .i64 => true | _ => false
def tyB : Ty → Bool | .b8 | .b16 | .b32 | .b64 => true | _ => false
def tyIB (t : Ty) : Bool := tyI t || tyB t
def tyF3 : Ty → Bool | .bf16 | .f32 | .f56 => true | _ => false
def tyF2 : Ty → Bool | .bf16 | .f32 => true | _ => false
def tyW64 : Ty → Bool | .i64 | .b64 => true | _ => false
def tyI3 : Ty → Bool | .i8 | .i16 | .i32 => true | _ => false
def tyB3 : Ty → Bool | .b8 | .b16 | .b32 => true | _ => false
/-- Int of R129. -/
def tyInt (t : Ty) : Bool := tyI3 t || tyB3 t
/-- The lane types of R129. -/
def tyLane (t : Ty) : Bool := tyInt t || (match t with | .fp8e4 | .fp8e5 | .bf16 | .f32 => true | _ => false)
def tyLane4 (t : Ty) : Bool := tyLane t || t == .int4s
/-- The packed types of R129. -/
def tyPack : Ty → Bool
  | .i16 | .b16 | .bf16 | .i8 | .b8 | .fp8e4 | .fp8e5 | .int4s | .int4x => true
  | _ => false
/-- The weight and activation formats of R245. -/
def tyMat : Ty → Bool | .i8 | .int4s | .int4x | .fp8e4 | .fp8e5 | .bf16 => true | _ => false
/-- The types of R124: all but `.int4x`. -/
def tyCvt (t : Ty) : Bool := t != .int4x
/-- The read-out types of R254. -/
def tyAccrd (t : Ty) : Bool := t != .int4x && t != .b64
/-- The write types of R255. -/
def tyAccwr : Ty → Bool | .i32 | .i64 | .bf16 | .f32 | .f56 => true | _ => false
/-- The sizes of R144, `.v` apart. -/
def tySize (t : Ty) : Bool := tyIB t
def tyRowadd : Ty → Bool | .bf16 | .f32 | .i32 => true | _ => false
def tyRowld : Ty → Bool | .bf16 | .f32 | .i32 | .b32 => true | _ => false
def tySladd : Ty → Bool | .i64 | .b64 | .f32 | .f56 => true | _ => false

/-! ## Operand fields (R32, R33, R36) -/

/-- What a field's check says: its operand, a kind it does not accept (check 5), a value outside its limits (check
6), or a type code carried in it that is refused (check 6, R124). -/
inductive FRes (α : Type) where
  | ok (a : α)
  | kind
  | range
  | fn
  deriving DecidableEq, Repr

def FRes.map {α β : Type} (f : α → β) : FRes α → FRes β
  | .ok a => .ok (f a)
  | .kind => .kind
  | .range => .range
  | .fn => .fn

/-- One kind of operand field: how it is read and how it is written. -/
structure Fld (α : Type) where
  dec : BitVec 18 → FRes α
  enc : α → BitVec 18

def opKind (f : BitVec 18) : BitVec 3 := f.extractLsb' 15 3
def opVal (f : BitVec 18) : BitVec 15 := f.extractLsb' 0 15
def opMk (k : BitVec 3) (v : BitVec 15) : BitVec 18 := k ++ v
/-- Class and index of kind 100. -/
def spClass (v : BitVec 15) : BitVec 5 := v.extractLsb' 10 5
def spIndex (v : BitVec 15) : BitVec 10 := v.extractLsb' 0 10
def spMk (c : BitVec 5) (i : BitVec 10) : BitVec 15 := c ++ i

/-- R36: an unused field. -/
def zeroF : Fld Unit where
  dec f := if f == 0#18 then .ok () else .range
  enc _ := 0#18

/-- Kind 000 alone: a `w` register. -/
def wF : Fld (BitVec 5) where
  dec f := if opKind f == 0#3 then (if (opVal f).toNat < 32 then .ok ((opVal f).setWidth 5) else .range) else .kind
  enc r := opMk 0#3 (r.setWidth 15)

/-- The `g` kind, 101. -/
def gDec (v : BitVec 15) : FRes (BitVec 5) := if v.toNat < 32 then .ok (v.setWidth 5) else .range

/-- Kind 000 or 101: an address base. -/
def wgF : Fld WG where
  dec f :=
    if opKind f == 0#3 then (wF.dec f).map .w
    else if opKind f == 5#3 then (gDec (opVal f)).map .g
    else .kind
  enc
    | .w r => opMk 0#3 (r.setWidth 15)
    | .g r => opMk 5#3 (r.setWidth 15)

/-- An immediate with limits, read as signed (R32, R108). -/
def immF (lo hi : Int) : Fld (BitVec 15) where
  dec f :=
    if opKind f == 3#3 then
      (if lo ≤ (opVal f).toInt ∧ (opVal f).toInt ≤ hi then .ok (opVal f) else .range)
    else .kind
  enc v := opMk 3#3 v

/-- Kind 000, or kind 011 with limits. -/
def wiF (lo hi : Int) : Fld WI where
  dec f :=
    if opKind f == 0#3 then (wF.dec f).map .w
    else ((immF lo hi).dec f).map .imm
  enc
    | .w r => opMk 0#3 (r.setWidth 15)
    | .imm v => opMk 3#3 v

def immMin : Int := -16384
def immMax : Int := 16383

/-- The limits of a special register's index (R33); `none` for a reserved class. -/
def spLimit (c : BitVec 5) : Option Nat :=
  match c.toNat with
  | 0 => some 16
  | 1 => some 16
  | 2 => some 8
  | 3 => some 8
  | 4 => some 64
  | 5 => some 3
  | _ => none

/-- Kind 100 in a field that accepts some of its classes: an accepted class gives its operand, an assigned class
that the field does not accept fails check 5, a reserved class or an index beyond the limit fails check 6 (R33). -/
def spDec {α : Type} (v : BitVec 15) (acc : BitVec 5 → Option (BitVec 10 → α)) : FRes α :=
  match spLimit (spClass v) with
  | none => .range
  | some lim =>
    match acc (spClass v) with
    | none => .kind
    | some mk => if (spIndex v).toNat < lim then .ok (mk (spIndex v)) else .range

/-- Set S of R106. -/
def srcF : Fld Src where
  dec f :=
    if opKind f == 0#3 then (wF.dec f).map .w
    else if opKind f == 3#3 then .ok (.imm (opVal f))
    else if opKind f == 5#3 then (gDec (opVal f)).map .g
    else if opKind f == 4#3 then
      spDec (opVal f) (fun c =>
        if c == 1#5 then some (fun i => .q (i.setWidth 4))
        else if c == 2#5 then some (fun i => .s (i.setWidth 3))
        else if c == 3#5 then some (fun i => .n (i.setWidth 3))
        else none)
    else .kind
  enc
    | .w r => opMk 0#3 (r.setWidth 15)
    | .imm v => opMk 3#3 v
    | .g r => opMk 5#3 (r.setWidth 15)
    | .q r => opMk 4#3 (spMk 1#5 (r.setWidth 10))
    | .s r => opMk 4#3 (spMk 2#5 (r.setWidth 10))
    | .n r => opMk 4#3 (spMk 3#5 (r.setWidth 10))

/-- Set W of R106. -/
def dstF : Fld Dst where
  dec f :=
    if opKind f == 0#3 then (wF.dec f).map .w
    else if opKind f == 4#3 then
      spDec (opVal f) (fun c =>
        if c == 1#5 then some (fun i => .q (i.setWidth 4))
        else if c == 3#5 then some (fun i => .n (i.setWidth 3))
        else none)
    else .kind
  enc
    | .w r => opMk 0#3 (r.setWidth 15)
    | .q r => opMk 4#3 (spMk 1#5 (r.setWidth 10))
    | .n r => opMk 4#3 (spMk 3#5 (r.setWidth 10))

def loopReg (i : BitVec 10) : LoopReg := if i == 0#10 then .lc else if i == 1#10 then .ls else .le
def loopIdx : LoopReg → BitVec 10
  | .lc => 0#10 | .ls => 1#10 | .le => 2#10

/-- The sources of `mov` (R119). -/
def movSrcF : Fld MovSrc where
  dec f :=
    if opKind f == 4#3 && spClass (opVal f) == 5#5 then
      spDec (opVal f) (fun _ => some (fun i => .loop (loopReg i)))
    else (srcF.dec f).map .src
  enc
    | .src a => srcF.enc a
    | .loop r => opMk 4#3 (spMk 5#5 (loopIdx r))

/-- The destinations of `mov` (R119). -/
def movDstF : Fld MovDst where
  dec f :=
    if opKind f == 4#3 && spClass (opVal f) == 5#5 then
      spDec (opVal f) (fun _ => some (fun i => .loop (loopReg i)))
    else (dstF.dec f).map .dst
  enc
    | .dst a => dstF.enc a
    | .loop r => opMk 4#3 (spMk 5#5 (loopIdx r))

/-- Kinds 001 and 010: VD of R128. -/
def vF : Fld VReg where
  dec f :=
    if opKind f == 1#3 then
      (if (opVal f).toNat < 2048 then .ok (.v ((opVal f).setWidth 11)) else .range)
    else if opKind f == 2#3 then .ok (.vi ((opVal f).extractLsb' 0 5) ((opVal f).extractLsb' 5 10))
    else .kind
  enc
    | .v r => opMk 1#3 (r.setWidth 15)
    | .vi w o => opMk 2#3 (o ++ w)

/-- Set VV of R128. -/
def vvF : Fld VV where
  dec f :=
    if opKind f == 4#3 then
      spDec (opVal f) (fun c => if c == 2#5 then some (fun i => .s (i.setWidth 3)) else none)
    else (vF.dec f).map .reg
  enc
    | .reg r => vF.enc r
    | .s r => opMk 4#3 (spMk 2#5 (r.setWidth 10))

/-- Set V of R106. -/
def vsrcF : Fld VSrc where
  dec f :=
    if opKind f == 1#3 || opKind f == 2#3 then (vF.dec f).map .reg
    else (srcF.dec f).map .sc
  enc
    | .reg r => vF.enc r
    | .sc a => srcF.enc a

/-- Set P of R106: index bits [9:4] zero. -/
def pF : Fld (BitVec 4) where
  dec f :=
    if opKind f == 4#3 then
      spDec (opVal f) (fun c => if c == 0#5 then some (fun i => i.setWidth 4) else none)
    else .kind
  enc p := opMk 4#3 (spMk 0#5 (p.setWidth 10))

/-- Set PP of R106: bits [9:8] zero, and pt = pf only when both are 0 (R114, R313). -/
def ppF : Fld Pair where
  dec f :=
    if opKind f == 4#3 then
      (match spLimit (spClass (opVal f)) with
       | none => .range
       | some _ =>
         if spClass (opVal f) == 0#5 then
           (let i := spIndex (opVal f)
            let pt := i.extractLsb' 0 4
            let pf := i.extractLsb' 4 4
            if i.toNat < 256 && !(pt == pf && pt != 0#4) then .ok ⟨pt, pf⟩ else .range)
         else .kind)
    else .kind
  enc p := opMk 4#3 (spMk 0#5 ((p.pf ++ p.pt : BitVec 8).setWidth 10))

/-- One class of kind 100 alone (streams, ports, accumulators). -/
def classF (c : BitVec 5) (n : Nat) : Fld (BitVec n) where
  dec f :=
    if opKind f == 4#3 then
      spDec (opVal f) (fun k => if k == c then some (fun i => i.setWidth n) else none)
    else .kind
  enc r := opMk 4#3 (spMk c (r.setWidth 10))

def streamF : Fld (BitVec 3) := classF 2#5 3
def portF : Fld (BitVec 3) := classF 3#5 3
def accF : Fld (BitVec 6) := classF 4#5 6

/-- Slot operands (R32, R313). -/
def slotF : Fld SlotOp where
  dec f :=
    if opKind f == 6#3 then (if (opVal f).toNat < 1280 then .ok (.sl (opVal f)) else .range)
    else (wF.dec f).map .w
  enc
    | .sl k => opMk 6#3 k
    | .w r => opMk 0#3 (r.setWidth 15)

/-- An immediate read as an unsigned number below a bound (R168, R218, R334). -/
def uimmF (ok : Nat → Bool) : Fld (BitVec 15) where
  dec f := if opKind f == 3#3 then (if ok (opVal f).toNat then .ok (opVal f) else .range) else .kind
  enc v := opMk 3#3 v

/-- Kind 000, or an immediate read as unsigned. -/
def wuF (ok : Nat → Bool) : Fld WI where
  dec f :=
    if opKind f == 0#3 then (wF.dec f).map .w
    else ((uimmF ok).dec f).map .imm
  enc
    | .w r => opMk 0#3 (r.setWidth 15)
    | .imm v => opMk 3#3 v

/-- The conversion modifiers of R124 in B, with the source type. Where bits [14:7] are not zero and the type is refused
too, OPERAND_RANGE comes first. (DEDUCED: assumption 93.) -/
def cvtF (ok : Ty → Bool) : Fld (CvtMode × Ty) where
  dec f :=
    if opKind f == 3#3 then
      (let v := opVal f
       if v.extractLsb' 7 8 != 0#8 then .range
       else match tyOf (v.extractLsb' 0 4) with
         | some t => if ok t then .ok (⟨v.getLsbD 6, v.extractLsb' 4 2⟩, t) else .fn
         | none => .fn)
    else .kind
  enc x := opMk 3#3 ((0#8 ++ BitVec.ofBool x.1.sat ++ x.1.mode ++ tyCode x.2 : BitVec 15))

/-- The modifiers of R254 in B: bits [14:7] and [3:0] zero. -/
def accModeF : Fld CvtMode where
  dec f :=
    if opKind f == 3#3 then
      (let v := opVal f
       if v.extractLsb' 7 8 != 0#8 || v.extractLsb' 0 4 != 0#4 then .range
       else .ok ⟨v.getLsbD 6, v.extractLsb' 4 2⟩)
    else .kind
  enc m := opMk 3#3 ((0#8 ++ BitVec.ofBool m.sat ++ m.mode ++ 0#4 : BitVec 15))

/-- The destination of `cpyg`, `cpyx`, `cpys` (R260). -/
def cpyDstF : Fld CpyDst where
  dec f :=
    if opKind f == 0#3 then (wF.dec f).map .sp
    else (streamF.dec f).map .stream
  enc
    | .sp r => opMk 0#3 (r.setWidth 15)
    | .stream s => streamF.enc s

/-- A record source (R213). -/
def recF : Fld RecSrc where
  dec f :=
    if opKind f == 0#3 then (wF.dec f).map .mem
    else (vF.dec f).map .vec
  enc
    | .mem r => opMk 0#3 (r.setWidth 15)
    | .vec r => vF.enc r

/-- A field decoder followed by a change of its value's type. -/
def Fld.as {α β : Type} (f : Fld α) (g : α → β) (h : β → α) : Fld β where
  dec x := (f.dec x).map g
  enc y := f.enc (h y)

/-! ## Checks 5 and 6 over D, A and B (R46) -/

/-- Check 5 on one field. -/
def chkKind {α : Type} (w : Nat) (f : BitVec 18) (r : FRes α) : Except DecErr Unit :=
  match r with
  | .kind => .error (.operand w f.toNat)
  | _ => .ok ()

/-- Check 6 on one field; the operand. -/
def chkVal {α : Type} (w : Nat) (f : BitVec 18) (r : FRes α) : Except DecErr α :=
  match r with
  | .ok a => .ok a
  | .kind => .error (.operand w f.toNat)
  | .range => .error (.range w f.toNat)
  | .fn => .error (.function w f.toNat)

/-- Checks 5 and 6 over the three fields, D, A, B in order. -/
def fields {δ α β : Type} (r : Raw) (fd : Fld δ) (fa : Fld α) (fb : Fld β) : Except DecErr (δ × α × β) := do
  chkKind 1 r.d (fd.dec r.d)
  chkKind 2 r.a (fa.dec r.a)
  chkKind 3 r.b (fb.dec r.b)
  let d ← chkVal 1 r.d (fd.dec r.d)
  let a ← chkVal 2 r.a (fa.dec r.a)
  let b ← chkVal 3 r.b (fb.dec r.b)
  return (d, a, b)

/-- The checks of one field alone, when the other bits hold IMM36 (R38). -/
def fieldD {δ : Type} (r : Raw) (fd : Fld δ) : Except DecErr δ := do
  chkKind 1 r.d (fd.dec r.d)
  chkVal 1 r.d (fd.dec r.d)

/-! ## Forms: checks 3 and 4 -/

/-- What checks 3 and 4 need to know of an accepted FN, and the rest of the decoding. -/
structure Form where
  /-- The ACCEPT0 bit that gates the OP (R46). -/
  gate : Option Nat
  /-- The type code 0x9 of a typed instruction. -/
  int4x : Bool
  /-- Bits [35:0] hold IMM36, or all of D, A and B when 2: those bits are no operand fields. -/
  long : Bool
  body : Except DecErr Instr

def plain (body : Except DecErr Instr) : Option Form := some ⟨none, false, false, body⟩
def gated (g : Nat) (body : Except DecErr Instr) : Option Form := some ⟨some g, false, false, body⟩

/-- A typed row: FN[3:0] is a type of the list, FN[7:4] is `hi`. -/
def typed (r : Raw) (hi : Nat) (ok : Ty → Bool) (k : Ty → Except DecErr Instr) : Option Form :=
  if r.fn.toNat / 16 = hi then
    match tyOf (r.fn.extractLsb' 0 4) with
    | some t => if ok t then some ⟨none, t == .int4x, false, k t⟩ else none
    | none => none
  else none

/-- As `typed`, for a row that uses FN[7:4] itself. -/
def typedX (r : Raw) (ok : Ty → Bool) (k : Ty → Except DecErr Instr) : Option Form :=
  match tyOf (r.fn.extractLsb' 0 4) with
  | some t => if ok t then some ⟨none, t == .int4x, false, k t⟩ else none
  | none => none

/-- An untyped row with one FN value. -/
def fnIs (r : Raw) (v : Nat) (k : Except DecErr Instr) : Option Form :=
  if r.fn.toNat = v then plain k else none

def Raw.ctl (r : Raw) : Ctl := ⟨r.tt, r.ga, r.gb, r.gc, r.hint⟩
def Raw.imm36 (r : Raw) : BitVec 36 := r.a ++ r.b

/-! ## Ordering codes (R146, R162) -/

def scopeOf (n : Nat) : Option Scope := [Scope.core, .cluster, .die, .package, .system][n]?
def scopeNum : Scope → Nat
  | .core => 0 | .cluster => 1 | .die => 2 | .package => 3 | .system => 4

/-- FN[7:4] of a load, store or atomic (R146). -/
def ordOf (n : Nat) : Ord :=
  if n = 0 then ⟨none, none, false⟩
  else if n ≤ 5 then ⟨scopeOf (n - 1), none, false⟩
  else if n ≤ 10 then ⟨none, scopeOf (n - 6), false⟩
  else ⟨scopeOf (n - 11), scopeOf (n - 11), false⟩

def ordLoad (n : Nat) : Bool := decide (n ≤ 5)
def ordStore (n : Nat) : Bool := n == 0 || (decide (6 ≤ n) && decide (n ≤ 10))

/-- FN[7:4] of an ordering (R146; 0xF is the row scope of R162). -/
def ordCode (o : Ord) : Nat :=
  if o.row then 15 else
  match o.acq, o.rel with
  | none, none => 0
  | some s, none => 1 + scopeNum s
  | none, some s => 6 + scopeNum s
  | some s, some _ => 11 + scopeNum s

/-- FN[7:4] of a row form: 0xF is the row scope (R162). -/
def rowOrd (n : Nat) : Ord := if n = 15 then ⟨none, none, true⟩ else ordOf n

def atOpOf (n : Nat) : AtOp :=
  match n with
  | 0 => .addI64 | 1 => .addI32 | 2 => .addfx | 3 => .minI64 | 4 => .maxI64 | 5 => .minB64 | 6 => .maxB64
  | 7 => .andB64 | 8 => .orB64 | 9 => .xorB64 | 10 => .swapB64 | 11 => .casB64 | 12 => .casB32
  | 13 => .faddF32 | 14 => .faddF56 | _ => .swapB32

def atOpNum : AtOp → Nat
  | .addI64 => 0 | .addI32 => 1 | .addfx => 2 | .minI64 => 3 | .maxI64 => 4 | .minB64 => 5 | .maxB64 => 6
  | .andB64 => 7 | .orB64 => 8 | .xorB64 => 9 | .swapB64 => 10 | .casB64 => 11 | .casB32 => 12
  | .faddF32 => 13 | .faddF56 => 14 | .swapB32 => 15

/-- The operations that HM and PM carry (R160, R166). -/
def atRemote : AtOp → Bool
  | .addI64 | .addI32 | .casB64 | .casB32 => true
  | _ => false

def iCondOf (n : Nat) : Option ICond :=
  [ICond.eq, .ne, .lt, .le, .gt, .ge, .lo, .ls, .hi, .hs][n]?
def iCondNum : ICond → Nat
  | .eq => 0 | .ne => 1 | .lt => 2 | .le => 3 | .gt => 4 | .ge => 5 | .lo => 6 | .ls => 7 | .hi => 8 | .hs => 9
/-- R113: the types a condition is for. -/
def iCondTy (k : ICond) (t : Ty) : Bool :=
  match k with
  | .eq | .ne => tyIB t
  | .lt | .le | .gt | .ge => tyI t
  | .lo | .ls | .hi | .hs => tyB t
def fCondOf (n : Nat) : Option FCond := [FCond.oeq, .olt, .ole, .uno][n]?
def fCondNum : FCond → Nat
  | .oeq => 0 | .olt => 1 | .ole => 2 | .uno => 3

/-! ## The rows of the opcode map, high digit by high digit (R49) -/

/-- `w` or an immediate without limits. -/
def wiAny : Fld WI := wiF immMin immMax
def immAny : Fld (BitVec 15) := immF immMin immMax

def hiFn (r : Raw) : Nat := r.fn.toNat / 16

/-- 0x01 to 0x0A (R108). -/
def row0 (r : Raw) : Option (Option Form) :=
  let c := r.ctl
  match r.op.toNat % 16 with
  | 1 => some (fnIs r 0 (do let _ ← fields r zeroF zeroF zeroF; return .nop c))
  | 2 => some (
      if r.fn.toNat = 0 then plain (do let x ← fields r zeroF immAny zeroF; return .br c x.2.1)
      else if r.fn.toNat = 0x80 then
        some ⟨none, false, true, do let _ ← fieldD r zeroF; return .brLong c r.imm36⟩
      else none)
  | 3 => some (fnIs r 0 (do let x ← fields r wF zeroF zeroF; return .brx c x.1))
  | 4 => some (
      if r.fn.toNat = 0 then plain (do let x ← fields r zeroF immAny zeroF; return .call c x.2.1)
      else if r.fn.toNat = 0x80 then
        some ⟨none, false, true, do let _ ← fieldD r zeroF; return .callLong c r.imm36⟩
      else none)
  | 5 => some (fnIs r 0 (do let x ← fields r wF zeroF zeroF; return .callx c x.1))
  | 6 => some (fnIs r 0 (do let x ← fields r wF zeroF zeroF; return .ret c x.1))
  | 7 => some (fnIs r 0 (do let x ← fields r (wiF 0 16383) (immF 3 16383) zeroF; return .loop c x.1 x.2.1))
  | 8 => some (
      if r.fn.toNat = 0 then plain (do let _ ← fields r zeroF zeroF zeroF; return .done c)
      else if r.fn.toNat = 1 then plain (do let x ← fields r wF zeroF zeroF; return .doneJ c x.1)
      else none)
  | 9 => some (fnIs r 0 (do let _ ← fields r zeroF zeroF zeroF; return .yield c))
  | 10 => some (fnIs r 0 (do let x ← fields r (immF 0 16383) zeroF zeroF; return .brk c x.1))
  | _ => none

/-- 0x10 to 0x18 (R113 to R118). -/
def row1 (r : Raw) : Option (Option Form) :=
  let c := r.ctl
  match r.op.toNat % 16 with
  | 0 => some (match iCondOf (hiFn r) with
      | some k => typedX r (iCondTy k) (fun t => do
          let x ← fields r ppF srcF srcF; return .cmp c k t x.1 x.2.1 x.2.2)
      | none => none)
  | 1 => some (match fCondOf (hiFn r) with
      | some k => typedX r tyF3 (fun t => do
          let x ← fields r ppF srcF srcF; return .cmpf c k t x.1 x.2.1 x.2.2)
      | none => none)
  | 2 => some (match iCondOf (hiFn r) with
      | some k => typedX r (fun t => iCondTy k t && tyInt t) (fun t => do
          let x ← fields r ppF vsrcF vsrcF; return .vcmp c k t x.1 x.2.1 x.2.2)
      | none => none)
  | 3 => some (match fCondOf (hiFn r) with
      | some k => typedX r tyF2 (fun t => do
          let x ← fields r ppF vsrcF vsrcF; return .vcmpf c k t x.1 x.2.1 x.2.2)
      | none => none)
  | 4 => some (plain (do let x ← fields r pF pF pF; return .plog c r.fn x.1 x.2.1 x.2.2))
  | 5 => some (
      if r.fn.toNat = 0 then plain (do let x ← fields r pF pF zeroF; return .pmov c x.1 x.2.1)
      else if r.fn.toNat = 1 then plain (do let x ← fields r pF wF zeroF; return .pmovFromW c x.1 x.2.1)
      else if r.fn.toNat = 2 then plain (do let x ← fields r wF pF zeroF; return .pmovToW c x.1 x.2.1)
      else none)
  | 6 => some (fnIs r 0 (do let x ← fields r dstF pF zeroF; return .pcnt c x.1 x.2.1))
  | 7 => some (fnIs r 0 (do let x ← fields r dstF pF zeroF; return .pfirst c x.1 x.2.1))
  | 8 => some (
      if r.fn.toNat = 0 then plain (do let x ← fields r pF immAny zeroF; return .pset c x.1 x.2.1)
      else if r.fn.toNat = 1 then plain (do let x ← fields r pF (wiF 0 32) zeroF; return .psetFirst c x.1 x.2.1)
      else none)
  | _ => none

/-- A typed scalar row with two sources (R119). -/
def bin (r : Raw) (ok : Ty → Bool) (k : Ctl → Ty → Dst → Src → Src → Instr) : Option Form :=
  typed r 0 ok (fun t => do let x ← fields r dstF srcF srcF; return k r.ctl t x.1 x.2.1 x.2.2)

/-- A typed scalar row with one source (R119). -/
def un (r : Raw) (ok : Ty → Bool) (k : Ctl → Ty → Dst → Src → Instr) : Option Form :=
  typed r 0 ok (fun t => do let x ← fields r dstF srcF zeroF; return k r.ctl t x.1 x.2.1)

/-- 0x20 to 0x2F (R119). -/
def row2 (r : Raw) : Option (Option Form) :=
  match r.op.toNat % 16 with
  | 0 => some (bin r tyIB .add)
  | 1 => some (bin r tyIB .sub)
  | 2 => some (bin r tyIB .mul)
  | 3 => some (bin r tyIB .mulh)
  | 4 => some (bin r tyIB .div)
  | 5 => some (bin r tyIB .rem)
  | 6 => some (bin r tyB .and)
  | 7 => some (bin r tyB .or)
  | 8 => some (bin r tyB .xor)
  | 9 => some (bin r tyB .andn)
  | 10 => some (bin r tyIB .shl)
  | 11 => some (bin r tyB .shr)
  | 12 => some (bin r tyI .sar)
  | 13 => some (bin r tyB .rot)
  | 14 => some (bin r tyIB .min)
  | _ => some (bin r tyIB .max)

/-- 0x30 to 0x3E (R119 to R124). -/
def row3 (r : Raw) : Option (Option Form) :=
  let c := r.ctl
  match r.op.toNat % 16 with
  | 0 => some (un r tyB .clz)
  | 1 => some (un r tyB .popc)
  | 2 => some (typedX r tyIB (fun t => do
      let x ← fields r dstF srcF srcF; return .sel c t (r.fn.extractLsb' 4 4) x.1 x.2.1 x.2.2))
  | 3 => some (typed r 0 tyIB (fun t => do let x ← fields r movDstF movSrcF zeroF; return .mov c t x.1 x.2.1))
  | 4 => some (
      if r.fn.toNat = 0x80 then some ⟨none, false, true, do let d ← fieldD r wF; return .movi c d r.imm36⟩
      else if r.fn.toNat = 0x81 then some ⟨none, false, true, do
        let d ← fieldD r wF
        if r.imm36.extractLsb' 28 8 == 0#8 then return .moviH c d (r.imm36.extractLsb' 0 28)
        else throw (.range 2 r.a.toNat)⟩
      else none)
  | 5 => some (
      if r.fn.toNat = 0 then plain (do let x ← fields r dstF immAny zeroF; return .lea c x.1 x.2.1)
      else if r.fn.toNat / 4 = 4 then plain (do
        let x ← fields r dstF srcF srcF; return .leaScaled c (r.fn.extractLsb' 0 2) x.1 x.2.1 x.2.2)
      else none)
  | 6 => some (bin r tyW64 .bext)
  | 7 => some (typed r 0 (· == .b64) (fun _ => do let x ← fields r wF srcF srcF; return .bins c x.1 x.2.1 x.2.2))
  | 8 => some (un r tyI3 .sext)
  | 9 => some (un r tyB3 .zext)
  | 10 => some (bin r tyF3 .fadd)
  | 11 => some (bin r tyF3 .fsub)
  | 12 => some (bin r tyF3 .fmul)
  | 13 => some (typed r 0 tyF3 (fun t => do let x ← fields r wF srcF srcF; return .ffma c t x.1 x.2.1 x.2.2))
  | 14 => some (typed r 0 tyCvt (fun t => do
      let x ← fields r dstF srcF (cvtF tyCvt); return .fcvt c t x.2.2.2 x.2.2.1 x.1 x.2.1))
  | _ => none

/-- A typed vector row with two lane sources (R129). -/
def vbin (r : Raw) (ok : Ty → Bool) (k : Ctl → Ty → VReg → VSrc → VSrc → Instr) : Option Form :=
  typed r 0 ok (fun t => do let x ← fields r vF vsrcF vsrcF; return k r.ctl t x.1 x.2.1 x.2.2)

/-- A typed vector row with one lane source (R129). -/
def vun (r : Raw) (ok : Ty → Bool) (k : Ctl → Ty → VReg → VSrc → Instr) : Option Form :=
  typed r 0 ok (fun t => do let x ← fields r vF vsrcF zeroF; return k r.ctl t x.1 x.2.1)

/-- `vadd` and `vsub`: FN[7:4] is 0, or 1 for `.sat`. -/
def vsatF (r : Raw) (k : Ctl → Bool → Ty → VReg → VSrc → VSrc → Instr) : Option Form :=
  if hiFn r = 0 then vbin r tyInt (fun c => k c false)
  else typed r 1 tyInt (fun t => do let x ← fields r vF vsrcF vsrcF; return k r.ctl true t x.1 x.2.1 x.2.2)

def tyAbs (t : Ty) : Bool := tyInt t || tyF2 t

/-- 0x40 to 0x4F (R129). -/
def row4 (r : Raw) : Option (Option Form) :=
  match r.op.toNat % 16 with
  | 0 => some (vsatF r .vadd)
  | 1 => some (vsatF r .vsub)
  | 2 => some (vbin r tyInt .vmul)
  | 3 => some (vbin r tyInt .vmulh)
  | 4 => some (vbin r tyInt .vmin)
  | 5 => some (vbin r tyInt .vmax)
  | 6 => some (vun r tyAbs .vabs)
  | 7 => some (vun r tyAbs .vneg)
  | 8 => some (vbin r tyB3 .vand)
  | 9 => some (vbin r tyB3 .vor)
  | 10 => some (vbin r tyB3 .vxor)
  | 11 => some (vbin r tyInt .vshl)
  | 12 => some (vbin r tyB3 .vshr)
  | 13 => some (vbin r tyI3 .vsar)
  | 14 => some (vbin r tyF2 .vfadd)
  | _ => some (vbin r tyF2 .vfsub)

def redOf (n : Nat) : Option RedOp := [RedOp.add, .min, .max][n]?
def redNum : RedOp → Nat
  | .add => 0 | .min => 1 | .max => 2

/-- 0x50 to 0x5F (R129). -/
def row5 (r : Raw) : Option (Option Form) :=
  let c := r.ctl
  match r.op.toNat % 16 with
  | 0 => some (vbin r tyF2 .vfmul)
  | 1 => some (vbin r tyF2 .vfma)
  | 2 => some (vbin r tyF2 .vfmin)
  | 3 => some (vbin r tyF2 .vfmax)
  | 4 => some (vun r tyF2 .vrcp)
  | 5 => some (vun r tyF2 .vrsq)
  | 6 => some (vun r tyF2 .vexp2)
  | 7 => some (vun r tyF2 .vlog2)
  | 8 => some (typed r 0 tyLane4 (fun t => do
      let x ← fields r vF vsrcF (cvtF tyLane4); return .vcvt c t x.2.2.2 x.2.2.1 x.1 x.2.1))
  | 9 => some (typedX r tyLane (fun t => do
      let x ← fields r vF vsrcF vsrcF; return .vsel c t (r.fn.extractLsb' 4 4) x.1 x.2.1 x.2.2))
  | 10 => some (vun r tyLane .vmov)
  | 11 => some (
      if hiFn r = 0 then typed r 0 tyLane (fun t => do let x ← fields r vF srcF zeroF; return .vbcast c t x.1 x.2.1)
      else typed r 1 tyLane (fun t => do
        let x ← fields r vF vvF (wiF 0 31); return .vbcastLane c t x.1 x.2.1 x.2.2))
  | 12 => some (
      if hiFn r = 0 then typed r 0 tyInt (fun t => do let x ← fields r vF zeroF zeroF; return .vidx c t x.1)
      else typed r 1 tyInt (fun t => do let x ← fields r vF srcF srcF; return .vidxStep c t x.1 x.2.1 x.2.2))
  | 13 => some (fnIs r 0 (do let x ← fields r vF vvF vvF; return .vperm c x.1 x.2.1 x.2.2))
  | 14 =>
    let withK (mk : WI → Shuf) : Option Form := plain (do
      let x ← fields r vF vvF (wiF 0 31); return .vshuf c (mk x.2.2) x.1 x.2.1)
    let without (s : Shuf) : Option Form := plain (do
      let x ← fields r vF vvF zeroF; return .vshuf c s x.1 x.2.1)
    some (match r.fn.toNat with
      | 0 => without .rev
      | 1 => withK .rot
      | 2 => withK .shd
      | 3 => withK .shu
      | 4 => withK .xor
      | 5 => without .unzip
      | 6 => without .zip
      | _ => none)
  | _ => some (match redOf (hiFn r) with
      | some op => typedX r tyLane (fun t => do let x ← fields r wF vvF zeroF; return .vred c op t x.1 x.2.1)
      | none => none)

/-- 0x60 to 0x64 (R129). -/
def row6 (r : Raw) : Option (Option Form) :=
  let c := r.ctl
  match r.op.toNat % 16 with
  | 0 => some (match redOf (hiFn r) with
      | some op => typedX r tyLane (fun t => do let x ← fields r vF vvF zeroF; return .vscan c op t x.1 x.2.1)
      | none => none)
  | 1 => some (typed r 0 tyPack (fun t => do let x ← fields r vF vF zeroF; return .vpack c t x.1 x.2.1))
  | 2 => some (typed r 0 tyPack (fun t => do let x ← fields r vF vvF zeroF; return .vunpack c t x.1 x.2.1))
  | 3 => some (plain (do let x ← fields r vF vF vvF; return .vgath c r.fn x.1 x.2.1 x.2.2))
  | 4 => some (plain (do let x ← fields r vF vvF vsrcF; return .vscat c r.fn x.1 x.2.1 x.2.2))
  | _ => none

/-! ### Memory (R159 to R169) -/

/-- The destination of a load of a size (R144): `none` for a reserved size code. -/
def ldDstF (code : Nat) : Option (Fld LdDst) :=
  if code = 8 then some (vF.as .v (fun | .v x => x | .w _ _ => .v 0#11))
  else match tyOf (BitVec.ofNat 4 code) with
    | some t => if tySize t then some (wF.as (.w t) (fun | .w _ x => x | .v _ => 0#5)) else none
    | none => none

/-- The data of a store of a size. -/
def stSrcF (code : Nat) : Option (Fld StSrc) :=
  if code = 8 then some (vvF.as .v (fun | .v x => x | .s _ _ => .s 0#3))
  else match tyOf (BitVec.ofNat 4 code) with
    | some t => if tySize t then some (srcF.as (.s t) (fun | .s _ x => x | .v _ => .w 0#5)) else none
    | none => none

def loadRow (r : Raw) (okOrd : Bool) (code : Nat) (k : LdDst → WG → WI → Instr) : Option Form :=
  if okOrd then
    match ldDstF code with
    | some fd => plain (do let x ← fields r fd wgF wiAny; return k x.1 x.2.1 x.2.2)
    | none => none
  else none

def storeRow (r : Raw) (okOrd : Bool) (code : Nat) (k : WG → WI → StSrc → Instr) : Option Form :=
  if okOrd then
    match stSrcF code with
    | some fb => plain (do let x ← fields r wgF wiAny fb; return k x.1 x.2.1 x.2.2)
    | none => none
  else none

/-- 0x70 to 0x7F. -/
def row7 (r : Raw) : Option (Option Form) :=
  let c := r.ctl
  let h := hiFn r
  let l := r.fn.toNat % 16
  let o := ordOf h
  let atom (ok : Bool) (k : AtOp → BitVec 5 → WG → Src → Instr) : Option Form :=
    if ok then plain (do let x ← fields r wF wgF srcF; return k (atOpOf l) x.1 x.2.1 x.2.2) else none
  let port : BitVec 3 := r.fn.extractLsb' 5 3
  let po := r.fn.getLsbD 4
  let peer (f : Option Form) : Option Form := f.map (fun x => { x with gate := some 1 })
  match r.op.toNat % 16 with
  | 0 => some (loadRow r (ordLoad h) l (.ldsp c o))
  | 1 => some (storeRow r (ordStore h) l (.stsp c o))
  | 2 => some (atom true (.atsp c o))
  | 3 => some (loadRow r (ordLoad h) l (.ldd c o))
  | 4 => some (storeRow r (ordStore h) l (.std c o))
  | 5 => some (atom true (.atd c o))
  | 6 => some (if h = 15 || ordStore h then
      (typedX r tyRowadd (fun t => do
        let x ← fields r wF vF zeroF; return .rowadd c (rowOrd h) t x.1 x.2.1)).map (fun x => { x with gate := some 0 })
      else none)
  | 7 => some (if h = 15 || ordLoad h then
      (typedX r tyRowld (fun t => do
        let x ← fields r vF wF (wiF 0 16383); return .rowld c (rowOrd h) t x.1 x.2.1 x.2.2)).map
          (fun x => { x with gate := some 0 })
      else none)
  | 8 => some (loadRow r (ordLoad h) l (.ldh c o))
  | 9 => some (storeRow r (ordStore h) l (.sth c o))
  | 10 => some (atom (atRemote (atOpOf l)) (.ath c o))
  | 11 => some (peer (loadRow r true l (.ldp c port po)))
  | 12 => some (peer (storeRow r true l (.stp c port po)))
  | 13 => some (peer (atom (atRemote (atOpOf l)) (.atp c port po)))
  | 14 => some (
      if r.fn.toNat = 0 then plain (do
        let x ← fields r wF (immF 0 3) (immF 0 7); return .ldmb c x.1 x.2.1 x.2.2)
      else if r.fn.toNat = 1 then plain (do
        let x ← fields r wF (immF 0 3) (immF 0 7); return .ldmbOut c x.1 x.2.1 x.2.2)
      else none)
  | _ => some (fnIs r 0 (do let x ← fields r (immF 0 3) (immF 0 7) srcF; return .stmb c x.1 x.2.1 x.2.2))

def anyNum (_ : Nat) : Bool := true

/-- 0x80 to 0x82. -/
def row8 (r : Raw) : Option (Option Form) :=
  let c := r.ctl
  match r.op.toNat % 16 with
  | 0 => some (fnIs r 0 (do let x ← fields r wF (wuF anyNum) zeroF; return .ldcf c x.1 x.2.1))
  | 1 => some (fnIs r 0 (do let x ← fields r (wuF anyNum) srcF zeroF; return .stcf c x.1 x.2.1))
  | 2 => some (if r.fn.toNat ≤ 5 then plain (do
      let x ← fields r (uimmF (fun n => decide (0 < n) && decide (n < 64))) zeroF zeroF
      return .fence c (r.fn.extractLsb' 0 3) (x.1.extractLsb' 0 6)) else none)
  | _ => none

/-- 0x90 to 0x99 (R213). -/
def row9 (r : Raw) : Option (Option Form) :=
  let c := r.ctl
  let len := wiF 0 16383
  let org := wuF (fun n => decide (n < 1024))
  let shp := wuF (fun n => decide (n < 64))
  match r.op.toNat % 16 with
  | 0 => some (
      if r.fn.toNat = 0 then plain (do let x ← fields r wiAny wgF len; return .spawn c x.1 x.2.1 x.2.2)
      else if r.fn.toNat = 1 then plain (do let x ← fields r recF zeroF zeroF; return .spawnRec c x.1)
      else none)
  | 1 => some (fnIs r 0 (do let x ← fields r wiAny org shp; return .spawnr c x.1 x.2.1 x.2.2))
  | 2 => some (fnIs r 0 (do let x ← fields r wiAny wF shp; return .spawnd c x.1 x.2.1 x.2.2))
  | 3 => some (
      if r.fn.toNat = 0 then plain (do let x ← fields r wiAny zeroF zeroF; return .fork c x.1)
      else if r.fn.toNat = 1 then plain (do let x ← fields r wiAny wgF len; return .forkAnchored c x.1 x.2.1 x.2.2)
      else none)
  | 4 => some (fnIs r 0 (do let x ← fields r wiAny wgF len; return .migrate c x.1 x.2.1 x.2.2))
  | 5 => some (
      if r.fn.toNat = 0 then plain (do let x ← fields r wF wiAny zeroF; return .setdep c x.1 x.2.1)
      else if r.fn.toNat = 1 then plain (do let x ← fields r wF wiAny wF; return .setdepHeld c x.1 x.2.1 x.2.2)
      else none)
  | 6 => some (fnIs r 0 (do let x ← fields r wF zeroF zeroF; return .decr c x.1))
  | 7 =>
    let q (k : WG → WI → WI → Instr) : Option Form := plain (do
      let x ← fields r wgF (wiF 0 15) wiAny; return k x.1 x.2.1 x.2.2)
    some (match r.fn.toNat with
      | 0 => q (.qcfgThresh c)
      | 1 => q (.qcfgTickets c)
      | 2 => q (.qcfgSpbase c)
      | 3 => q (.qcfgSpsize c)
      | _ => none)
  | 8 => some (fnIs r 0 (do let x ← fields r dstF wF (wiF 0 15); return .qstat c x.1 x.2.1 x.2.2))
  | 9 => some (
      if r.fn.toNat = 0 then plain (do let x ← fields r vF wF (wiF 0 15); return .steal c x.1 x.2.1 x.2.2)
      else if r.fn.toNat = 1 then plain (do let x ← fields r vF wF (wiF 0 15); return .stealAny c x.1 x.2.1 x.2.2)
      else none)
  | _ => none

/-- 0xA0 to 0xA9 (R125, R285, R289, R293). -/
def rowA (r : Raw) : Option (Option Form) :=
  let c := r.ctl
  let bar := wiF 0 127
  let tag := wiF 0 255
  let chan := wiF 0 15
  match r.op.toNat % 16 with
  | 0 => some (match r.fn.toNat with
      | 0 => plain (do let x ← fields r bar zeroF zeroF; return .barArr c x.1)
      | 1 => plain (do let x ← fields r bar zeroF zeroF; return .barWait c x.1)
      | 2 => plain (do let x ← fields r bar zeroF zeroF; return .barSync c x.1)
      | _ => none)
  | 1 => some (fnIs r 0 (do
      let x ← fields r bar (wiF 0 255) (wiF 0 16383); return .barcfg c x.1 x.2.1 x.2.2))
  | 2 => some (match r.fn.toNat with
      | 0 => plain (do let x ← fields r wgF tag (wiF 0 16383); return .amsg c x.1 x.2.1 x.2.2)
      | 1 => plain (do let x ← fields r wgF tag (wiF 0 16383); return .amsgRel c x.1 x.2.1 x.2.2)
      | _ => none)
  | 3 => some (fnIs r 0 (do let x ← fields r wgF tag wiAny; return .bind c x.1 x.2.1 x.2.2))
  | 4 => some (fnIs r 0 (do let x ← fields r wgF tag zeroF; return .unbind c x.1 x.2.1))
  | 5 => some (match r.fn.toNat with
      | 0 => gated 3 (do let x ← fields r portF (wiF 0 1023) chan; return .openTx c x.1 x.2.1 x.2.2)
      | 1 => gated 3 (do let x ← fields r portF chan zeroF; return .openRx c x.1 x.2.1)
      | _ => none)
  | 6 => some (if r.fn.toNat = 0 then gated 3 (do let x ← fields r portF zeroF zeroF; return .close c x.1) else none)
  | 7 => some (if r.fn.toNat = 0 then gated 2 (do let _ ← fields r zeroF zeroF zeroF; return .spec c) else none)
  | 8 => some (if r.fn.toNat = 0 then gated 2 (do let x ← fields r wF zeroF zeroF; return .commit c x.1) else none)
  | 9 => some (if r.fn.toNat = 0 then gated 2 (do let x ← fields r wF zeroF zeroF; return .abort c x.1) else none)
  | _ => none

/-- The destination of `slrd` and `slalight`: a word, or a vector register. -/
def slDstF (code : Nat) (j : Nat) : Option (Fld LdDst) :=
  if code = 8 && j != 0 then none
  else if code = 3 || code = 7 || code = 8 then ldDstF code
  else none

/-- The source of `slboard`. -/
def slSrcF (code : Nat) (j : Nat) : Option (Fld SlSrc) :=
  if code = 8 then (if j = 0 then some (vF.as .v (fun | .v x => x | .s _ _ => .v 0#11)) else none)
  else match tyOf (BitVec.ofNat 4 code) with
    | some t => if tyW64 t then some (srcF.as (.s t) (fun | .s _ x => x | .v _ => .w 0#5)) else none
    | none => none

/-- 0xB0 to 0xB7 (R313, R314). -/
def rowB (r : Raw) : Option (Option Form) :=
  let c := r.ctl
  let l := r.fn.toNat % 16
  let j : BitVec 3 := r.fn.extractLsb' 4 3
  let v := r.fn.getLsbD 7
  let word (ok : Ty → Bool) (k : Ty → BitVec 5 → SlotOp → Src → Instr) : Option Form :=
    if v then none
    else typedX r ok (fun t => do let x ← fields r wF slotF srcF; return k t x.1 x.2.1 x.2.2)
  match r.op.toNat % 16 with
  | 0 => some (if v then none else match slDstF l j.toNat with
      | some fd => plain (do let x ← fields r fd slotF ppF; return .slrd c j x.1 x.2.1 x.2.2)
      | none => none)
  | 1 => some (word tyW64 (.slcas c j))
  | 2 => some (word tySladd (.sladd c j))
  | 3 => some (word tyW64 (.slswap c j))
  | 4 => some (if v then none else match slSrcF l j.toNat with
      | some fa => plain (do let x ← fields r wF fa ppF; return .slboard c j x.1 x.2.1 x.2.2)
      | none => none)
  | 5 => some (if v then none else match slDstF l j.toNat with
      | some fd => plain (do let x ← fields r fd slotF ppF; return .slalight c j x.1 x.2.1 x.2.2)
      | none => none)
  | 6 => some (
      if r.fn.toNat = 0x80 then plain (do let x ← fields r wF slotF srcF; return .slwaitRev c x.1 x.2.1 x.2.2)
      else word tyW64 (.slwait c j))
  | 7 => some (match r.fn.toNat with
      | 0 => plain (do let x ← fields r wF zeroF zeroF; return .slinfoPool c x.1)
      | 1 => plain (do let x ← fields r wF zeroF zeroF; return .slinfoStn c x.1)
      | 2 => plain (do let x ← fields r wF slotF zeroF; return .slinfoHdr c x.1 x.2.1)
      | _ => none)
  | _ => none

/-- The parameter of `ldwg` and `mmag` (R247, R252): the field that holds it; `ones` is the limit of `.ones`. -/
def genMatF (kind ones : Nat) : Option (Fld GenMat) :=
  match kind with
  | 0 => some (zeroF.as (fun _ => .ident) (fun _ => ()))
  | 1 => some ((wiF 0 511).as .shift (fun | .shift s => s | _ => .imm 0#15))
  | 2 => some ((wiF 0 ones).as .ones (fun | .ones s => s | _ => .imm 0#15))
  | 3 => some (vF.as .perm (fun | .perm v => v | _ => .v 0#11))
  | _ => none

/-- The accumulator rows of an immediate row count (R244). -/
def rowsFit (acc : BitVec 6) (m : WI) : Bool :=
  match m with
  | .imm v => decide (acc.toNat + v.toNat % 64 + 1 ≤ 64)
  | .w _ => true

def rowCntF : Fld WI := wuF (fun n => decide (n < 64))

/-- A row-count field in A, whose immediate is checked against the accumulator that D names (R244). -/
def rowsAtF (d : BitVec 18) : Fld WI where
  dec x := match rowCntF.dec x with
    | .ok m => if rowsFit (d.extractLsb' 0 6) m then .ok m else .range
    | e => e
  enc := rowCntF.enc

/-- `mma` and `mmag`: the row count lies in B, and an immediate that passes row 63 fails check 6 there (R244). -/
def withRows (r : Raw) (acc : BitVec 6) (m : WI) (i : Instr) : Except DecErr Instr :=
  if rowsFit acc m then .ok i else .error (.range 3 r.b.toNat)

/-- The generated-matrix operand with its accumulator, as one field: D of `mmag` is the accumulator, A the kind's
parameter. -/
def rowC (r : Raw) : Option (Option Form) :=
  let c := r.ctl
  let h := hiFn r
  match r.op.toNat % 16 with
  | 0 => some (
      if h = 0 then typed r 0 tyMat (fun t => do let x ← fields r vF zeroF zeroF; return .ldwC c t x.1)
      else typed r 1 tyMat (fun t => do let x ← fields r vF zeroF zeroF; return .ldwK c t x.1))
  | 1 => some (match genMatF h 31 with
      | some fd => typedX r tyMat (fun t => do let x ← fields r fd zeroF zeroF; return .ldwg c t x.1)
      | none => none)
  | 2 => some (fnIs r 0 (do let x ← fields r vF zeroF zeroF; return .ldws c x.1))
  | 3 => some (fnIs r 0 (do let _ ← fields r zeroF zeroF zeroF; return .swpw c))
  | 4 => some (
      if h = 0 then typed r 0 tyMat (fun t => do
        let x ← fields r accF vvF rowCntF; withRows r x.1 x.2.2 (.mma c t x.1 x.2.1 x.2.2))
      else typed r 1 tyMat (fun t => do
        let x ← fields r accF vvF (wuF anyNum); withRows r x.1 x.2.2 (.mmaSc c t x.1 x.2.1 x.2.2)))
  | 5 => some (match genMatF h 63 with
      | some fa => typedX r tyMat (fun t => do
          let x ← fields r accF fa rowCntF; withRows r x.1 x.2.2 (.mmag c t x.1 x.2.1 x.2.2))
      | none => none)
  | 6 => some (fnIs r 0 (do let x ← fields r accF (rowsAtF r.d) zeroF; return .accz c x.1 x.2.1))
  | 7 => some (typed r 0 tyAccrd (fun t => do
      let x ← fields r vF accF accModeF; return .accrd c t x.2.2 x.1 x.2.1))
  | 8 => some (typed r 0 tyAccwr (fun t => do let x ← fields r accF vF zeroF; return .accwr c t x.1 x.2.1))
  | 9 => some (fnIs r 0 (do let x ← fields r wF (wiF 0 2) zeroF; return .mstat c x.1 x.2.1))
  | _ => none

/-- The copy FN layout of R260: group and space, `none` where it is broken. -/
def cpyFn (fn : BitVec 8) : Option (BitVec 2 × CpySpace) :=
  let port : BitVec 3 := fn.extractLsb' 2 3
  let sp : Option CpySpace := match (fn.extractLsb' 0 2 : BitVec 2).toNat with
    | 0 => if port == 0#3 then some .dm else none
    | 1 => if port == 0#3 then some .sp else none
    | 2 => if port == 0#3 then some .hm else none
    | _ => some (.pm port)
  sp.map (fun s => (fn.extractLsb' 5 2, s))

/-- 0xD0 to 0xD7 (R260). -/
def rowD (r : Raw) : Option (Option Form) :=
  let c := r.ctl
  let v := r.fn.getLsbD 7
  let g : BitVec 2 := r.fn.extractLsb' 0 2
  match r.op.toNat % 16 with
  | 0 => some (match v, cpyFn r.fn with
      | false, some x => plain (do
          let y ← fields r wgF wgF (wiF 0 16383); return .cpy c x.1 x.2 y.1 y.2.1 y.2.2)
      | _, _ => none)
  | 1 => some (match cpyFn r.fn with
      | some x => plain (do let y ← fields r cpyDstF vF zeroF; return .cpyg c v x.1 x.2 y.1 y.2.1)
      | none => none)
  | 2 => some (match cpyFn r.fn with
      | some (x, .dm) => plain (do let y ← fields r cpyDstF vF zeroF; return .cpyx c v x y.1 y.2.1)
      | _ => none)
  | 3 => some (match v, cpyFn r.fn with
      | false, some x => plain (do let y ← fields r cpyDstF vF zeroF; return .cpys c x.1 x.2 y.1 y.2.1)
      | _, _ => none)
  | 4 => some (match v, cpyFn r.fn with
      | false, some x => plain (do
          let y ← fields r streamF wgF (wiF 0 16383); return .cbind c x.1 x.2 y.1 y.2.1 y.2.2)
      | _, _ => none)
  | 5 => some (if r.fn.toNat < 4 then plain (do
      let x ← fields r (wiF 0 32) zeroF zeroF; return .cwait c g x.1) else none)
  | 6 => some (if r.fn.toNat < 4 then plain (do let _ ← fields r zeroF zeroF zeroF; return .ccancel c g) else none)
  | 7 => some (if r.fn.toNat < 4 then plain (do let x ← fields r wF zeroF zeroF; return .cstat c g x.1) else none)
  | _ => none

/-- The assigned system registers (R333). -/
def sysAssigned (n : Nat) : Bool :=
  (decide (1 ≤ n) && decide (n ≤ 0xA)) || (decide (0x10 ≤ n) && decide (n ≤ 0x13)) || n == 0x18 || n == 0x20 || n == 0x21 ||
  n == 0x30 || n == 0x40 || n == 0x50 || n == 0x51 || n == 0x60 || (decide (0x70 ≤ n) && decide (n ≤ 0x77)) ||
  (decide (0x100 ≤ n) && decide (n ≤ 0x17F))

/-- 0xE0 to 0xE5 (R334). -/
def rowE (r : Raw) : Option (Option Form) :=
  let c := r.ctl
  let num := uimmF sysAssigned
  match r.op.toNat % 16 with
  | 0 => some (fnIs r 0 (do let x ← fields r wF num zeroF; return .csrr c x.1 x.2.1))
  | 1 => some (match r.fn.toNat with
      | 0 => plain (do let x ← fields r num srcF zeroF; return .csrw c x.1 x.2.1)
      | 1 => plain (do let x ← fields r num srcF zeroF; return .csrwSet c x.1 x.2.1)
      | 2 => plain (do let x ← fields r num srcF zeroF; return .csrwClr c x.1 x.2.1)
      | _ => none)
  | 2 => some (fnIs r 0 (do let x ← fields r (immF 0 16383) zeroF zeroF; return .ecall c x.1))
  | 3 => some (fnIs r 0 (do let _ ← fields r zeroF zeroF zeroF; return .eret c))
  | 4 => some (match r.fn.toNat with
      | 0 => plain (do let x ← fields r wF zeroF zeroF; return .tlbinvPage c x.1)
      | 1 => plain (do let _ ← fields r zeroF zeroF zeroF; return .tlbinvAll c)
      | _ => none)
  | 5 => some (fnIs r 0 (do let x ← fields r wF zeroF zeroF; return .ckpt c x.1))
  | _ => none

/-- Check 2: the row of an OP value; `none` where the map leaves it unassigned (R49). The inner `none` is an FN that
check 3 refuses. -/
def formOf (r : Raw) : Option (Option Form) :=
  match r.op.toNat / 16 with
  | 0 => row0 r
  | 1 => row1 r
  | 2 => row2 r
  | 3 => row3 r
  | 4 => row4 r
  | 5 => row5 r
  | 6 => row6 r
  | 7 => row7 r
  | 8 => row8 r
  | 9 => row9 r
  | 10 => rowA r
  | 11 => rowB r
  | 12 => rowC r
  | 13 => rowD r
  | 14 => rowE r
  | _ => none

/-- Whether a field holds special class 00011 (R46, gate 3). -/
def isPortField (f : BitVec 18) : Bool := opKind f == 4#3 && spClass (opVal f) == 3#5

/-- Check 4 (R46). -/
def gateCheck (accept : W64) (r : Raw) (f : Form) : Except DecErr Unit :=
  let has (b : Nat) : Bool := accept.getLsbD b
  let opBad : Option Nat := match f.gate with
    | some g => if has g then none else some g
    | none => none
  match opBad with
  | some g => .error (.feature 0 g)
  | none =>
    if f.int4x && !has 4 then .error (.feature 0 4)
    else if has 3 then .ok ()
    else if isPortField r.d then .error (.feature 1 3)
    else if !f.long && isPortField r.a then .error (.feature 2 3)
    else if !f.long && isPortField r.b then .error (.feature 3 3)
    else .ok ()

/-- Checks 2 to 6 of R46: an instruction, or the check that refuses the word. -/
def decodeRaw (accept : W64) (r : Raw) : Except DecErr Instr :=
  match formOf r with
  | none => .error .opcode
  | some none => .error (.function 0 0)
  | some (some f) => do
    gateCheck accept r f
    f.body

/-- A word as it is fetched. -/
def decodeWord (accept : W64) (w : BitVec 96) : Except DecErr Instr := decodeRaw accept (Raw.unpack w)

/-- Twelve bytes as they are fetched (R29). -/
def decodeBytes (accept : W64) (bs : List Byte) : Except DecErr Instr := decodeWord accept (wordOfBytes bs)

/-- Every feature accepted: what the opcode table's words are decoded under. -/
def acceptAll : W64 := 0xFF#64

/-- The host's reading of one opcode-table row: the bits are laid out as twelve bytes, and the decoder reads them
with every feature accepted. -/
def decodeTableWord (_nbits w : Nat) : Option Instr :=
  match decodeBytes acceptAll (leBytes 12 w) with
  | .ok i => some i
  | .error _ => none

/-! ## The encoder, from the same tables -/

/-- A word with guard, hints and three operand fields. -/
def mkRaw (c : Ctl) (op fn : Nat) (d a b : BitVec 18) : Raw :=
  ⟨BitVec.ofNat 8 op, BitVec.ofNat 8 fn, c.tt, c.ga, c.gb, c.gc, c.hint, d, a, b⟩

/-- A word with three fields encoded by their kinds. -/
def enc3 {δ α β : Type} (c : Ctl) (op fn : Nat) (fd : Fld δ) (d : δ) (fa : Fld α) (a : α) (fb : Fld β) (b : β) : Raw :=
  mkRaw c op fn (fd.enc d) (fa.enc a) (fb.enc b)

/-- A long form (R38). -/
def encLong (c : Ctl) (op fn : Nat) (d : BitVec 18) (v : BitVec 36) : Raw :=
  mkRaw c op fn d (v.extractLsb' 18 18) (v.extractLsb' 0 18)

/-- FN of a typed row. -/
def tyFn (hi : Nat) (t : Ty) : Nat := hi * 16 + (tyCode t).toNat

def encBin (c : Ctl) (op : Nat) (t : Ty) (d : Dst) (a b : Src) : Raw :=
  enc3 c op (tyFn 0 t) dstF d srcF a srcF b
def encUn (c : Ctl) (op : Nat) (t : Ty) (d : Dst) (a : Src) : Raw :=
  enc3 c op (tyFn 0 t) dstF d srcF a zeroF ()
def encVbin (c : Ctl) (op hi : Nat) (t : Ty) (d : VReg) (a b : VSrc) : Raw :=
  enc3 c op (tyFn hi t) vF d vsrcF a vsrcF b
def encVun (c : Ctl) (op : Nat) (t : Ty) (d : VReg) (a : VSrc) : Raw :=
  enc3 c op (tyFn 0 t) vF d vsrcF a zeroF ()

/-- The size code of a load's destination (R144). -/
def ldCode : LdDst → Nat
  | .w t _ => (tyCode t).toNat
  | .v _ => 8
def stCode : StSrc → Nat
  | .s t _ => (tyCode t).toNat
  | .v _ => 8
def slCode : SlSrc → Nat
  | .s t _ => (tyCode t).toNat
  | .v _ => 8
def encLdDst : LdDst → BitVec 18
  | .w _ r => wF.enc r
  | .v r => vF.enc r
def encStSrc : StSrc → BitVec 18
  | .s _ a => srcF.enc a
  | .v a => vvF.enc a
def encSlSrc : SlSrc → BitVec 18
  | .s _ a => srcF.enc a
  | .v r => vF.enc r

def encLoad (c : Ctl) (op hi : Nat) (d : LdDst) (base : WG) (off : WI) : Raw :=
  mkRaw c op (hi * 16 + ldCode d) (encLdDst d) (wgF.enc base) (wiAny.enc off)
def encStore (c : Ctl) (op hi : Nat) (base : WG) (off : WI) (a : StSrc) : Raw :=
  mkRaw c op (hi * 16 + stCode a) (wgF.enc base) (wiAny.enc off) (encStSrc a)
def encAtom (c : Ctl) (op hi : Nat) (k : AtOp) (d : BitVec 5) (base : WG) (b : Src) : Raw :=
  enc3 c op (hi * 16 + atOpNum k) wF d wgF base srcF b
/-- FN[7:4] of a peer access (R166). -/
def peerHi (port : BitVec 3) (o : Bool) : Nat := port.toNat * 2 + o.toNat

def encShuf : Shuf → Nat × BitVec 18
  | .rev => (0, 0#18)
  | .rot k => (1, (wiF 0 31).enc k)
  | .shd k => (2, (wiF 0 31).enc k)
  | .shu k => (3, (wiF 0 31).enc k)
  | .xor k => (4, (wiF 0 31).enc k)
  | .unzip => (5, 0#18)
  | .zip => (6, 0#18)

def genKind : GenMat → Nat
  | .ident => 0 | .shift _ => 1 | .ones _ => 2 | .perm _ => 3
def encGen : GenMat → BitVec 18
  | .ident => 0#18
  | .shift s => wiAny.enc s
  | .ones s => wiAny.enc s
  | .perm v => vF.enc v

def encCpySpace : CpySpace → Nat
  | .dm => 0 | .sp => 1 | .hm => 2 | .pm p => p.toNat * 4 + 3
/-- The copy FN layout of R260. -/
def encCpyFn (v : Bool) (g : BitVec 2) (s : CpySpace) : Nat := v.toNat * 128 + g.toNat * 32 + encCpySpace s

def slFn (j : BitVec 3) (code : Nat) : Nat := j.toNat * 16 + code

/-- The word of an instruction; none for a step of the device, which no word names. -/
def encode : Instr → Option Raw
  | .nop c => some (mkRaw c 0x01 0 0 0 0)
  | .br c off => some (mkRaw c 0x02 0 0 (immAny.enc off) 0)
  | .brLong c off => some (encLong c 0x02 0x80 0 off)
  | .brx c a => some (mkRaw c 0x03 0 (wF.enc a) 0 0)
  | .call c off => some (mkRaw c 0x04 0 0 (immAny.enc off) 0)
  | .callLong c off => some (encLong c 0x04 0x80 0 off)
  | .callx c a => some (mkRaw c 0x05 0 (wF.enc a) 0 0)
  | .ret c a => some (mkRaw c 0x06 0 (wF.enc a) 0 0)
  | .loop c n off => some (mkRaw c 0x07 0 (wiAny.enc n) (immAny.enc off) 0)
  | .done c => some (mkRaw c 0x08 0 0 0 0)
  | .doneJ c a => some (mkRaw c 0x08 1 (wF.enc a) 0 0)
  | .yield c => some (mkRaw c 0x09 0 0 0 0)
  | .brk c v => some (mkRaw c 0x0A 0 (immAny.enc v) 0 0)
  | .cmp c k t d a b => some (enc3 c 0x10 (tyFn (iCondNum k) t) ppF d srcF a srcF b)
  | .cmpf c k t d a b => some (enc3 c 0x11 (tyFn (fCondNum k) t) ppF d srcF a srcF b)
  | .vcmp c k t d a b => some (enc3 c 0x12 (tyFn (iCondNum k) t) ppF d vsrcF a vsrcF b)
  | .vcmpf c k t d a b => some (enc3 c 0x13 (tyFn (fCondNum k) t) ppF d vsrcF a vsrcF b)
  | .plog c tt d a b => some (enc3 c 0x14 tt.toNat pF d pF a pF b)
  | .pmov c d a => some (enc3 c 0x15 0 pF d pF a zeroF ())
  | .pmovFromW c d a => some (enc3 c 0x15 1 pF d wF a zeroF ())
  | .pmovToW c d a => some (enc3 c 0x15 2 wF d pF a zeroF ())
  | .pcnt c d a => some (enc3 c 0x16 0 dstF d pF a zeroF ())
  | .pfirst c d a => some (enc3 c 0x17 0 dstF d pF a zeroF ())
  | .pset c d m => some (enc3 c 0x18 0 pF d immAny m zeroF ())
  | .psetFirst c d n => some (enc3 c 0x18 1 pF d wiAny n zeroF ())
  | .add c t d a b => some (encBin c 0x20 t d a b)
  | .sub c t d a b => some (encBin c 0x21 t d a b)
  | .mul c t d a b => some (encBin c 0x22 t d a b)
  | .mulh c t d a b => some (encBin c 0x23 t d a b)
  | .div c t d a b => some (encBin c 0x24 t d a b)
  | .rem c t d a b => some (encBin c 0x25 t d a b)
  | .and c t d a b => some (encBin c 0x26 t d a b)
  | .or c t d a b => some (encBin c 0x27 t d a b)
  | .xor c t d a b => some (encBin c 0x28 t d a b)
  | .andn c t d a b => some (encBin c 0x29 t d a b)
  | .shl c t d a b => some (encBin c 0x2A t d a b)
  | .shr c t d a b => some (encBin c 0x2B t d a b)
  | .sar c t d a b => some (encBin c 0x2C t d a b)
  | .rot c t d a b => some (encBin c 0x2D t d a b)
  | .min c t d a b => some (encBin c 0x2E t d a b)
  | .max c t d a b => some (encBin c 0x2F t d a b)
  | .clz c t d a => some (encUn c 0x30 t d a)
  | .popc c t d a => some (encUn c 0x31 t d a)
  | .sel c t k d a b => some (enc3 c 0x32 (tyFn k.toNat t) dstF d srcF a srcF b)
  | .mov c t d a => some (enc3 c 0x33 (tyFn 0 t) movDstF d movSrcF a zeroF ())
  | .movi c d v => some (encLong c 0x34 0x80 (wF.enc d) v)
  | .moviH c d v => some (encLong c 0x34 0x81 (wF.enc d) (v.setWidth 36))
  | .lea c d off => some (enc3 c 0x35 0 dstF d immAny off zeroF ())
  | .leaScaled c s d a b => some (enc3 c 0x35 (16 + s.toNat) dstF d srcF a srcF b)
  | .bext c t d a b => some (encBin c 0x36 t d a b)
  | .bins c d a b => some (enc3 c 0x37 7 wF d srcF a srcF b)
  | .sext c t d a => some (encUn c 0x38 t d a)
  | .zext c t d a => some (encUn c 0x39 t d a)
  | .fadd c t d a b => some (encBin c 0x3A t d a b)
  | .fsub c t d a b => some (encBin c 0x3B t d a b)
  | .fmul c t d a b => some (encBin c 0x3C t d a b)
  | .ffma c t d a b => some (enc3 c 0x3D (tyFn 0 t) wF d srcF a srcF b)
  | .fcvt c dt st m d a => some (enc3 c 0x3E (tyFn 0 dt) dstF d srcF a (cvtF tyCvt) (m, st))
  | .vadd c sat t d a b => some (encVbin c 0x40 sat.toNat t d a b)
  | .vsub c sat t d a b => some (encVbin c 0x41 sat.toNat t d a b)
  | .vmul c t d a b => some (encVbin c 0x42 0 t d a b)
  | .vmulh c t d a b => some (encVbin c 0x43 0 t d a b)
  | .vmin c t d a b => some (encVbin c 0x44 0 t d a b)
  | .vmax c t d a b => some (encVbin c 0x45 0 t d a b)
  | .vabs c t d a => some (encVun c 0x46 t d a)
  | .vneg c t d a => some (encVun c 0x47 t d a)
  | .vand c t d a b => some (encVbin c 0x48 0 t d a b)
  | .vor c t d a b => some (encVbin c 0x49 0 t d a b)
  | .vxor c t d a b => some (encVbin c 0x4A 0 t d a b)
  | .vshl c t d a b => some (encVbin c 0x4B 0 t d a b)
  | .vshr c t d a b => some (encVbin c 0x4C 0 t d a b)
  | .vsar c t d a b => some (encVbin c 0x4D 0 t d a b)
  | .vfadd c t d a b => some (encVbin c 0x4E 0 t d a b)
  | .vfsub c t d a b => some (encVbin c 0x4F 0 t d a b)
  | .vfmul c t d a b => some (encVbin c 0x50 0 t d a b)
  | .vfma c t d a b => some (encVbin c 0x51 0 t d a b)
  | .vfmin c t d a b => some (encVbin c 0x52 0 t d a b)
  | .vfmax c t d a b => some (encVbin c 0x53 0 t d a b)
  | .vrcp c t d a => some (encVun c 0x54 t d a)
  | .vrsq c t d a => some (encVun c 0x55 t d a)
  | .vexp2 c t d a => some (encVun c 0x56 t d a)
  | .vlog2 c t d a => some (encVun c 0x57 t d a)
  | .vcvt c dt st m d a => some (enc3 c 0x58 (tyFn 0 dt) vF d vsrcF a (cvtF tyLane4) (m, st))
  | .vsel c t k d a b => some (encVbin c 0x59 k.toNat t d a b)
  | .vmov c t d a => some (encVun c 0x5A t d a)
  | .vbcast c t d a => some (enc3 c 0x5B (tyFn 0 t) vF d srcF a zeroF ())
  | .vbcastLane c t d a j => some (enc3 c 0x5B (tyFn 1 t) vF d vvF a wiAny j)
  | .vidx c t d => some (enc3 c 0x5C (tyFn 0 t) vF d zeroF () zeroF ())
  | .vidxStep c t d b s => some (enc3 c 0x5C (tyFn 1 t) vF d srcF b srcF s)
  | .vperm c d a b => some (enc3 c 0x5D 0 vF d vvF a vvF b)
  | .vshuf c p d a => some (mkRaw c 0x5E (encShuf p).1 (vF.enc d) (vvF.enc a) (encShuf p).2)
  | .vred c op t d a => some (enc3 c 0x5F (tyFn (redNum op) t) wF d vvF a zeroF ())
  | .vscan c op t d a => some (enc3 c 0x60 (tyFn (redNum op) t) vF d vvF a zeroF ())
  | .vpack c t d a => some (enc3 c 0x61 (tyFn 0 t) vF d vF a zeroF ())
  | .vunpack c t d a => some (enc3 c 0x62 (tyFn 0 t) vF d vvF a zeroF ())
  | .vgath c l d tab idx => some (enc3 c 0x63 l.toNat vF d vF tab vvF idx)
  | .vscat c l tab idx a => some (enc3 c 0x64 l.toNat vF tab vvF idx vsrcF a)
  | .ldsp c o d base off => some (encLoad c 0x70 (ordCode o) d base off)
  | .stsp c o base off a => some (encStore c 0x71 (ordCode o) base off a)
  | .atsp c o k d base b => some (encAtom c 0x72 (ordCode o) k d base b)
  | .ldd c o d base off => some (encLoad c 0x73 (ordCode o) d base off)
  | .std c o base off a => some (encStore c 0x74 (ordCode o) base off a)
  | .atd c o k d base b => some (encAtom c 0x75 (ordCode o) k d base b)
  | .rowadd c o t row a => some (enc3 c 0x76 (tyFn (ordCode o) t) wF row vF a zeroF ())
  | .rowld c o t d row v => some (enc3 c 0x77 (tyFn (ordCode o) t) vF d wF row wiAny v)
  | .ldh c o d base off => some (encLoad c 0x78 (ordCode o) d base off)
  | .sth c o base off a => some (encStore c 0x79 (ordCode o) base off a)
  | .ath c o k d base b => some (encAtom c 0x7A (ordCode o) k d base b)
  | .ldp c p o d base off => some (encLoad c 0x7B (peerHi p o) d base off)
  | .stp c p o base off a => some (encStore c 0x7C (peerHi p o) base off a)
  | .atp c p o k d base b => some (encAtom c 0x7D (peerHi p o) k d base b)
  | .ldmb c d mb w => some (enc3 c 0x7E 0 wF d immAny mb immAny w)
  | .ldmbOut c d mb w => some (enc3 c 0x7E 1 wF d immAny mb immAny w)
  | .stmb c mb w a => some (enc3 c 0x7F 0 immAny mb immAny w srcF a)
  | .ldcf c d n => some (enc3 c 0x80 0 wF d wiAny n zeroF ())
  | .stcf c n a => some (enc3 c 0x81 0 wiAny n srcF a zeroF ())
  | .fence c s m => some (enc3 c 0x82 s.toNat immAny (m.setWidth 15) zeroF () zeroF ())
  | .spawn c desc base len => some (enc3 c 0x90 0 wiAny desc wgF base wiAny len)
  | .spawnRec c s => some (enc3 c 0x90 1 recF s zeroF () zeroF ())
  | .spawnr c desc o s => some (enc3 c 0x91 0 wiAny desc wiAny o wiAny s)
  | .spawnd c desc m s => some (enc3 c 0x92 0 wiAny desc wF m wiAny s)
  | .fork c e => some (enc3 c 0x93 0 wiAny e zeroF () zeroF ())
  | .forkAnchored c e base len => some (enc3 c 0x93 1 wiAny e wgF base wiAny len)
  | .migrate c e base len => some (enc3 c 0x94 0 wiAny e wgF base wiAny len)
  | .setdep c blk n => some (enc3 c 0x95 0 wF blk wiAny n zeroF ())
  | .setdepHeld c blk n r => some (enc3 c 0x95 1 wF blk wiAny n wF r)
  | .decr c blk => some (enc3 c 0x96 0 wF blk zeroF () zeroF ())
  | .qcfgThresh c a q v => some (enc3 c 0x97 0 wgF a wiAny q wiAny v)
  | .qcfgTickets c a q v => some (enc3 c 0x97 1 wgF a wiAny q wiAny v)
  | .qcfgSpbase c a q v => some (enc3 c 0x97 2 wgF a wiAny q wiAny v)
  | .qcfgSpsize c a q v => some (enc3 c 0x97 3 wgF a wiAny q wiAny v)
  | .qstat c d a q => some (enc3 c 0x98 0 dstF d wF a wiAny q)
  | .steal c d a q => some (enc3 c 0x99 0 vF d wF a wiAny q)
  | .stealAny c d a q => some (enc3 c 0x99 1 vF d wF a wiAny q)
  | .barArr c b => some (enc3 c 0xA0 0 wiAny b zeroF () zeroF ())
  | .barWait c b => some (enc3 c 0xA0 1 wiAny b zeroF () zeroF ())
  | .barSync c b => some (enc3 c 0xA0 2 wiAny b zeroF () zeroF ())
  | .barcfg c b n t => some (enc3 c 0xA1 0 wiAny b wiAny n wiAny t)
  | .amsg c a t r => some (enc3 c 0xA2 0 wgF a wiAny t wiAny r)
  | .amsgRel c a t r => some (enc3 c 0xA2 1 wgF a wiAny t wiAny r)
  | .bind c a t e => some (enc3 c 0xA3 0 wgF a wiAny t wiAny e)
  | .unbind c a t => some (enc3 c 0xA4 0 wgF a wiAny t zeroF ())
  | .openTx c p core ch => some (enc3 c 0xA5 0 portF p wiAny core wiAny ch)
  | .openRx c p ch => some (enc3 c 0xA5 1 portF p wiAny ch zeroF ())
  | .close c p => some (enc3 c 0xA6 0 portF p zeroF () zeroF ())
  | .spec c => some (mkRaw c 0xA7 0 0 0 0)
  | .commit c d => some (mkRaw c 0xA8 0 (wF.enc d) 0 0)
  | .abort c d => some (mkRaw c 0xA9 0 (wF.enc d) 0 0)
  | .slrd c j d s p => some (mkRaw c 0xB0 (slFn j (ldCode d)) (encLdDst d) (slotF.enc s) (ppF.enc p))
  | .slcas c j t d s b => some (enc3 c 0xB1 (slFn j (tyCode t).toNat) wF d slotF s srcF b)
  | .sladd c j t d s b => some (enc3 c 0xB2 (slFn j (tyCode t).toNat) wF d slotF s srcF b)
  | .slswap c j t d s b => some (enc3 c 0xB3 (slFn j (tyCode t).toNat) wF d slotF s srcF b)
  | .slboard c j d a p => some (mkRaw c 0xB4 (slFn j (slCode a)) (wF.enc d) (encSlSrc a) (ppF.enc p))
  | .slalight c j d s p => some (mkRaw c 0xB5 (slFn j (ldCode d)) (encLdDst d) (slotF.enc s) (ppF.enc p))
  | .slwait c j t d s b => some (enc3 c 0xB6 (slFn j (tyCode t).toNat) wF d slotF s srcF b)
  | .slwaitRev c d s b => some (enc3 c 0xB6 0x80 wF d slotF s srcF b)
  | .slinfoPool c d => some (mkRaw c 0xB7 0 (wF.enc d) 0 0)
  | .slinfoStn c d => some (mkRaw c 0xB7 1 (wF.enc d) 0 0)
  | .slinfoHdr c d s => some (mkRaw c 0xB7 2 (wF.enc d) (slotF.enc s) 0)
  | .ldwC c f v => some (mkRaw c 0xC0 (tyFn 0 f) (vF.enc v) 0 0)
  | .ldwK c f v => some (mkRaw c 0xC0 (tyFn 1 f) (vF.enc v) 0 0)
  | .ldwg c f z => some (mkRaw c 0xC1 (tyFn (genKind z) f) (encGen z) 0 0)
  | .ldws c v => some (mkRaw c 0xC2 0 (vF.enc v) 0 0)
  | .swpw c => some (mkRaw c 0xC3 0 0 0 0)
  | .mma c f acc a m => some (enc3 c 0xC4 (tyFn 0 f) accF acc vvF a wiAny m)
  | .mmaSc c f acc a m => some (enc3 c 0xC4 (tyFn 1 f) accF acc vvF a wiAny m)
  | .mmag c f acc z m => some (mkRaw c 0xC5 (tyFn (genKind z) f) (accF.enc acc) (encGen z) (wiAny.enc m))
  | .accz c acc m => some (enc3 c 0xC6 0 accF acc wiAny m zeroF ())
  | .accrd c t m d acc => some (enc3 c 0xC7 (tyFn 0 t) vF d accF acc accModeF m)
  | .accwr c t acc v => some (enc3 c 0xC8 (tyFn 0 t) accF acc vF v zeroF ())
  | .mstat c d n => some (enc3 c 0xC9 0 wF d wiAny n zeroF ())
  | .cpy c g s d a l => some (enc3 c 0xD0 (encCpyFn false g s) wgF d wgF a wiAny l)
  | .cpyg c st g s d x => some (enc3 c 0xD1 (encCpyFn st g s) cpyDstF d vF x zeroF ())
  | .cpyx c k g d x => some (enc3 c 0xD2 (encCpyFn k g .dm) cpyDstF d vF x zeroF ())
  | .cpys c g s d x => some (enc3 c 0xD3 (encCpyFn false g s) cpyDstF d vF x zeroF ())
  | .cbind c g s st a l => some (enc3 c 0xD4 (encCpyFn false g s) streamF st wgF a wiAny l)
  | .cwait c g n => some (enc3 c 0xD5 g.toNat wiAny n zeroF () zeroF ())
  | .ccancel c g => some (mkRaw c 0xD6 g.toNat 0 0 0)
  | .cstat c g d => some (mkRaw c 0xD7 g.toNat (wF.enc d) 0 0)
  | .csrr c d n => some (enc3 c 0xE0 0 wF d immAny n zeroF ())
  | .csrw c n a => some (enc3 c 0xE1 0 immAny n srcF a zeroF ())
  | .csrwSet c n a => some (enc3 c 0xE1 1 immAny n srcF a zeroF ())
  | .csrwClr c n a => some (enc3 c 0xE1 2 immAny n srcF a zeroF ())
  | .ecall c v => some (enc3 c 0xE2 0 immAny v zeroF () zeroF ())
  | .eret c => some (mkRaw c 0xE3 0 0 0 0)
  | .tlbinvPage c a => some (mkRaw c 0xE4 0 (wF.enc a) 0 0)
  | .tlbinvAll c => some (mkRaw c 0xE4 1 0 0 0)
  | .ckpt c d => some (mkRaw c 0xE5 0 (wF.enc d) 0 0)
  | .barrierTimeout _ => none
  | .engineClaim _ => none
  | .weightLoadComplete _ => none
  | .mmaRowEnter _ => none
  | .mmaAccumulationComplete _ => none
  | .copyStart _ _ => none
  | .copyFinish _ _ => none
  | .copySourceFault _ _ => none
  | .streamBytesArrive _ _ => none
  | .budget _ => none
  | .replyLand _ => none
  | .tableWalkComplete _ => none
  | .homeAccept _ => none
  | .ckptcfgWrite _ => none
  | .dramBankSchedule _ _ => none
  | .scrubVisit _ => none
  | .recordArrival _ _ => none
  | .recordResend _ _ => none
  | .queueDecide _ _ _ => none
  | .queuePublication _ => none
  | .stealDecision _ => none
  | .dispatch _ => none
  | .cellarSlotDraw _ => none
  | .taskStart _ => none
  | .counterDecrement _ _ => none
  | .counterDeposit _ _ => none
  | .setdepArrival _ _ => none
  | .launchInstanceArrival _ => none
  | .runlistAdmit _ => none
  | .amArrival _ _ => none
  | .bindArrival _ _ => none
  | .unbindArrival _ _ => none
  | .handlerStart _ => none
  | .messageDelivery _ => none
  | .routeComplete _ => none
  | .slotPassage _ _ => none
  | .slboardPoolFull _ => none
  | .unitFailureReport _ => none
  | .rollbackEnd _ => none
  | .unwindEnd _ => none
  | .preemptDrain _ => none
  | .preemptStopNow _ => none
  | .preemptMigrate _ => none
  | .preemptRestore _ => none
  | .preemptResume _ => none
  | .drainDone _ => none
  | .contextSaveComplete _ => none
  | .restorePlace _ _ => none
  | .liveMigrationMove _ => none
  | .forwardMessage _ _ => none
  | .mailboxWordWrite _ _ _ _ => none
  | .mailboxMessageComplete _ _ _ => none
  | .mailboxTaskPlace _ _ => none
  | .replayMessagePlace _ => none
  | .mailboxBind _ => none
  | .mbstatWrite _ _ _ => none
  | .spRegionWrite _ => none
  | .ptrootWrite _ => none
  | .hostDmWrite _ _ => none
  | .hostDmRead _ => none
  | .atsInvalidation _ _ => none
  | .remoteEnqueueIndex _ _ _ _ => none
  | .remoteRecordPull _ _ _ => none
  | .peerFlitFailure _ => none
  | .attest _ => none
  | .fwupdate _ => none
  | .zero _ => none
  | .status _ => none
  | .create _ => none
  | .destroy _ => none
  | .grant _ => none
  | .keyshare _ => none
  | .peerbind _ => none
  | .preempt _ => none
  | .powercap _ => none
  | .frames _ => none
  | .tune _ => none
  | .replay _ => none
  | .reset _ => none
  | .stageB _ => none
  | .stageC => none
  | .powerOverCap => none
  | .thermalTrip => none
  | .peerUnwindToken _ => none
  | .peerMemoryRequest _ _ _ => none
  | .atsTranslationComplete _ _ _ => none
  | .powerBelowCap => none

/-- The 96 bits of an instruction. -/
def encodeWord (i : Instr) : Option (BitVec 96) := (encode i).map Raw.pack

/-- The twelve bytes of an instruction, lowest address first (R29). -/
def encodeBytes (i : Instr) : Option (List Byte) := (encodeWord i).map (fun w => leBytes 12 w.toNat)

end Sys2Proof
end

