-- ==== Sys2Proof/Machine/State.lean ====
section
/-!
DEFINITION. The state of the package: every thread, core, home, partition and unit that spec/ names, as plain data.
Indexed state lies in sparse maps (`SMap`) whose absent keys read as the default named beside each map's accessor in
Machine/Store.lean.

Numbering. A press core is y·32 + x (0 to 1,023), a cellar core is 1,024 + 64d + c (1,024 to 1,279); a home is
64d + c. A thread is core·16 + slot. An endpoint of the network (R284) is a core, with a cellar core and its home one
endpoint; `homes` is indexed by endpoint, since every endpoint that accepts requests has an inbox; copy engine k of die d is 1,280 + 8d + k; the mailbox and configuration logic of partition p is 1,400 + p;
host memory is 1,500; peer port n is 1,510 + n.
-/
namespace Sys2Proof.Machine

open Sys2Proof

/-- A memory: bytes by address, ascending, no entry equal to the byte an unlisted address reads as (Memory.wf). -/
abbrev Memory := List Host.Cell

/-- A task record (R186): its sixteen 64-bit words. -/
abbrev Rec := List W64

/-! ## Addresses -/

/-- What a translation says of one byte address of DM (R152): the page table entry and the offset in the page. -/
structure DmLoc where
  va : Nat
  attr : BitVec 2
  wr : Bool
  keyid : Nat
  die : Nat
  chan : Nat
  frame : Nat
  deriving DecidableEq, Repr

/-- The place an access names: a DM location, or a partition SP address (R143). -/
inductive Loc where
  | dm (l : DmLoc)
  | sp (a : Nat)
  deriving DecidableEq, Repr

/-- A level-2 entry held in a translation buffer (R157). -/
structure TlbEntry where
  part : Nat
  page : Nat
  pte : W64
  deriving DecidableEq, Repr

/-! ## Messages (R79, R281) -/

/-- The access paths of R77. -/
inductive Path where
  | ls | cp | nb | am | hp | rg
  deriving DecidableEq, Repr

/-- A field of a queue's configuration (R224). -/
inductive QField where
  | thresh | tickets | spbase | spsize
  deriving DecidableEq, Repr

/-- One launch instance on its way to a core (R201). -/
structure Inst where
  part : Nat
  recd : Rec
  g4 : Nat
  g5 : Nat
  g6 : Nat
  g7 : Nat
  /-- The core and the task that launched it, and the launch's number. -/
  srcCore : Nat
  srcTask : W64
  lid : Nat
  deriving DecidableEq, Repr

/-- What a message asks of its destination, or brings back. -/
inductive Req where
  | load (l : Loc) (n : Nat)
  | store (l : Loc) (data : List (Option Byte))
  | atomic (op : AtOp) (l : Loc) (b cmp : W64)
  | rowadd (l : Loc) (t : Ty) (mask : W32) (data : List W32)
  | rowld (l : Loc) (minv : W64)
  | record (r : Rec) (counted : Bool)
  | decrement (l : Loc)
  | deposit (l : Loc) (r : Rec)
  | setdep (l : Loc) (count : W64) (held : Option Rec)
  | qcfg (q : Nat) (f : QField) (v : W64)
  | qstat (q : Nat)
  | steal (q : Nat) (any : Bool)
  | schedSteal (q : Nat) (thief : Nat)
  | amsg (tag : Nat) (rtag : W32) (args : List W64)
  | bind (tag : Nat) (entry : W64)
  | unbind (tag : Nat)
  | launch (i : Inst)
  | mbRead (mb word : Nat) (out : Bool)
  | mbWrite (mb word : Nat) (v : W64)
  | cfRead (num : Nat)
  | cfWrite (num : Nat) (v : W64)
  /-- A host access goes on in steps of at most 8 bytes: `got` has been read (R165). -/
  | hmLoad (a : Nat) (n : Nat) (got : List Byte)
  | hmStore (a : Nat) (data : List (Option Byte))
  | hmAtomic (op : AtOp) (a : Nat) (b cmp : W64)
  | pmLoad (a : Nat) (n : Nat)
  | pmStore (a : Nat) (data : List (Option Byte))
  | pmAtomic (op : AtOp) (a : Nat) (b cmp : W64)
  -- replies
  | bytes (bs : List Byte)
  | word (w : W64) (fl : Fl)
  | row (bs : List Byte) (ver : W64)
  | grant (r : Option Rec) (q : Nat) (home : Nat)
  | flags (fl : Fl)
  | refusal (va : W64)
  | poison (va : W64)
  | peerError (va : W64)
  | accepted
  | recordRefused (r : Rec) (counted : Bool) (home : Nat)
  deriving DecidableEq, Repr

/-- A message in the network, or in an inbox. `tok` is the token of the owed reply; 0 where none is owed. `loc` is the
translation of the DM address that a record, a queue request or an active message names, for the check of R176. `age`
is the number of instructions its thread had retired when it issued. -/
structure Msg where
  src : Nat
  dst : Nat
  seq : Nat
  path : Path
  part : Nat
  thr : Nat
  task : W64
  tag : W32
  tok : Nat
  req : Req
  loc : Option DmLoc
  age : Nat
  deriving DecidableEq, Repr

/-! ## Threads (R88 to R105) -/

/-- How a task came to run. -/
inductive TKind where
  | near | far | mail | launch | handler | resident
  deriving DecidableEq, Repr

/-- A register that a reply may be owed to: what an interlock names (R97). -/
inductive PReg where
  | stk (e : Nat)
  | trapW (r : Nat)
  | v (r : Nat)
  | rver
  | q (k : Nat)
  | n (k : Nat)
  deriving DecidableEq, Repr

/-- How a reply is written when it lands (R97). -/
inductive Fill where
  | none
  | w (r : PReg) (t : Ty) (n : Nat)
  | word (d : PReg)
  /-- The status of a pre-emption: its reading acquires what the saved threads did (R344). -/
  | status (d : PReg)
  | queue (q : Nat)
  | port (n : Nat)
  | v (r : Nat) (mask : W32)
  | row (r : Nat) (mask : W32)
  | recd (r : Nat)
  deriving DecidableEq, Repr

/-- An owed reply: its token, the registers interlocked by it, how it lands, the bytes that held stores supply
(R294), whether it is an acquire and on which path (R82), and the row it holds back others on (R85). -/
structure Owed where
  tok : Nat
  regs : List PReg
  fill : Fill
  heldBytes : List (Option Byte)
  acq : Bool
  row : Option Nat
  path : Path
  deriving DecidableEq, Repr

/-- A value staged in the landing buffer (R97). -/
structure Landing where
  tok : Nat
  req : Req
  deriving DecidableEq, Repr

/-- A stream register's binding (R100, R268): the copy that feeds it, the bytes arrived and not yet read, the bytes
still to come, and the copy's own fault record (R272). -/
structure Stream where
  bound : Bool
  copyId : Nat
  grp : Nat
  buf : List Byte
  toCome : Nat
  ecode : Nat
  epos : Nat
  deriving DecidableEq, Repr

/-- A port register's binding (R290). -/
inductive Port where
  | unbound
  | tx (route : Nat)
  | rx (chan : Nat)
  deriving DecidableEq, Repr

/-- The barrier arrival record of R103; `set` names the barriers among which `bar` is one (State.barSet). -/
structure BarRec where
  valid : Bool
  bar : Nat
  gen : BitVec 8
  done : Bool
  set : Nat
  deriving DecidableEq, Repr

/-- A completion group of R259 and R271; `src` is the copy whose fault is recorded. -/
structure Group where
  out : Nat
  done : W32
  err : Bool
  ecode : Nat
  epos : Nat
  src : Nat
  deriving DecidableEq, Repr

/-- A Solera request posted at a station (R308). -/
inductive SlKind where
  | rd (vec : Bool)
  | cas (cmp b : W64)
  | add (t : Ty) (b : W64)
  | swap (b : W64)
  | board (payload : List W64)
  | alight (vec : Bool)
  | wait (b : W64)
  | waitRev (b : W64)
  | hdr
  deriving DecidableEq, Repr

/-- A posted request: the pool-relative slot, the word, and the ring time of posting (R319). -/
structure SlReq where
  kind : SlKind
  slot : Nat
  word : Nat
  posted : Nat
  deriving DecidableEq, Repr

/-- The result of a served request: the words for the destination, the pair's condition, the flags, or a trap. -/
inductive SlRes where
  | ok (ws : List W64) (c : Bool) (fl : Fl)
  | trap (code : Nat) (tval : W64)
  deriving DecidableEq, Repr

/-- What a thread waits for when its blocked instruction needs more than a condition it can test again. -/
inductive Wait where
  | none
  /-- A table walk for a page (R157). -/
  | walk (page : Nat)
  /-- The walk found no usable entry: the instruction that asked for it takes the fault. -/
  | walkFault (page : Nat)
  /-- The walk met uncorrectable data (R182). -/
  | walkPoison (page : Nat)
  /-- An ATS translation of a host page (R165). -/
  | ats (page : Nat)
  | atsFault (page : Nat)
  /-- The engine that the thread waited for is its own (R228); its instruction has not yet run. -/
  | claimed
  /-- The same, and the instruction has stalled on stream bytes (R246). -/
  | claimStall
  /-- Barrier b, with the watchdog of the moment the wait began (R125), and the instruction's guard result. -/
  | bar (b : Nat) (barto : Nat) (g : W32)
  /-- The generation completed. -/
  | barDone (b : Nat)
  | slot (r : SlReq)
  | slotDone (r : SlRes)
  /-- A read made before anything is sent (R216): the token of its reply, its address, and the bytes that held stores
  supply (R294). -/
  | pre (tok : Nat) (va : Nat) (held : List (Option Byte))
  /-- The home refused such a read. -/
  | preFault (va : Nat)
  /-- A `commit` that has released part of its messages: HELD as it found it (R295). -/
  | commit (n : Nat)
  deriving DecidableEq, Repr

/-- An entry of the hold buffer (R294): a message, or the instances of one launch, with the store bytes a later load of
the region reads. `rel` is a wait to be made when it is released, `record` that it counts in OUT. -/
structure Held where
  msgs : List Msg
  rel : Bool
  record : Bool
  /-- The space (0 DM, 1 SP, 2 HM, 8 + port PM), the address and the bytes of a held store. -/
  space : Nat
  addr : Nat
  data : List (Option Byte)
  deriving DecidableEq, Repr

/-- The anchored queue in which a near body is live (R195): home, partition, queue and the entry's number. -/
structure LiveIn where
  home : Nat
  part : Nat
  q : Nat
  num : Nat
  deriving DecidableEq, Repr

/-- One thread slot and the task it holds. -/
structure Thread where
  active : Bool
  kind : TKind
  part : Nat
  ip : W64
  stk : SMap W64
  depth : Nat
  low : Nat
  wsp : W64
  wacc : W64
  trapWin : SMap W64
  g : SMap W64
  p : SMap W32
  livep : BitVec 16
  v : SMap W32
  gran : Nat
  flags : Fl
  lc : W64
  ls : W64
  le : W64
  loopOn : Bool
  as : W64
  ae : W64
  cause : W64
  tval : W64
  eip : W64
  tm : Bool
  ptm : Bool
  tstatG : W32
  tvec : W64
  rver : W64
  streams : SMap Stream
  ports : SMap Port
  bar : BarRec
  groups : SMap Group
  oobcnt : Nat
  specOn : Bool
  held : List Held
  migCount : W32
  migCore : Nat
  budEn : Bool
  budRem : Nat
  header : W64
  cont : W64
  live : Option LiveIn
  copyEng : Nat
  owed : List Owed
  landing : List Landing
  async : List (Nat × W64)
  wait : Wait
  /-- What the reads of an instruction that has still to send have brought, by address (R216). -/
  pre : SMap (List Byte)
  /-- The word of the instruction that has been fetched and has not yet retired (R29, R30). -/
  word : Option (BitVec 96)
  /-- The part of a word in two home units that has been fetched: whether it is the second, and its bytes (R30). -/
  half : Option (Bool × List Byte)
  /-- FEATUSED of R345. -/
  featUsed : W64
  /-- Ports closed by the save that this context was restored from (word 44 of R345). -/
  closedPorts : W64
  usedQueue : Bool
  /-- Set by `eret` and by a restore: a `bar.sync` whose arrival stands does not arrive again (R104). -/
  restarted : Bool
  /-- The arrival of the `bar.sync` that has not yet retired: its barrier, its GEN, and its address (R104). -/
  syncRec : Option (Nat × BitVec 8 × W64)
  /-- The fences whose waits have not been seen to end: the classes, and the instructions retired before (R84). -/
  fences : List (List Path × Nat)
  /-- After a `yield`: the slots that have still to issue first, each with its task (R112). -/
  yieldAt : List (Nat × W64)
  /-- The record of the instruction that has still to retire counts in OUT already (R214). -/
  outTaken : Bool
  /-- The task has been moved by a live migration (R298). -/
  moved : Bool
  retired : Nat
  /-- 1: being saved (R344); 2: being moved (R296); 3: halted by an unhandled trap until UNWIND ends it (R341). -/
  stop : Nat
  deriving DecidableEq, Repr

/-! ## Cores -/

/-- A named barrier (R103). -/
structure Bar where
  count : Nat
  arr : Nat
  gen : BitVec 8
  barto : Nat
  deriving DecidableEq, Repr

/-- A plane of the matrix engine (R230): format code, elements and scales by column, and the scaled bit. An INT4S
element is held as its nibble, an INT4X element as the FP32 pattern of its value (R232). `gen` marks a generated
matrix, whose zeros form no product (R236). -/
structure Plane where
  fmt : Option Ty
  sc : Bool
  gen : Bool
  elems : List (List Nat)
  scales : List (List Nat)
  deriving DecidableEq, Repr

/-- The kind of an accumulator row (R235). -/
inductive AccKind where
  | empty | int | fp
  deriving DecidableEq, Repr

/-- A row of a generated matrix (R236): no 1, a 1 at one k, or a 1 at every k. -/
inductive GenLine where
  | zero | one (k : Nat) | ones
  deriving DecidableEq, Repr

/-- An activation row still to enter: 256 bytes with its sixteen scale codes, or a generated row. -/
inductive ActRow where
  | data (bs : List Byte) (codes : List Nat)
  | gen (z : GenLine)
  deriving DecidableEq, Repr

/-- An `mma` or `mmag` whose accumulation has not been reported complete (R239, R240): its first row, its row count,
the rows entered, and the rows still to enter. A stream-fed one takes bytes of copy `copyId`: `got` have arrived,
`need` are still to come. -/
structure MmaJob where
  fmt : Ty
  r0 : Nat
  m : Nat
  next : Nat
  rows : List ActRow
  copyId : Nat
  got : List Byte
  need : Nat
  codes : List (List Nat)
  intK : Bool
  scaled : Bool
  flags : Fl
  deriving DecidableEq, Repr

/-- The matrix engine of a press core (R228 to R243). -/
structure Engine where
  holder : Option Nat
  /-- Who waits to claim, the first first: a slot, or 32 more for a restore onto the slot (R243). -/
  waiters : List Nat
  active : Plane
  shadow : Plane
  staging : List (List Nat)
  arm : Bool
  /-- Accumulator c of row r is acc[32r + c], 56 bits. -/
  acc : SMap Nat
  kinds : SMap AccKind
  mmacnt : W32
  loading : Bool
  jobs : List MmaJob
  deriving DecidableEq, Repr

/-- A run-list entry (R204): a mailbox task or a launch instance. -/
structure RunItem where
  inst : Inst
  mail : Option Nat
  deriving DecidableEq, Repr

/-- A stream-port channel of a core (R290, R291): its receiver, whether it discards, and the route that delivers. -/
structure Chan where
  receiver : Option Nat
  discard : Bool
  route : Option Nat
  deriving DecidableEq, Repr

/-- A route (R290): sender core, target core and channel, the words written and not read (`none` is the closing marker),
the links of its path, how many of them its header has reserved, and whether it has reserved all; the numbers that its
arrival at a reserved link and at its channel have (0: none); whether its sender has closed it, and whether its words
are discarded (R291). -/
structure Route where
  id : Nat
  src : Nat
  dst : Nat
  chan : Nat
  complete : Bool
  words : List (Option W64)
  links : List Nat
  taken : Nat
  waitNo : Nat
  reachNo : Nat
  closed : Bool
  dropped : Bool
  deriving DecidableEq, Repr

/-- A forwarding entry (R297): the task and its new thread. What is still owed is the messages on their way. -/
structure Fwd where
  task : W64
  newThr : Nat
  deriving DecidableEq, Repr

/-- The steal decision of a free press slot (R207): the level, refusals so far, queues asked, and whether a request
is out or the slot waits for the next publication. -/
structure Decision where
  level : Nat
  refusals : Nat
  asked : List Nat
  pending : Bool
  waiting : Bool
  deriving DecidableEq, Repr

/-- A press or cellar core. -/
structure Core where
  queues : SMap (List W64)
  qReaders : SMap (List Nat)
  /-- Blocked writers of each queue: a slot, or 16 more for a reply that lands for the slot (R98). -/
  qWriters : SMap (List Nat)
  bars : SMap Bar
  /-- What names these barriers, which a core section moves to another core; none for those that the core began with.
  (DEDUCED: assumption 91.) -/
  barSet : Option Nat
  zskip : W64
  spawnOut : Nat
  spawnLimit : Nat
  genX : W32
  starts : W32
  runlists : SMap (List RunItem)
  launchWait : List Inst
  engine : Engine
  chans : SMap Chan
  fwd : List Fwd
  /-- The partitions for which dispatch is stopped here (R343). -/
  stopped : List Nat
  /-- Refused records to be sent again after 1,024 cycles (R192). -/
  resend : List Msg
  decisions : SMap Decision
  /-- Chosen records whose slots wait for granules (R95), or that are about to start. -/
  starting : SMap RunItem
  /-- A granted record about to start: the record, its queue and near or far. -/
  granted : SMap (Rec × Nat × Option LiveIn)
  /-- Messages for tasks that have moved away, which wait to be forwarded (R297). -/
  fwdIn : List Msg
  deriving DecidableEq, Repr

/-! ## Homes (R175 to R184, R191 to R197) -/

/-- A record in a queue: its number, and whether it lies in the spill region, at which place. -/
structure QEntry where
  num : Nat
  recd : Rec
  spilled : Option Nat
  deriving DecidableEq, Repr

/-- An anchored queue of one partition (R191, R192, R224). -/
structure Queue where
  entries : List QEntry
  thresh : Nat
  tickets : Nat
  spbase : W64
  spsize : Nat
  pendBase : Option W64
  pendSize : Option Nat
  head : Nat
  tail : Nat
  used : Nat
  noSpill : Bool
  /-- Near bodies taken and still live: number, anchor base, anchor length and task id (R195). -/
  nearLive : List (Nat × W64 × Nat × W64)
  nextNum : Nat
  /-- Near takes asked for by slots in this cycle, and steals in arrival order. -/
  takes : List Nat
  steals : List Msg
  deriving DecidableEq, Repr

/-- A request waiting for DRAM (R178). -/
structure DramReq where
  bank : Nat
  row : Nat
  accepted : Nat
  tag : W32
  line : Nat
  deriving DecidableEq, Repr

/-- A message accepted into a cellar core's arrival queue (R172, R287). -/
structure AmEntry where
  part : Nat
  entry : W64
  rtag : W32
  args : List W64
  deriving DecidableEq, Repr

/-- An undo-log entry (R180): the line's physical key, its old 64 bytes, and whether they were uncorrectable (R182). -/
structure LogEntry where
  line : Nat
  old : List Byte
  bad : Bool
  deriving DecidableEq, Repr

/-- A home controller with its cellar core's arrival queue and tag table. -/
structure Home where
  router : List Msg
  local_ : List Msg
  queues : SMap Queue
  amq : List AmEntry
  tags : SMap W64
  logs : SMap (List LogEntry)
  now : Nat
  dram : List DramReq
  openRow : SMap Nat
  lastTag : SMap W32
  scrubPos : Nat
  logged : List Nat
  /-- Lines with an error not yet found: 1 single bit, 2 uncorrectable (R182). -/
  ecc : SMap Nat
  poisoned : List Nat
  deriving DecidableEq, Repr

/-! ## Copies (R258 to R276) -/

/-- What a copy moves. -/
inductive CopyKind where
  | cpy | cpys | cpyg (strict : Bool) | cpyx (keep : Bool)
  deriving DecidableEq, Repr

/-- A row of a copy in hand: the words read, by number, and the numbers of those written. -/
structure CRow where
  row : Nat
  got : SMap W64
  put : List Nat
  deriving DecidableEq, Repr

/-- A copy: its parameters (R261, R263), its task, and how far it has come. -/
structure Copy where
  id : Nat
  thr : Nat
  task : W64
  part : Nat
  kind : CopyKind
  space : CpySpace
  grp : Nat
  sbase : Nat
  ibase : Nat
  nrows : Nat
  /-- Bytes of a row as it is delivered. -/
  rowb : Nat
  sstride : Nat
  dstride : Nat
  bound : Nat
  /-- The SP destination, or the stream. -/
  dst : Nat
  stream : Option Nat
  started : Bool
  /-- The rows below are delivered; the rows below `opened` have been started; those in hand, ascending. -/
  row : Nat
  opened : Nat
  rows : List CRow
  /-- The indices read, by row, and how many rows they reach. -/
  index : SMap Nat
  indexed : Nat
  /-- The lowest row whose read has failed, and its ECODE (R272). -/
  bad : Option (Nat × Nat)
  /-- Stream bytes of a whole row that have not yet arrived. -/
  ready : List Byte
  /-- Bytes of the first row that the stream already has: a row resumed after a restore (R276). -/
  skip : Nat
  /-- The instructions that its thread had retired when it issued. -/
  age : Nat
  /-- The cores that its thread has left by a move since the copy issued: what it brings passes through them (R297). -/
  via : List Nat
  fault : Option Nat
  finished : Bool
  deriving DecidableEq, Repr

/-! ## Partitions -/

/-- A mailbox (R16, R167, R355). -/
structure Mailbox where
  staged : SMap W64
  inbound : SMap W64
  held : Bool
  busy : Bool
  overrun : Bool
  ready : Bool
  outbound : SMap W64
  /-- The binding that the held message takes (R17). -/
  bound : Option W64
  /-- The host's writes to memory that were on their way when the message was completed: destination and number (R351). -/
  before : List (Nat × Nat)
  deriving DecidableEq, Repr

/-- A journal entry to be replayed (R364). -/
structure JEntry where
  words : List W64
  mb : Nat
  count : W64
  deriving DecidableEq, Repr

/-- Where a containment stands (R339 to R341). -/
inductive Containing where
  | none
  | rollback
  /-- The core whose station has still to raise the token, the cores that have delivered UNWIND, the agreed step. -/
  | unwind (raiser : Option Nat) (delivered : List Nat) (step : W64)
  | destroy
  deriving DecidableEq, Repr

/-- PREEMPT's fields as software wrote them, and the pre-emption request in progress (R342, R343). -/
structure Preempt where
  word : W64
  go : Bool
  status : Nat
  kind : Nat
  resume : Bool
  slots : Nat
  dest : Nat
  core : Nat
  /-- The slots still to be saved, moved or restored. -/
  todo : List Nat
  /-- The slot whose context carries the core section (R344). -/
  coreSlot : Option Nat
  deriving DecidableEq, Repr

/-- A partition (R11 to R13, R360). -/
structure Part where
  present : Bool
  cx : Nat
  cy : Nat
  lw : Nat
  lh : Nat
  coll : Bool
  det : Bool
  jrnl : Bool
  hgrant : Bool
  spq : Nat
  /-- The share's first granule in every slice of each die (R147). -/
  spbase : SMap Nat
  poolBase : Nat
  poolSize : Nat
  seed : W32
  accept : W64
  unwslot : Nat
  entry : W64
  /-- The configuration registers that software writes, by number (R168). -/
  cf : SMap W64
  mboxes : SMap Mailbox
  stalecnt : W64
  interval : W32
  autoclose : BitVec 16
  /-- CKPTCFG in effect (R184). -/
  ckptEff : W64
  containing : Containing
  /-- Writes and records of the partition are discarded at their homes (R340). -/
  discard : Bool
  preempt : Preempt
  retiredTasks : Nat
  jaddr : W64
  jcount : Nat
  replay : List JEntry
  /-- Whether the partition's memory key exists (R362). -/
  keyAlive : Bool
  /-- The CREATE words, and the image as loaded (R363). -/
  created : List W64
  image : List Byte
  deriving DecidableEq, Repr

/-! ## The package -/

/-- The owner of a range of a channel (R153). -/
inductive Owner where
  | nobody
  | part (p : Nat)
  | key (k : Nat)
  deriving DecidableEq, Repr

/-- A BAR2 window (R361). -/
structure Window where
  part : Nat
  off : Nat
  len : Nat
  va : Nat
  wr : Bool
  deriving DecidableEq, Repr

/-- The state of a ring slot (R306). -/
inductive SlState where
  | empty | full | poison
  deriving DecidableEq, Repr

/-- A Solera ring slot (R306); an absent one is EMPTY and belongs to no pool. -/
structure RSlot where
  state : SlState
  part : Nat
  words : List W64
  /-- An error found by the next station (R323): 1 single bit, 2 payload, 3 header. -/
  err : Nat
  deriving DecidableEq, Repr

/-- The core section of a context (R344): the queues and the barriers of a core, with what names the barriers. -/
structure CoreSection where
  queues : SMap (List W64)
  bars : SMap Bar
  barSet : Nat
  deriving DecidableEq, Repr

/-- A saved context (R345): the number that its sections without a layout begin with, the thread as saved, its copies, and
the engine and core sections where present. It stays after a restore, so that the context can be restored again. (DESIGN
CHOICE: assumption 62.) -/
structure SavedCtx where
  num : Nat
  part : Nat
  slot : Nat
  core : Nat
  thread : Thread
  copies : List Copy
  engine : Option Engine
  queues : Option CoreSection
  /-- Whether its thread has not been restored since, nor stopped by a containment: its held records still count in OUT of the
  saving core (R203, R295), and a near body is live (R344). -/
  away : Bool
  deriving DecidableEq, Repr

/-- How the device completes a host request (R353, R355, R361). -/
inductive Completion where
  | unsupported
  | data (bs : List Byte)
  deriving DecidableEq, Repr

/-- What a peer port answers to the peer package: a load's or a record's bytes, an atomic's old value with its flags, a
store's acknowledgement (R87), PEER_ERROR, poison (R158), or that a pull is dropped (R300). -/
inductive PeerReply where
  | bytes (bs : List Byte)
  | word (w : W64) (fl : Fl)
  | done
  | error
  | poison
  | dropped
  deriving DecidableEq, Repr

/-- One line's part of a host read of DM on its way: the token of its load, and its bytes once they have come. -/
structure HostPart where
  tok : Nat
  got : Option (List Byte)
  deriving DecidableEq, Repr

/-- A turn of the machine: a step of the device, the issue of one thread's next instruction, or what the host does:
a request to a BAR (R353, R354), a write with the requester that made it (R351), or a failure to deliver the next image that Shuone reads (R360).
(DESIGN CHOICE: assumptions 4 and 5.) -/
inductive Turn where
  | event (i : Instr)
  | issue (t : Nat)
  | hostRead (bar off size : Nat)
  | hostWrite (requester bar off : Nat) (bs : List Byte)
  | hostReadFailure
  deriving DecidableEq, Repr

/-- Why the machine stops. -/
inductive Fault where
  /-- Raised by the meaning of an instruction word when `State.cur` names a free thread slot: a free slot issues
  nothing (R88), so no effect is given. Safe. (DEDUCED: assumption 6.) -/
  | slotFree
  deriving DecidableEq, Repr

/-- Why an instruction has no meaning. -/
inductive Refusal where
  /-- Raised by Dispatch for an instruction that has no meaning yet. Safe. -/
  | notModelled (mnemonic : String)
  deriving DecidableEq, Repr

/-- The package. -/
structure State where
  /-- The turns to take next; with none left, the machine chooses for itself (Machine/Auto.lean). -/
  agenda : List Turn
  /-- The thread for which an instruction word executes. -/
  cur : Nat
  threads : SMap Thread
  cores : SMap Core
  homes : SMap Home
  parts : SMap Part
  mem : Memory
  hostMem : Memory
  peerMem : Memory
  net : List Msg
  seqOut : SMap Nat
  seqIn : SMap Nat
  copies : SMap (List Copy)
  routes : List Route
  tlbs : SMap (List TlbEntry)
  ats : List (Nat × Nat)
  pub : SMap Nat
  blockOwner : SMap Owner
  chanOwner : SMap Owner
  keys : SMap (List Nat)
  windows : List Window
  /-- Remote enqueues to be pulled (R300): partition, port and index, in the order of arrival. -/
  pulls : List (Nat × Nat × W64)
  slots : SMap RSlot
  ringTime : Nat
  /-- The slots whose passage at the present ring time is over. -/
  ringDone : List Nat
  stage : Nat
  recovery : Bool
  disabled : List Nat
  agecap : SMap Nat
  scrubrate : SMap Nat
  imbal : SMap Nat
  /-- The request words of the management channel (R357). -/
  mgmtReq : SMap W64
  mgmtResp : W64
  mgmtResult : List W64
  powerCap : Nat
  overCap : Bool
  /-- The firmware that runs, and the image that FWUPDATE has taken for the next reset (R357). -/
  firmware : List Byte
  fwPending : Option (List Byte)
  hostReadFails : Bool
  /-- The requester of the host write that is being taken (R351). -/
  hostReq : Nat
  /-- The host reads of DM that have not been completed, each by its parts in ascending order (R361). -/
  hostReads : List (List HostPart)
  /-- What the device has sent out of the package: the completions of host requests, and the unwind tokens, by
  partition and port (R341), in order. -/
  completions : List Completion
  tokensSent : List (Nat × Nat)
  /-- The answers sent to peer packages, by partition and port, in order. -/
  peerSent : List (Nat × Nat × PeerReply)
  saved : List SavedCtx
  nextId : Nat
  /-- The number of free values drawn (MODEL's own field). -/
  freeCtr : Nat
  /-- Where the rotating order looks for its next turn (R88). -/
  lastIssued : Nat
  deriving DecidableEq, Repr

/-! ## Defaults: what an absent key reads as -/

/-- A group with nothing outstanding (R259). -/
def Group.init : Group := ⟨0, 0#32, false, 0, 0, 0⟩
/-- An unbound stream. -/
def Stream.unbound : Stream := ⟨false, 0, 0, [], 0, 0, 0⟩
/-- An empty arrival record. -/
def BarRec.empty : BarRec := ⟨false, 0, 0#8, false, 0⟩
/-- An empty plane (R229). -/
def Plane.empty : Plane := ⟨none, false, false, [], []⟩
/-- The engine as a claim leaves it, held by nobody (R229). -/
def Engine.free : Engine :=
  ⟨none, [], Plane.empty, Plane.empty, [], false, [], [], 0#32, false, []⟩

/-- A free thread slot: every register 0, nothing bound (R89). -/
def Thread.free : Thread where
  active := false
  kind := .resident
  part := 0
  ip := 0#64
  stk := []
  depth := 0
  low := 0
  wsp := 0#64
  wacc := 0#64
  trapWin := []
  g := []
  p := []
  livep := 0#16
  v := []
  gran := 0
  flags := 0#7
  lc := 0#64
  ls := 0#64
  le := 0#64
  loopOn := false
  as := 0#64
  ae := 0#64
  cause := 0#64
  tval := 0#64
  eip := 0#64
  tm := false
  ptm := false
  tstatG := 0#32
  tvec := 0#64
  rver := 0#64
  streams := []
  ports := []
  bar := BarRec.empty
  groups := []
  oobcnt := 0
  specOn := false
  held := []
  migCount := 0#32
  migCore := 0
  budEn := false
  budRem := 0
  header := 0#64
  cont := 0#64
  live := none
  copyEng := 0
  owed := []
  landing := []
  async := []
  wait := .none
  pre := []
  word := none
  half := none
  featUsed := 0#64
  closedPorts := 0#64
  usedQueue := false
  restarted := false
  syncRec := none
  fences := []
  yieldAt := []
  outTaken := false
  moved := false
  retired := 0
  stop := 0

def Bar.init : Bar := ⟨0, 0, 0#8, 0⟩
def Chan.init : Chan := ⟨none, false, none⟩
def Decision.init : Decision := ⟨1, 0, [], false, false⟩

/-- A core after reset; SPAWNMAX.LIMIT is 32 (R203). -/
def Core.init : Core where
  queues := []
  qReaders := []
  qWriters := []
  bars := []
  barSet := none
  zskip := 0#64
  spawnOut := 0
  spawnLimit := 32
  genX := 1#32
  starts := 0#32
  runlists := []
  launchWait := []
  engine := Engine.free
  chans := []
  fwd := []
  stopped := []
  resend := []
  decisions := []
  starting := []
  granted := []
  fwdIn := []

/-- A queue at its reset settings (R191). -/
def Queue.init : Queue where
  entries := []
  thresh := 8
  tickets := 16
  spbase := 0#64
  spsize := 0
  pendBase := none
  pendSize := none
  head := 0
  tail := 0
  used := 0
  noSpill := false
  nearLive := []
  nextNum := 0
  takes := []
  steals := []

def Home.init : Home := ⟨[], [], [], [], [], [], 0, [], [], [], 0, [], [], []⟩
def Mailbox.init : Mailbox := ⟨[], [], false, false, false, false, [], none, []⟩
def Preempt.init : Preempt := ⟨0#64, false, 0, 0, false, 0, 0, 0, [], none⟩

/-- A partition id that is not in use. -/
def Part.absent : Part where
  present := false
  cx := 0
  cy := 0
  lw := 0
  lh := 0
  coll := false
  det := false
  jrnl := false
  hgrant := false
  spq := 0
  spbase := []
  poolBase := 0
  poolSize := 0
  seed := 0#32
  accept := 0#64
  unwslot := 0
  entry := 0#64
  cf := []
  mboxes := []
  stalecnt := 0#64
  interval := 0#32
  autoclose := 0#16
  ckptEff := 0#64
  containing := .none
  discard := false
  preempt := Preempt.init
  retiredTasks := 0
  jaddr := 0#64
  jcount := 0
  replay := []
  keyAlive := false
  created := []
  image := []

/-- An EMPTY slot that no pool holds: PART reads 63 (R306). -/
def RSlot.init : RSlot := ⟨.empty, 63, [0#64, 0#64, 0#64, 0#64, 0#64, 0#64, 0#64, 0#64], 0⟩

/-- The package right after reset: Stage A, no partition, nothing in memory (R356). (DESIGN CHOICE: assumption 14.) -/
def State.reset : State where
  agenda := []
  cur := 0
  threads := []
  cores := []
  homes := []
  parts := []
  mem := []
  hostMem := []
  peerMem := []
  net := []
  seqOut := []
  seqIn := []
  copies := []
  routes := []
  tlbs := []
  ats := []
  pub := []
  blockOwner := []
  chanOwner := []
  keys := []
  windows := []
  pulls := []
  slots := []
  ringTime := 0
  ringDone := []
  stage := 1
  recovery := false
  disabled := []
  agecap := []
  scrubrate := []
  imbal := []
  mgmtReq := []
  mgmtResp := 0#64
  mgmtResult := []
  powerCap := 0
  overCap := false
  firmware := []
  fwPending := none
  hostReadFails := false
  hostReq := 0
  hostReads := []
  completions := []
  tokensSent := []
  peerSent := []
  saved := []
  nextId := 1
  freeCtr := 0
  lastIssued := 0

end Sys2Proof.Machine
end

