-- ==== Sys2Proof/Machine/Store.lean ====
section
/-!
DEFINITION. Reading and writing the parts of the state: sparse maps, memory bytes, and the thread, core, home and
partition of a number. Everything else goes through these.
-/
namespace Sys2Proof

/-- The value of a key; `d` where the map does not list it. -/
def SMap.get {α : Type} (d : α) : SMap α → Nat → α
  | [], _ => d
  | (k', v) :: m, k => if k' = k then v else SMap.get d m k

/-- A key's entry put in its place, replacing the entry that stands there. -/
def SMap.ins {α : Type} (k : Nat) (v : α) : SMap α → SMap α
  | [] => [(k, v)]
  | (k', v') :: m => if k' = k then (k, v) :: m else if k < k' then (k, v) :: (k', v') :: m else (k', v') :: SMap.ins k v m

/-- A key's entry taken out. -/
def SMap.del {α : Type} (k : Nat) : SMap α → SMap α
  | [] => []
  | (k', v') :: m => if k' = k then SMap.del k m else (k', v') :: SMap.del k m

/-- A map with a key's value set; the default value leaves no entry. -/
def SMap.set {α : Type} [DecidableEq α] (d : α) (m : SMap α) (k : Nat) (v : α) : SMap α :=
  if v = d then SMap.del k m else SMap.ins k v m

end Sys2Proof

namespace Sys2Proof.Machine

open Sys2Proof

/-! ## Memory -/

/-- What an unlisted address reads as. (DESIGN CHOICE: assumption 15.) -/
def Memory.blank : Byte := 0#8

def Memory.read (m : Memory) (a : Nat) : Byte := SMap.get Memory.blank m a
def Memory.write (m : Memory) (a : Nat) (b : Byte) : Memory := SMap.set Memory.blank m a b

/-- n bytes from an address. -/
def Memory.readN (m : Memory) (a : Nat) : Nat → List Byte
  | 0 => []
  | n + 1 => m.read a :: Memory.readN m (a + 1) n

/-- Bytes written from an address upwards. -/
def Memory.writeN (m : Memory) (a : Nat) : List Byte → Memory
  | [] => m
  | b :: bs => Memory.writeN (m.write a b) (a + 1) bs

/-- The canonical form: addresses strictly rising, no entry equal to what an unlisted address reads as. -/
def Memory.wf : Memory → Bool
  | [] => true
  | [(_, v)] => v != Memory.blank
  | (k, v) :: (k', v') :: m => decide (k < k') && v != Memory.blank && Memory.wf ((k', v') :: m)

/-! ## Words and bytes -/

def w64 (n : Nat) : W64 := BitVec.ofNat 64 n
def w32 (n : Nat) : W32 := BitVec.ofNat 32 n
/-- A 64-bit word from up to eight bytes, lowest first (R2). -/
def bytesWord (bs : List Byte) : W64 := w64 (leNat bs)
def wordBytes (w : W64) : List Byte := leBytes 8 w.toNat
/-- 64-bit words of a byte string. -/
def bytesWords : Nat → List Byte → List W64
  | 0, _ => []
  | n + 1, bs => bytesWord (bs.take 8) :: bytesWords n (bs.drop 8)
def wordsBytes (ws : List W64) : List Byte := ws.flatMap wordBytes
/-- 32-bit words of a byte string: lane i of 128 bytes is word i (R144). -/
def bytesLanes : Nat → List Byte → List W32
  | 0, _ => []
  | n + 1, bs => w32 (leNat (bs.take 4)) :: bytesLanes n (bs.drop 4)
def lanesBytes (ws : List W32) : List Byte := ws.flatMap (fun w => leBytes 4 w.toNat)

/-- Bits [lo+n−1 : lo] of a word. -/
def fieldOf (w : W64) (lo n : Nat) : Nat := w.toNat / 2 ^ lo % 2 ^ n
/-- A word with bits [lo+n−1 : lo] replaced. -/
def withField (w : W64) (lo n v : Nat) : W64 :=
  w64 (w.toNat - fieldOf w lo n * 2 ^ lo + v % 2 ^ n * 2 ^ lo)
def bitOf (w : W64) (i : Nat) : Bool := w.getLsbD i

/-! ## Records (R186, R187) -/

def Rec.word (r : Rec) (i : Nat) : W64 := r.getD i 0#64
def Rec.header (r : Rec) : W64 := Rec.word r 0
def Rec.near (r : Rec) : W64 := Rec.word r 1
def Rec.far (r : Rec) : W64 := Rec.word r 2
def Rec.abase (r : Rec) : W64 := Rec.word r 3
def Rec.alen (r : Rec) : Nat := fieldOf (Rec.word r 4) 0 32
/-- DCOFF as a signed number. -/
def Rec.dcoff (r : Rec) : Int := ((Rec.word r 4).extractLsb' 32 32 : BitVec 32).toInt
def Rec.cont (r : Rec) : W64 := Rec.word r 5
def Rec.flags (r : Rec) : W64 := Rec.word r 6
def Rec.arg (r : Rec) (j : Nat) : W64 := Rec.word r (8 + j)
def hdrM (h : W64) : Bool := bitOf h 63
def hdrS (h : W64) : Bool := bitOf h 62
def hdrO (h : W64) : Bool := bitOf h 61
def hdrN (h : W64) : Bool := bitOf h 60
def hdrF (h : W64) : Bool := bitOf h 59
def hdrArgc (h : W64) : Nat := fieldOf h 56 3
/-- The granule count: 0 means 2 (R95). -/
def hdrGran (h : W64) : Nat := if fieldOf h 48 8 = 0 then 2 else fieldOf h 48 8
def hdrQnum (h : W64) : Nat := fieldOf h 44 4
def hdrPrio (h : W64) : Nat := fieldOf h 42 2
def hdrBudget (h : W64) : Nat := fieldOf h 32 10
def hdrTag (h : W64) : W32 := h.setWidth 32
/-- The header that the device gives a mailbox task and the resident program (R13, R17). -/
def devHeader : W64 := 0x5F00000000000000#64
/-- A record that the device builds itself (R13, R17). -/
def devRecord (entry : W64) (args : List W64) : Rec :=
  [devHeader, entry, entry, 0#64, 0#64, 0#64, 0#64, 0#64] ++ args

/-! ## The state's parts -/

def State.thr (s : State) (t : Nat) : Thread := SMap.get Thread.free s.threads t
def State.setThr (s : State) (t : Nat) (x : Thread) : State := { s with threads := SMap.set Thread.free s.threads t x }
def State.modThr (s : State) (t : Nat) (f : Thread → Thread) : State := s.setThr t (f (s.thr t))
def State.core (s : State) (c : Nat) : Core := SMap.get Core.init s.cores c
def State.setCore (s : State) (c : Nat) (x : Core) : State := { s with cores := SMap.set Core.init s.cores c x }
def State.modCore (s : State) (c : Nat) (f : Core → Core) : State := s.setCore c (f (s.core c))
def State.home (s : State) (e : Nat) : Home := SMap.get Home.init s.homes e
def State.setHome (s : State) (e : Nat) (x : Home) : State := { s with homes := SMap.set Home.init s.homes e x }
def State.modHome (s : State) (e : Nat) (f : Home → Home) : State := s.setHome e (f (s.home e))
def State.prt (s : State) (p : Nat) : Part := SMap.get Part.absent s.parts p
def State.setPart (s : State) (p : Nat) (x : Part) : State := { s with parts := SMap.set Part.absent s.parts p x }
def State.modPart (s : State) (p : Nat) (f : Part → Part) : State := s.setPart p (f (s.prt p))

/-- The thread for which an instruction executes. -/
def State.me (s : State) : Thread := s.thr s.cur
def State.setMe (s : State) (x : Thread) : State := s.setThr s.cur x
def State.modMe (s : State) (f : Thread → Thread) : State := s.setThr s.cur (f s.me)

/-- The core and slot of a thread number. -/
def coreOf (t : Nat) : Nat := t / 16
def slotOf (t : Nat) : Nat := t % 16
/-- Whether a core is a cellar core. -/
def isCellar (c : Nat) : Bool := decide (1024 ≤ c)
/-- Slots of a core (R88). -/
def slotsOf (c : Nat) : Nat := if isCellar c then 8 else 16
/-- Granules of a core's lane file (R88, R95). -/
def granulesOf (c : Nat) : Nat := if isCellar c then 8 else 32
/-- The endpoint of a home. -/
def homeEp (h : Nat) : Nat := 1024 + h
def engineEp (e : Nat) : Nat := 1280 + e
def mbEp (p : Nat) : Nat := 1400 + p
def hostEp : Nat := 1500
def peerEp (n : Nat) : Nat := 1510 + n

/-- The die of a tile (R5). -/
def dieOf (x y : Nat) : Nat := x / 16 + 2 * (y / 16)
/-- The tile of a press core. -/
def tileX (c : Nat) : Nat := c % 32
def tileY (c : Nat) : Nat := c / 32
/-- The tile of `cellar` number h: die d, channel c (R9). -/
def homeX (h : Nat) : Nat := 16 * (h / 64 % 2) + h % 64 % 16
def homeY (h : Nat) : Nat := 16 * (h / 128) + 4 * (h % 64 / 16) + 1
def coreX (c : Nat) : Nat := if isCellar c then homeX (c - 1024) else tileX c
def coreY (c : Nat) : Nat := if isCellar c then homeY (c - 1024) else tileY c
def coreDie (c : Nat) : Nat := dieOf (coreX c) (coreY c)

/-! ## Partitions (R11, R147, R148, R185) -/

def Part.x0 (p : Part) : Nat := 4 * p.cx
def Part.y0 (p : Part) : Nat := 4 * p.cy
def Part.w (p : Part) : Nat := 4 * 2 ^ p.lw
def Part.h (p : Part) : Nat := 4 * 2 ^ p.lh
/-- Whether a tile lies in the partition. -/
def Part.hasTile (p : Part) (x y : Nat) : Bool :=
  decide (p.x0 ≤ x) && decide (x < p.x0 + p.w) && decide (p.y0 ≤ y) && decide (y < p.y0 + p.h)
/-- Whether a press core belongs to the partition. -/
def Part.hasCore (p : Part) (c : Nat) : Bool := p.present && !isCellar c && p.hasTile (tileX c) (tileY c)
/-- The core index of R185: partition-virtual for a press core, 1,024 + 64d + c for a cellar core. -/
def Part.coreIndex (p : Part) (c : Nat) : Nat :=
  if isCellar c then c else (tileY c - p.y0) * p.w + (tileX c - p.x0)
/-- The press core of a partition core index; `none` outside the partition. -/
def Part.coreAt (p : Part) (i : Nat) : Option Nat :=
  if i < p.w * p.h then some ((p.y0 + i / p.w) * 32 + (p.x0 + i % p.w)) else none
/-- The resident core (R13). -/
def Part.resident (p : Part) : Nat := p.y0 * 32 + p.x0
/-- The dies a partition's clusters cover, ascending. -/
def Part.dies (p : Part) : List Nat :=
  (List.range 4).filter (fun d =>
    let x := 16 * (d % 2)
    let y := 16 * (d / 2)
    decide (p.x0 < x + 16) && decide (x < p.x0 + p.w) && decide (p.y0 < y + 16) && decide (y < p.y0 + p.h))

/-- Unit numbers in `State.disabled`: press cores, cellar cores (by core number), then channels 2,048 + h, slices
2,304 + h, copy engines 2,560 + e and peer ports 2,592 + n. -/
def unitChannel (h : Nat) : Nat := 2048 + h
def unitSlice (h : Nat) : Nat := 2304 + h
def unitEngine (e : Nat) : Nat := 2560 + e
def unitPeer (n : Nat) : Nat := 2592 + n
/-- R148: a die on which a cellar core, channel or slice is disabled. -/
def State.degraded (s : State) (d : Nat) : Bool :=
  s.disabled.any (fun u =>
    (decide (1024 ≤ u) && decide (u < 1280) && (u - 1024) / 64 == d) ||
    (decide (2048 ≤ u) && decide (u < 2304) && (u - 2048) / 64 == d) ||
    (decide (2304 ≤ u) && decide (u < 2560) && (u - 2304) / 64 == d))
/-- D[0] … of R147. -/
def State.spDies (s : State) (p : Part) : List Nat := p.dies.filter (fun d => !s.degraded d)
/-- The bytes of SP (R147). -/
def State.spSize (s : State) (p : Part) : Nat := 4096 * p.spq * 64 * (s.spDies p).length
/-- A configuration register as software wrote it. -/
def Part.cfReg (p : Part) (n : Nat) : W64 := SMap.get 0#64 p.cf n
def Part.setCf (p : Part) (n : Nat) (v : W64) : Part := { p with cf := SMap.set 0#64 p.cf n v }
def Part.mbox (p : Part) (m : Nat) : Mailbox := SMap.get Mailbox.init p.mboxes m
def Part.setMbox (p : Part) (m : Nat) (x : Mailbox) : Part := { p with mboxes := SMap.set Mailbox.init p.mboxes m x }

/-- A free value, drawn (the spec gives no value). -/
def drawNat (s : State) : Nat × State := (s.freeCtr, { s with freeCtr := s.freeCtr + 1 })
/-- A number never used before: tokens, copies, routes, launches. -/
def State.fresh (s : State) : Nat × State := (s.nextId, { s with nextId := s.nextId + 1 })

/-! ## The parts of a core -/

def Core.q (c : Core) (n : Nat) : List W64 := SMap.get [] c.queues n
def Core.setQ (c : Core) (n : Nat) (l : List W64) : Core := { c with queues := SMap.set [] c.queues n l }
def Core.bar (c : Core) (n : Nat) : Bar := SMap.get Bar.init c.bars n
def Core.setBar (c : Core) (n : Nat) (b : Bar) : Core := { c with bars := SMap.set Bar.init c.bars n b }
/-- What names the barriers of a core (R344): the core itself until a core section takes them or brings others. (DEDUCED:
assumption 91.) -/
def State.barSet (s : State) (c : Nat) : Nat := (s.core c).barSet.getD c
def Core.runlist (c : Core) (n : Nat) : List RunItem := SMap.get [] c.runlists n
def Core.setRunlist (c : Core) (n : Nat) (l : List RunItem) : Core := { c with runlists := SMap.set [] c.runlists n l }
def Core.chan (c : Core) (n : Nat) : Chan := SMap.get Chan.init c.chans n
def Core.setChan (c : Core) (n : Nat) (x : Chan) : Core := { c with chans := SMap.set Chan.init c.chans n x }
/-- Records in a core's run-lists (R201). -/
def Core.runCount (c : Core) : Nat := (List.range 4).foldl (fun n k => n + (c.runlist k).length) 0

def Home.queue (h : Home) (p q : Nat) : Queue := SMap.get Queue.init h.queues (p * 16 + q)
def Home.setQueue (h : Home) (p q : Nat) (x : Queue) : Home :=
  { h with queues := SMap.set Queue.init h.queues (p * 16 + q) x }
def Home.log (h : Home) (p : Nat) : List LogEntry := SMap.get [] h.logs p
def Home.setLog (h : Home) (p : Nat) (l : List LogEntry) : Home := { h with logs := SMap.set [] h.logs p l }

def Thread.stream (t : Thread) (k : Nat) : Stream := SMap.get Stream.unbound t.streams k
def Thread.setStream (t : Thread) (k : Nat) (x : Stream) : Thread :=
  { t with streams := SMap.set Stream.unbound t.streams k x }
def Thread.port (t : Thread) (k : Nat) : Port := SMap.get Port.unbound t.ports k
def Thread.setPort (t : Thread) (k : Nat) (x : Port) : Thread := { t with ports := SMap.set Port.unbound t.ports k x }
def Thread.group (t : Thread) (k : Nat) : Group := SMap.get Group.init t.groups k
def Thread.setGroup (t : Thread) (k : Nat) (x : Group) : Thread := { t with groups := SMap.set Group.init t.groups k x }
def Thread.gReg (t : Thread) (k : Nat) : W64 := SMap.get 0#64 t.g k
/-- The task id (R93). -/
def Thread.task (t : Thread) : W64 := t.gReg 14
/-- OUTALL of R259. -/
def Thread.outAll (t : Thread) : Nat := (List.range 4).foldl (fun n k => n + (t.group k).out) 0

/-- Whether a copy makes no further access: stopped, faulted, or through with its rows. -/
def Copy.over (c : Copy) : Bool := c.finished || (decide (c.nrows ≤ c.row) && c.ready.isEmpty)

/-- The copies of an engine. -/
def State.engine (s : State) (e : Nat) : List Copy := SMap.get [] s.copies e
def State.setEngine (s : State) (e : Nat) (l : List Copy) : State := { s with copies := SMap.set [] s.copies e l }
def State.slot (s : State) (k : Nat) : RSlot := SMap.get RSlot.init s.slots k
def State.setSlot (s : State) (k : Nat) (x : RSlot) : State := { s with slots := SMap.set RSlot.init s.slots k x }

/-- All thread numbers that hold a task, ascending. -/
def State.activeThreads (s : State) : List Nat := (s.threads.filter (fun x => x.2.active)).map (·.1)
/-- The threads of a partition. -/
def State.partThreads (s : State) (p : Nat) : List Nat :=
  (s.threads.filter (fun x => x.2.active && x.2.part == p)).map (·.1)
/-- The threads of a core. -/
def State.coreThreads (s : State) (c : Nat) : List Nat :=
  (List.range (slotsOf c)).filterMap (fun k => if (s.thr (c * 16 + k)).active then some (c * 16 + k) else none)

end Sys2Proof.Machine
end

