-- ==== Sys2Proof/Machine/Flags.lean ====
section
/-!
DEFINITION. Raising the sticky flags (R63, R64), and the conditions of the compares (R113).
-/
namespace Sys2Proof.Machine

open Sys2Proof

/-- R64: an instruction only sets bits of FLAGS. -/
def Thread.raise (t : Thread) (f : Fl) : Thread := { t with flags := t.flags ||| f }

/-- Flags that an operation brings to the task whose id it carries; discarded where that task runs no more (R346). -/
def raiseTask (s : State) (t : Nat) (task : W64) (f : Fl) : State :=
  if (s.thr t).active && (s.thr t).task == task then s.modThr t (fun x => x.raise f) else s

/-- R113: an integer condition at a type; `a` and `b` are elements of that type. -/
def iCond (k : ICond) (t : Ty) (a b : Nat) : Bool :=
  let n := tyWidth t
  let ua := a % 2 ^ n
  let ub := b % 2 ^ n
  let sa := toSigned n a
  let sb := toSigned n b
  match k with
  | .eq => ua == ub
  | .ne => ua != ub
  | .lt => decide (sa < sb)
  | .le => decide (sa ≤ sb)
  | .gt => decide (sb < sa)
  | .ge => decide (sb ≤ sa)
  | .lo => decide (ua < ub)
  | .ls => decide (ua ≤ ub)
  | .hi => decide (ub < ua)
  | .hs => decide (ub ≤ ua)

/-- R113: a float condition; −0 = +0, a NaN makes only `uno` true. -/
def fCond (k : FCond) (t : Ty) (a b : Nat) : Bool :=
  let f := tyFmt t
  let x := fdec f a
  let y := fdec f b
  let un := valIsNan x || valIsNan y
  match k with
  | .oeq => !un && !valLt x y && !valLt y x
  | .olt => !un && valLt x y
  | .ole => !un && !valLt y x
  | .uno => un

end Sys2Proof.Machine
end

