-- ==== Sys2Proof/Machine/Lifecycle.lean ====
section
/-!
DEFINITION. How a task starts on a slot and leaves it, and how a partition is stopped: R13, R14, R89, R93, R111,
R172, R189, R339 to R341.
-/
namespace Sys2Proof.Machine

open Sys2Proof

/-- R14: the copy engine of a core. -/
def copyEngineOf (c : Nat) : Nat :=
  if isCellar c then 8 * ((c - 1024) / 64) + (c - 1024) % 64 / 8
  else 8 * coreDie c + (4 * (tileY c / 4 % 4) + tileX c / 4 % 4) / 2

/-- What a start gives a task beside its slot. -/
structure Start where
  kind : TKind
  part : Nat
  ip : W64
  header : W64
  cont : W64
  args : List W64
  g4 : Nat
  g5 : Nat
  g6 : Nat
  g7 : Nat
  g8 : W64
  g9 : W64
  gran : Nat
  flags : Fl
  live : Option LiveIn
  deriving DecidableEq, Repr

/-- A computed address with bits [1:0] discarded (R29). -/
def align4 (w : W64) : W64 := w &&& 0xFFFFFFFFFFFFFFFC#64

/-- The start of a record's body (R89, R93, R194, R196, R201). -/
def startOf (k : TKind) (p : Nat) (r : Rec) (g4 g5 g6 g7 : Nat) (live : Option LiveIn) : Start where
  kind := k
  part := p
  ip := align4 (match k with | .near => Rec.near r | _ => Rec.far r)
  header := Rec.header r
  cont := Rec.cont r
  args := (List.range 8).map (fun j => if j ≤ hdrArgc (Rec.header r) then Rec.arg r j else 0#64)
  g4 := g4
  g5 := g5
  g6 := g6
  g7 := g7
  g8 := Rec.abase r
  g9 := w64 (Rec.alen r)
  gran := hdrGran (Rec.header r)
  flags := (Rec.flags r).setWidth 7
  live := live

/-- The header a handler runs under: no record gives it one. BUDGET is the 4 units of R173, TAG the reply tag. (DESIGN
CHOICE: assumption 134.) -/
def handlerHeader (rtag : W32) : W64 := w64 (4 * 2 ^ 32 + rtag.toNat)

def handlerStart (p : Nat) (entry : W64) (rtag : W32) (args : List W64) : Start where
  kind := .handler
  part := p
  ip := align4 entry
  header := handlerHeader rtag
  cont := 0#64
  args := args
  g4 := 0
  g5 := 0
  g6 := 1
  g7 := 1
  g8 := 0#64
  g9 := 0#64
  gran := 1
  flags := 0#7
  live := none

/-- The first eight entries of a list as registers `w0` to `w7` of frame 0. -/
def argStack (args : List W64) : SMap W64 :=
  (List.range 8).foldl (fun m j => SMap.set 0#64 m j (args.getD j 0#64)) []

/-- The global registers of R93. -/
def startGlobals (pt : Part) (c slot : Nat) (a : Start) (starts : W32) : SMap W64 :=
  let x := if isCellar c then coreX c else tileX c - pt.x0
  let y := if isCellar c then coreY c else tileY c - pt.y0
  let vals : List W64 :=
    [w64 x, w64 y, w64 a.part, w64 slot, w64 a.g4, w64 a.g5, w64 a.g6, w64 a.g7, a.g8, a.g9,
     (hdrTag a.header).setWidth 64, w64 (if isCellar c then 1 else 0), w64 pt.w, w64 pt.h,
     w64 (pt.coreIndex c * 2 ^ 32 + starts.toNat), w64 a.gran]
  (List.range 16).foldl (fun m j => SMap.set 0#64 m j (vals.getD j 0#64)) []

/-- R89: the thread of a task at its start. (DEDUCED: assumption 82.) -/
def startThread (pt : Part) (t : Nat) (a : Start) (starts : W32) : Thread :=
  let c := coreOf t
  let b := hdrBudget a.header
  { Thread.free with
    active := true
    kind := a.kind
    part := a.part
    ip := a.ip
    stk := argStack a.args
    g := startGlobals pt c (slotOf t) a starts
    gran := a.gran
    flags := a.flags
    tvec := align4 (pt.cfReg 0xD3)
    migCore := pt.coreIndex c
    budEn := decide (1 ≤ b)
    budRem := b * 1024
    header := a.header
    cont := a.cont
    live := a.live
    copyEng := copyEngineOf c }

/-- R89, R189: a task starts on a slot; the core's start count increments, and `g14` takes it as it stood before.
(DEDUCED: assumption 114.) -/
def startTask (s : State) (t : Nat) (a : Start) : State :=
  let c := s.core (coreOf t)
  let s1 := s.setThr t (startThread (s.prt a.part) t a c.starts)
  s1.setCore (coreOf t) { c with starts := c.starts + 1#32 }

/-- The resident program is started on thread 0 of the resident core (R13). -/
def startResident (s : State) (p : Nat) (w0 w1 : W64) : State :=
  let pt := s.prt p
  startTask s (pt.resident * 16) (startOf .resident p (devRecord pt.entry [w0, w1]) 0 0 1 1 none)

/-! ## Leaving a slot -/

/-- A thread leaves every waiting list of its core. -/
def dropWaiter (c : Core) (slot : Nat) : Core :=
  { c with
    qReaders := c.qReaders.map (fun x => (x.1, x.2.filter (· != slot)))
    qWriters := c.qWriters.map (fun x => (x.1, x.2.filter (· != slot)))
    engine := { c.engine with waiters := c.engine.waiters.filter (· != slot) } }

/-- The engine is released by the thread that holds it (R228). -/
def releaseEngine (c : Core) (t : Nat) : Core :=
  if c.engine.holder == some t then { c with engine := { Engine.free with waiters := c.engine.waiters } } else c

/-- The first of some routes to have reached their channel. -/
def firstReached : List Route → Option Route
  | [] => none
  | r :: rs =>
    match firstReached rs with
    | none => some r
    | some x => if x.reachNo < r.reachNo then some x else some r

/-- The route that delivers next to a channel: of the complete routes, the one that reached it first (R290, R291). -/
def nextRoute (s : State) (core chan : Nat) : Option Nat :=
  (firstReached (s.routes.filter (fun r => r.dst == core && r.chan == chan && r.complete))).map (·.id)

/-- A channel with no delivering route takes the next one; a channel that discards marks it (R291). -/
def feedChan (s : State) (core chan : Nat) : State :=
  let ch := (s.core core).chan chan
  match ch.route, nextRoute s core chan with
  | none, some id =>
    let s1 := s.modCore core (fun c => c.setChan chan { ch with route := some id })
    if ch.discard then
      { s1 with routes := s1.routes.map (fun (r : Route) => if r.id == id then { r with dropped := true } else r) }
    else s1
  | _, _ => s

/-- A route is gone, and its links are free. -/
def removeRoute (s : State) (r : Route) : State :=
  let s1 := { s with routes := s.routes.filter (fun x => x.id != r.id) }
  let ch := (s1.core r.dst).chan r.chan
  if ch.route == some r.id then s1.modCore r.dst (fun c => c.setChan r.chan { ch with route := none }) else s1

/-- A channel delivers what it can by itself: the words of a discarded route are dropped, up to its marker, and then
the next route is taken (R291). -/
def settleChan (core chan : Nat) : Nat → State → State
  | 0, s => s
  | n + 1, s =>
    let s1 := feedChan s core chan
    match ((s1.core core).chan chan).route with
    | none => s1
    | some id =>
      match s1.routes.find? (fun r => r.id == id) with
      | none => s1
      | some r =>
        if !r.dropped then s1
        else if r.words.any (· == none) then settleChan core chan n (removeRoute s1 r)
        else { s1 with routes := s1.routes.map (fun (x : Route) => if x.id == id then { x with words := [] } else x) }

/-- A channel settles; each round takes one route away. -/
def settle (s : State) (core chan : Nat) : State := settleChan core chan (s.routes.length + 1) s

/-- A route whose closing marker has been consumed is gone. (DEDUCED: assumption 30.) -/
def dropRoute (s : State) (id : Nat) : State :=
  match s.routes.find? (fun r => r.id == id) with
  | none => s
  | some r => settle (removeRoute s r) r.dst r.chan

/-- `close` of port k of a thread (R291). -/
def closePort (s : State) (t k : Nat) : State :=
  match (s.thr t).port k with
  | .unbound => s
  | .tx id =>
    let s1 := s.modThr t (fun x => x.setPort k .unbound)
    let s2 := { s1 with routes := s1.routes.map (fun (r : Route) => if r.id == id then { r with words := r.words ++ [none], closed := true } else r) }
    match s2.routes.find? (fun r => r.id == id) with
    | some r => settle s2 r.dst r.chan
    | none => s2
  | .rx chan =>
    let s1 := s.modThr t (fun x => x.setPort k .unbound)
    let c := coreOf t
    let ch := (s1.core c).chan chan
    let s2 := s1.modCore c (fun x => x.setChan chan { ch with receiver := none, discard := true })
    let s3 := { s2 with routes := s2.routes.map (fun (r : Route) => if ch.route == some r.id then { r with dropped := true } else r) }
    settle s3 c chan

def closePorts (s : State) (t : Nat) : State := (List.range 8).foldl (fun s k => closePort s t k) s

/-- R111: copies still bound to a stream of the task stop and make no further reads. -/
def stopStreamCopies (s : State) (p : Nat) (task : W64) : State :=
  { s with copies := s.copies.map (fun e => (e.1, e.2.map (fun c =>
      if c.task == task && c.part == p && c.stream.isSome then { c with finished := true } else c))) }

/-- OUT of a core falls by one. (DEDUCED: assumption 20.) -/
def lowerOut (s : State) (c : Nat) : State := s.modCore c (fun x => { x with spawnOut := x.spawnOut - 1 })

/-- The place in OUT of a record that a thread has still to send is given back (R203, R214). -/
def dropOut (t : Nat) (s : State) : State :=
  if (s.thr t).outTaken = true then (lowerOut s (coreOf t)).modThr t (fun x => { x with outTaken := false }) else s

/-- The slot is free again: what R111 leaves to the core. -/
def freeSlot (s : State) (t : Nat) : State :=
  let s1 := (dropOut t s).modCore (coreOf t) (fun c => dropWaiter (dropWaiter (releaseEngine c t) (slotOf t)) (16 + slotOf t))
  s1.setThr t Thread.free

/-- R111: the task ends. -/
def endTask (s : State) (t : Nat) : State :=
  let th := s.thr t
  let s1 := closePorts s t
  let s2 := stopStreamCopies s1 th.part th.task
  let s3 := freeSlot s2 t
  if coreOf t == (s3.prt th.part).resident then
    s3.modPart th.part (fun p => { p with retiredTasks := p.retiredTasks + 1 })
  else s3

/-! ## Stopping a partition (R340, R341) -/

/-- Whether a message carries a record counted by SPAWNMAX (R203). -/
def msgCounted (m : Msg) : Bool :=
  match m.req with
  | .record _ c => c
  | .deposit _ _ => true
  | _ => false

/-- A message is discarded: a counted record leaves OUT of the core that sent it (R203). (DEDUCED: assumption 52.) -/
def discardMsg (s : State) (m : Msg) : State := if msgCounted m then lowerOut s (coreOf m.thr) else s

/-- The held messages of a thread are discarded (R295, R340). -/
def discardHeld (s : State) (t : Nat) : State :=
  let hs := (s.thr t).held
  let s1 := s.modThr t (fun x => { x with held := [] })
  hs.foldl (fun s h => if h.record then lowerOut s (coreOf t) else s) s1

/-- Requests that ask for work, as opposed to replies. -/
def isReply : Req → Bool
  | .bytes _ | .word _ _ | .row _ _ | .grant _ _ _ | .flags _ | .refusal _ | .poison _ | .peerError _ | .accepted
  | .recordRefused _ _ _ => true
  | _ => false

/-- Whether an instance of a launch has still to be accepted by its core's run-lists. -/
def instancesPending (s : State) (lid : Nat) : Bool :=
  let isOne (m : Msg) : Bool := match m.req with | .launch i => i.lid == lid | _ => false
  s.net.any isOne || s.homes.any (fun h => h.2.router.any isOne) || s.cores.any (fun c => c.2.launchWait.any (fun i => i.lid == lid))

/-- A launch counts in OUT until every instance has been accepted or discarded (R203, R218). (DEDUCED: assumption 21.) -/
def settleLaunch (s : State) (i : Inst) : State := if instancesPending s i.lid then s else lowerOut s i.srcCore

/-- Instances of which none is kept twice, by their launch. -/
def oneOfEach : List Inst → List Inst
  | [] => []
  | i :: l => i :: (oneOfEach l).filter (fun x => x.lid != i.lid)

/-- The launches of a partition that wait at their senders are dropped. -/
def dropLaunches (s : State) (p : Nat) : State :=
  let gone := s.cores.flatMap (fun c => c.2.launchWait.filter (fun i => i.part == p))
  let s1 := { s with cores := s.cores.map (fun c => (c.1, { c.2 with launchWait := c.2.launchWait.filter (fun i => i.part != p) })) }
  (oneOfEach gone).foldl settleLaunch s1

/-- Placed mailbox tasks that had not started: BUSY clears and OVERRUN is set (R340). -/
def loseMail (s : State) (p : Nat) : State :=
  let c := (s.prt p).resident
  let core := s.core c
  let items := (List.range 4).flatMap (fun k => core.runlist k) ++ core.starting.map (·.2)
  items.foldl (fun s it =>
    match it.mail with
    | some m => if it.inst.part == p then
        s.modPart p (fun q => q.setMbox m { q.mbox m with busy := false, overrun := true }) else s
    | none => s) s

/-- Run-lists, starts in preparation and refused records of a partition are emptied. -/
def emptyCores (s : State) (p : Nat) : State :=
  { s with cores := s.cores.map (fun c => (c.1, { c.2 with
      runlists := c.2.runlists.map (fun l => (l.1, l.2.filter (fun i => i.inst.part != p)))
      starting := c.2.starting.filter (fun i => i.2.inst.part != p)
      granted := c.2.granted.filter (fun g => match g.2.2.2 with
        | some l => l.part != p
        | none => !(s.prt p).hasCore c.1)
      decisions := if (s.prt p).hasCore c.1 then [] else c.2.decisions })) }

/-- Refused records of the partition that wait to be resent. -/
def dropResends (s : State) (p : Nat) : State :=
  let gone := s.cores.flatMap (fun c => c.2.resend.filter (fun m => m.part == p))
  let s1 := { s with cores := s.cores.map (fun c => (c.1, { c.2 with resend := c.2.resend.filter (fun m => m.part != p) })) }
  gone.foldl discardMsg s1

/-- Records in hardware entries. -/
def Queue.hw (q : Queue) : Nat := (q.entries.filter (fun e => e.spilled.isNone)).length
/-- Records in the spill region. -/
def Queue.spilled (q : Queue) : Nat := (q.entries.filter (fun e => e.spilled.isSome)).length
/-- The depth D (R192). -/
def Queue.depth (q : Queue) : Nat := q.entries.length

/-- A pending spill setting (R224). -/
def Queue.pend (q : Queue) : Bool := q.pendBase.isSome || q.pendSize.isSome

/-- Spill settings take effect in an empty region, whose head and tail start at place 0 (R192, R193). -/
def Queue.newRegion (q : Queue) (base : W64) (size : Nat) : Queue :=
  { q with spbase := base, spsize := size, pendBase := none, pendSize := none, head := 0, tail := 0, used := 0, noSpill := false }

/-- With the region empty, a pending spill setting takes effect (R224). -/
def takePending (q : Queue) : Queue :=
  if q.spilled = 0 ∧ q.pend = true then q.newRegion (q.pendBase.getD q.spbase) (q.pendSize.getD q.spsize) else q

/-- A queue emptied; its settings stay (R340), and no near body is live in it any more, a saved one included. (DESIGN CHOICE:
assumption 119.) -/
def Queue.emptied (q : Queue) : Queue :=
  takePending { q with entries := [], head := 0, tail := 0, used := 0, nearLive := [], takes := [], steals := [] }

/-- The anchored queues and waiting handler messages of a partition are emptied at every home. -/
def emptyHomes (s : State) (p : Nat) : State :=
  { s with homes := s.homes.map (fun h => (h.1, { h.2 with
      queues := h.2.queues.map (fun q => (q.1, if q.1 / 16 == p then q.2.emptied else q.2))
      amq := h.2.amq.filter (fun a => a.part != p) })) }

/-- R272, R257: the copy that feeds a job has ended early; rows that did not arrive whole are never taken. A job that is
owed nothing keeps its rows. -/
def cutJob (id : Nat) (j : MmaJob) : MmaJob :=
  if j.copyId = id ∧ j.need ≠ 0 then { j with need := 0, m := j.next + j.got.length / 256 } else j

/-- The jobs of a core's engine lose the copy that feeds them. -/
def cutJobs (s : State) (core id : Nat) : State :=
  s.modCore core (fun c => { c with engine := { c.engine with jobs := c.engine.jobs.map (cutJob id) } })

/-- Whether the task of a copy runs on the copy's thread. -/
def State.runsCopy (s : State) (c : Copy) : Bool :=
  (s.thr c.thr).active && (s.thr c.thr).task == c.task && (s.thr c.thr).part == c.part

/-- A stream bound to a cancelled copy is unbound, and its unread bytes are discarded (R270). -/
def unbindCopy (t : Thread) (c : Copy) : Thread :=
  match c.stream with
  | some k => if (t.stream k).copyId = c.id then t.setStream k Stream.unbound else t
  | none => t

/-- A cancelled copy is counted in its group, whose fault record clears (R270). -/
def cancelled (t : Thread) (c : Copy) : Thread :=
  let g := t.group c.grp
  (unbindCopy t c).setGroup c.grp ⟨g.out - 1, g.done + 1#32, false, 0, 0, 0⟩

/-- The copies of the partition are cancelled (R270, R340), and those whose tasks still run are counted. -/
def cancelCopies (s : State) (p : Nat) : State :=
  let gone := (s.copies.flatMap (·.2)).filter (fun c => c.part == p && s.runsCopy c)
  let s1 := { s with copies := s.copies.map (fun e => (e.1, e.2.filter (fun c => c.part != p))) }
  gone.foldl (fun s c => (cutJobs s (coreOf c.thr) c.id).modThr c.thr (fun t => cancelled t c)) s1

/-- Restores that wait for the engine of a core leave its list (R243). -/
def dropRestores (c : Core) : Core := { c with engine := { c.engine with waiters := c.engine.waiters.filter (fun w => decide (w < 32)) } }

/-- Whether a core's waiting restores are a partition's. -/
def ownsRestores (s : State) (p c : Nat) : Bool := (s.prt p).hasCore c

/-- A pre-emption request of a contained partition ends with STATUS FAULT; a thread being saved runs on. -/
def abortPreempt (s : State) (p : Nat) : State :=
  if (s.prt p).preempt.go then
    let s0 := s.modPart p (fun q => { q with preempt := { q.preempt with go := false, status := 5, todo := [], coreSlot := none } })
    let s1 := { s0 with cores := s0.cores.map (fun (c : Nat × Core) => (c.1, if ownsRestores s p c.1 then dropRestores c.2 else c.2)) }
    (s1.partThreads p).foldl (fun s t => s.modThr t (fun x => { x with stop := if x.stop = 1 then 0 else x.stop })) s1
  else s

/-- What rollback and unwind discard besides the threads: steps 1 and 2 of R340, the clean-up of R341. -/
def discardWork (s : State) (p : Nat) : State :=
  let s1 := loseMail (abortPreempt s p) p
  let s2 := (s1.partThreads p).foldl discardHeld s1
  let s3 := cancelCopies s2 p
  let s4 := emptyHomes s3 p
  let s5 := dropLaunches s4 p
  dropResends (emptyCores s5 p) p

/-- Every thread of the partition stops at once and is discarded, with its routes and channels, those of its threads on
cellar cores among them (R340). -/
def stopThreads (s : State) (p : Nat) : State :=
  let ts := s.partThreads p
  let s1 := { s with routes := s.routes.filter (fun r => !(s.prt p).hasCore r.dst) }
  let s2 := { s1 with cores := s1.cores.map (fun c => (c.1, if (s1.prt p).hasCore c.1 then { c.2 with chans := [] }
    else { c.2 with chans := c.2.chans.filter (fun h => !h.2.receiver.any ts.contains) })) }
  ts.foldl freeSlot s2

/-- R340, steps 1 to 3. -/
def startRollback (s : State) (p : Nat) : State :=
  let s1 := stopThreads (discardWork s p) p
  s1.modPart p (fun q => { q with containing := .rollback, discard := true })

/-- The token leaves through every bound peer port whose peer partition is COLLECTIVE (R341); whether it is one only
Shuone knows. (DESIGN CHOICE: assumption 89.) -/
def sendTokens (s : State) (p : Nat) : State :=
  ((List.range 8).filter (fun k => bitOf ((s.prt p).cfReg (0x48 + k)) 63)).foldl (fun s k =>
    let d := drawNat s
    if bitOf (Config.freeWord d.1) 0 then { d.2 with tokensSent := d.2.tokensSent ++ [(p, k)] } else d.2) s

/-- R341: the token is to be raised by a station and goes to the peers, and the partition's queued work is discarded.
(DESIGN CHOICE: assumption 37.) -/
def startUnwind (s : State) (p raiser : Nat) : State :=
  (sendTokens (discardWork s p) p).modPart p (fun q => { q with containing := .unwind (some raiser) [] 0#64 })

/-- FAULTLOG with a new event (R338). -/
def faultLog (old : W64) (code core slot kind : Nat) : W64 :=
  w64 (code % 256 * 2 ^ 56 + core % 2048 * 2 ^ 45 + slot % 16 * 2 ^ 41 + kind * 2 ^ 32 + (fieldOf old 0 32 + 1) % 2 ^ 32)

/-- R339: a partition is contained. `core` and `slot` are those of the faulting thread, `raiser` the physical core
whose station raises an unwind's token. While one containment is in progress, nothing starts another, and FAULTLOG stays.
(DESIGN CHOICE: assumption 138.) -/
def contain (s : State) (p code core slot raiser : Nat) (eip : W64) : State :=
  let pt := s.prt p
  if pt.present then
    match pt.containing with
    | .none =>
      let kind := if pt.coll then 2 else 1
      let s1 := s.modPart p (fun q => (q.setCf 0xD1 (faultLog (q.cfReg 0xD1) code core slot kind)).setCf 0xD2 eip)
      if pt.coll then startUnwind s1 p raiser else startRollback s1 p
    | _ => s
  else s

/-- R339, R330: an unhandled trap of a thread. While a containment is in progress it only ends its task, whose held messages
are discarded (R203, R295). Under an unwind the thread issues nothing more, until UNWIND ends it (R341). -/
def unhandled (s : State) (t code : Nat) : State :=
  let th := s.thr t
  let pt := s.prt th.part
  match pt.containing with
  | .none =>
    let s1 := contain s th.part code (pt.coreIndex (coreOf t)) (slotOf t) (coreOf t) th.eip
    if pt.coll then s1.modThr t (fun x => { x with stop := 3 }) else s1
  | _ => endTask (discardHeld s t) t

end Sys2Proof.Machine
end

