-- ==== Sys2Proof/Machine/Ops.lean ====
section
/-!
DEFINITION. The named operations over registers and the shared frame of every instruction: the guard (R39), the
register window (R90, R330), predicates and LIVEP (R94, R44), vector registers and ZSKIP (R95, R96), taking a trap
and returning from it (R330, R335), retirement with the loop's end-of-body check (R43, R102, R331), and `runWord`,
which takes an instruction from its checks to its retirement.
-/
namespace Sys2Proof.Machine

open Sys2Proof

/-! ## The guard (R39) -/

/-- A predicate: `p0` reads as ones (R94). -/
def Thread.pred (t : Thread) (n : Nat) : W32 := if n = 0 then 0xFFFFFFFF#32 else SMap.get 0#32 t.p n

/-- A predicate written; writes to `p0` are discarded (R94). -/
def Thread.setPred (t : Thread) (n : Nat) (v : W32) : Thread :=
  if n = 0 then t else { t with p := SMap.set 0#32 t.p n v }

/-- R44: the LIVE bit of a predicate. -/
def Thread.markLive (t : Thread) (n : Nat) : Thread :=
  if n = 0 then t else { t with livep := t.livep ||| (1#16 <<< n) }

/-- The lanes where three predicates have one combination of values. -/
def guardTerm (a b c : W32) (i : Nat) : W32 :=
  (if i / 4 % 2 = 1 then a else ~~~a) &&& (if i / 2 % 2 = 1 then b else ~~~b) &&& (if i % 2 = 1 then c else ~~~c)

/-- G of R39. -/
def guardOf (t : Thread) (c : Ctl) : W32 :=
  let a := t.pred c.ga.toNat
  let b := t.pred c.gb.toNat
  let d := t.pred c.gc.toNat
  (List.range 8).foldl (fun acc i => if c.tt.getLsbD i then acc ||| guardTerm a b d i else acc) 0#32

/-! ## The register window (R90, R330) -/

/-- The stack entry of `wr` in a frame. -/
def stkIndex (frame r : Nat) : Nat := (24 * frame + r) % 256

/-- The physical register that `wr` names: the trap window in trap mode. -/
def Thread.preg (t : Thread) (r : Nat) : PReg := if t.tm then .trapW r else .stk (stkIndex t.depth r)

def Thread.readP (t : Thread) : PReg → W64
  | .stk e => SMap.get 0#64 t.stk e
  | .trapW r => SMap.get 0#64 t.trapWin r
  | .v _ | .q _ | .n _ => 0#64
  | .rver => t.rver

def Thread.writeP (t : Thread) (x : PReg) (v : W64) : Thread :=
  match x with
  | .stk e => { t with stk := SMap.set 0#64 t.stk e v }
  | .trapW r => { t with trapWin := SMap.set 0#64 t.trapWin r v }
  | .v _ | .q _ | .n _ => t
  | .rver => { t with rver := v }

/-- `wr`. -/
def Thread.w (t : Thread) (r : Nat) : W64 := t.readP (t.preg r)
def Thread.setW (t : Thread) (r : Nat) (v : W64) : Thread := t.writeP (t.preg r) v

/-! ## Vector registers (R95, R96) -/

/-- The effective index of a vector operand (R46, check 8). -/
def Thread.vIdx (t : Thread) : VReg → Nat
  | .v r => r.toNat
  | .vi w off => (t.w w.toNat).toNat + off.toNat

/-- Registers of the allotment. -/
def Thread.vCount (t : Thread) : Nat := 64 * t.gran

def Thread.lane (t : Thread) (r i : Nat) : W32 := SMap.get 0#32 t.v (r * 32 + i)
def Thread.setLane (t : Thread) (r i : Nat) (x : W32) : Thread := { t with v := SMap.set 0#32 t.v (r * 32 + i) x }

/-- The 32 lanes of a register. -/
def Thread.vreg (t : Thread) (r : Nat) : Lanes := (List.range 32).map (fun i => t.lane r i)

/-- The lanes of a mask written, from lane i on. -/
def setLanes (t : Thread) (r : Nat) (mask : W32) : Nat → Lanes → Thread
  | _, [] => t
  | i, x :: xs => setLanes (if mask.getLsbD i then t.setLane r i x else t) r mask (i + 1) xs

/-- Zero words among the lanes of a mask, from lane i on. -/
def zerosIn (mask : W32) : Nat → Lanes → Nat
  | _, [] => 0
  | i, x :: xs => (if mask.getLsbD i && x == 0#32 then 1 else 0) + zerosIn mask (i + 1) xs

def allLanes : W32 := 0xFFFFFFFF#32

/-- R96: ZSKIP of a core counts n more avoided accesses. -/
def countSkips (s : State) (c n : Nat) : State := s.modCore c (fun x => { x with zskip := x.zskip + w64 n })

/-! ## What is still on its way -/

/-- Accesses and the writes to counter blocks, which releases and fences wait for (R82, R84, R217, R223). -/
def isAccess : Req → Bool
  | .load _ _ | .store _ _ | .atomic _ _ _ _ | .rowadd _ _ _ _ | .rowld _ _ | .decrement _ | .deposit _ _ | .setdep _ _ _
  | .qcfg _ _ _ | .qstat _ | .mbRead _ _ _ | .mbWrite _ _ _ | .cfRead _ | .cfWrite _ _
  | .hmLoad _ _ _ | .hmStore _ _ | .hmAtomic _ _ _ _ | .pmLoad _ _ | .pmStore _ _ | .pmAtomic _ _ _ _ => true
  | _ => false

/-- Every message that has not been performed or accepted. -/
def State.inFlight (s : State) : List Msg :=
  s.net ++ s.homes.flatMap (fun h => h.2.router ++ h.2.local_) ++ s.cores.flatMap (fun c => c.2.resend)

/-- Whether accesses of a task of the executing thread's partition on one of the paths are still to be performed. -/
def State.pending (s : State) (task : W64) (ps : List Path) : Bool :=
  s.inFlight.any (fun m => m.task == task && m.part == s.me.part && ps.contains m.path && isAccess m.req)

/-- Copies of a task that have not finished, on any engine. -/
def State.copiesPending (s : State) (task : W64) : Bool :=
  s.copies.any (fun e => e.2.any (fun c => c.task == task && c.part == s.me.part && !c.over))

/-- Whether the wait of a fence of thread t goes on: an access of its classes that precedes it has still to be performed
(R84). -/
def State.fenceWaits (s : State) (t : Nat) (f : List Path × Nat) : Bool :=
  let th := s.thr t
  s.inFlight.any (fun m => m.task == th.task && m.part == th.part && f.1.contains m.path && isAccess m.req &&
    decide (m.age < f.2)) ||
  (f.1.contains .cp && s.copies.any (fun e => e.2.any (fun c =>
    c.task == th.task && c.part == th.part && !c.over && decide (c.age < f.2))))

/-- Whether no fence of the thread that names one of some classes has still to wait (R84). -/
def State.fencesOver (s : State) (t : Nat) (ps : List Path) : Bool :=
  (s.thr t).fences.all (fun f => !f.1.any ps.contains || !s.fenceWaits t f)

/-- All classes (R77). -/
def allPaths : List Path := [.ls, .cp, .nb, .am, .hp, .rg]

/-! ## Traps (R330, R335, R339) -/

def causeIllegal : Nat := 0x01
def causeNearIllegal : Nat := 0x02
def causeVregRange : Nat := 0x03
def causeWindowOverflow : Nat := 0x04
def causeWindowUnderflow : Nat := 0x05
def causeStreamEnd : Nat := 0x06
def causeBarrierTimeout : Nat := 0x07
def causePortUnbound : Nat := 0x08
def causeBreakpoint : Nat := 0x09
def causeBudget : Nat := 0x0A
def causeEcall : Nat := 0x0B
def causePageFaultDm : Nat := 0x10
def causePageFaultHm : Nat := 0x11
def causePageFaultPm : Nat := 0x12
def causeSpRange : Nat := 0x13
def causeMisaligned : Nat := 0x14
def causeAccess : Nat := 0x15
def causeAttrFault : Nat := 0x16
def causePeerError : Nat := 0x17
def causeMemPoison : Nat := 0x18
def causeAnchorSpan : Nat := 0x20
def causeTaskFormat : Nat := 0x21
def causeLaunchShape : Nat := 0x22
def causeMatrixFormat : Nat := 0x30
def causeCopyFault : Nat := 0x40
def causeStreamBusy : Nat := 0x41
def causeCopyDesc : Nat := 0x42
def causePortFault : Nat := 0x50
def causePortEnd : Nat := 0x51
def causeSpecOverflow : Nat := 0x52
def causeSpecConflict : Nat := 0x53
def causeSlotProt : Nat := 0x60
def causeSlotPoison : Nat := 0x61
def causeSlotEmpty : Nat := 0x62
def causeUnwind : Nat := 0x70

/-- The CAUSE word (R105). -/
def causeWord (async : Bool) (code : Nat) : W64 := w64 ((if async then 2 ^ 63 else 0) + code)

/-- R330: the trap registers are written, and the thread enters trap mode at TVEC. -/
def trapEntry (t : Thread) (async : Bool) (code : Nat) (tval : W64) (g : W32) (eip : W64) : Thread :=
  { t with eip := eip, cause := causeWord async code, tval := tval, tstatG := g, ptm := t.tm, tm := true, ip := t.tvec,
           wait := .none, pre := [], word := none, half := none, restarted := false }

/-- The trap registers alone, for a trap that nothing handles (R330). -/
def trapRecord (t : Thread) (async : Bool) (code : Nat) (tval : W64) (g : W32) (eip : W64) : Thread :=
  { t with eip := eip, cause := causeWord async code, tval := tval, tstatG := g, wait := .none, pre := [], word := none,
           half := none, restarted := false }

/-- A claim of the matrix engine that no instruction has used is given back (R228, R246). -/
def dropClaim (t : Nat) (s : State) : State :=
  if (s.thr t).wait = .claimed ∨ (s.thr t).wait = .claimStall then s.modCore (coreOf t) (fun c => releaseEngine c t) else s

/-- An instruction is withdrawn before it has an effect: a claim of the engine and a place in OUT that it holds are given
back (R214, R246). -/
def withdraw (t : Nat) (s : State) : State := dropOut t (dropClaim t s)

/-- TAKING A TRAP, on thread t (R330): with no handler, or in trap mode, it is unhandled (R339). The thread leaves the
waiting lists of its core: its instruction has had no effect. -/
def takeTrap (s : State) (t : Nat) (async : Bool) (code : Nat) (tval : W64) (g : W32) (eip : W64) : State :=
  let s0 := (withdraw t s).modCore (coreOf t) (fun c => dropWaiter c (slotOf t))
  let th := s0.thr t
  if th.tvec = 0#64 ∨ th.tm = true then
    unhandled (s0.setThr t (trapRecord th async code tval g eip)) t code
  else s0.setThr t (trapEntry th async code tval g eip)

/-- A trap taken where no instruction has evaluated a guard: TSTAT.G is a free value. (DESIGN CHOICE: assumption 10.) -/
def takeTrapBetween (s : State) (t : Nat) (async : Bool) (code : Nat) (tval : W64) (eip : W64) : State :=
  takeTrap (drawNat s).2 t async code tval ((Config.freeWord (drawNat s).1).setWidth 32) eip

/-- RETURNING FROM A TRAP (R335): IP := EIP and TM := PTM. The next instruction is a restart (R104).
(DEDUCED: assumption 43.) -/
def trapReturn (t : Thread) : Thread := { t with ip := t.eip, tm := t.ptm, restarted := true }

/-! ## The monad of a meaning -/

/-- Why a meaning does not go through: a precise trap, or a block. Each says what it changes of the state before the
instruction (nothing, but for the exceptions of R45 and for the waiting lists). -/
inductive Stop where
  | trap (fix : State → State) (code : Nat) (tval : State → W64)
  | block (fix : State → State)

abbrev Act (α : Type) := StateT State (Except Stop) α

def trap {α : Type} (code : Nat) (tval : W64) : Act α := fun _ => .error (.trap (fun s => s) code (fun _ => tval))
def trapFix {α : Type} (fix : State → State) (code : Nat) (tval : State → W64) : Act α := fun _ => .error (.trap fix code tval)
def block {α : Type} : Act α := fun _ => .error (.block (fun s => s))
def blockWith {α : Type} (fix : State → State) : Act α := fun _ => .error (.block fix)
/-- The thread waits for something named, and its instruction runs again afterwards. -/
def blockWait {α : Type} (w : Wait) : Act α := blockWith (fun s => s.modMe (fun t => { t with wait := w }))

def getMe : Act Thread := do return (← get).me
def modMeA (f : Thread → Thread) : Act Unit := modify (fun s => s.modMe f)
def raiseA (f : Fl) : Act Unit := modMeA (fun t => t.raise f)
def setWA (r : BitVec 5) (v : W64) : Act Unit := modMeA (fun t => t.setW r.toNat v)

/-- The wait of what a fence holds back beside its classes' accesses: queue and port writes (R99), and the hand-offs that
carry a fence's order on (R126, R209). -/
def waitFences : Act Unit := do
  let s ← get
  if s.fencesOver s.cur allPaths then return () else block

/-- ILLEGAL with a subcode (R47), raised by an instruction after its guard has passed. -/
def illegalA {α : Type} (op fn : Nat) (sub wher field : Nat) : Act α :=
  trap causeIllegal (illegalTval field fn op wher sub)

/-- How a meaning ends. -/
inductive Ret where
  /-- The next instruction in sequence, after the loop's check (R102). -/
  | seq
  /-- A transfer of control: no end-of-body check. -/
  | jump (ip : W64)
  /-- The task has ended, or a trap has been taken: nothing more to do. -/
  | ended
  deriving DecidableEq, Repr

/-! ## Retirement (R43, R102, R331) -/

/-- The end-of-body check of R102: where control goes after the instruction at `t.ip`. -/
def loopCheck (t : Thread) : Thread :=
  if t.loopOn && t.ip == t.ae then
    if t.lc.toNat ≤ 1 then { t with lc := 0#64, loopOn := false, ip := t.ip + 12#64 }
    else { t with lc := t.lc - 1#64, as := t.ls, ae := t.le, ip := t.ls }
  else { t with ip := t.ip + 12#64 }

/-- The arrival of a `bar.sync` that has still to retire: the one at the thread's IP retires now (R104). -/
def syncLeft (t : Thread) : Option (Nat × BitVec 8 × W64) :=
  match t.syncRec with
  | some r => if r.2.2 = t.ip then none else some r
  | none => none

/-- One instruction is counted: the budget runs outside trap mode (R331). -/
def countRetired (t : Thread) : Thread :=
  { t with budRem := if t.budEn && !t.tm then t.budRem - 1 else t.budRem, retired := t.retired + 1,
           wait := .none, pre := [], word := none, half := none, restarted := false, syncRec := syncLeft t, yieldAt := [] }

/-- The thread moves past its instruction. -/
def retireThread (t : Thread) (tmBefore : Bool) : Ret → Thread
  | .seq => loopCheck (countRetired { t with tm := tmBefore })
  | .jump ip => { countRetired { t with tm := tmBefore } with ip := ip }
  | .ended => t

/-- An instruction retires: its slot leaves the waiting lists of the core. -/
def retire (s : State) (r : Ret) : State :=
  match r with
  | .ended => s
  | r =>
    let s1 := s.modCore (coreOf s.cur) (fun c => dropWaiter c (slotOf s.cur))
    s1.modMe (fun t => retireThread t t.tm r)

/-! ## Interlocks and check 8 -/

/-- Whether any of the registers has a reply owed (R97). -/
def Thread.owes (t : Thread) (rs : List PReg) : Bool := t.owed.any (fun o => o.regs.any (fun r => rs.contains r))

/-- A vector operand with the size of its group. -/
abbrev VGroup := VReg × Nat

/-- The index register of an indirect operand. -/
def VReg.index (t : Thread) : VReg → List PReg
  | .v _ => []
  | .vi w _ => [t.preg w.toNat]

/-- The physical registers of a group. -/
def groupRegs (t : Thread) (g : VGroup) : List PReg := (List.range g.2).map (fun k => .v (t.vIdx g.1 + k))

/-- Check 8 on one group: the first register outside the allotment (R46). -/
def groupBad (t : Thread) (g : VGroup) : Option Nat :=
  let lim := min t.vCount 2048
  let r := t.vIdx g.1
  if lim ≤ r then some r else if lim < r + g.2 then some lim else none

/-- Check 8: the lowest failing index over the groups. -/
def vregCheck (t : Thread) (gs : List VGroup) : Option Nat :=
  gs.foldl (fun acc g =>
    match acc, groupBad t g with
    | none, x => x
    | some a, some b => some (min a b)
    | some a, none => some a) none

/-- What an instruction names, for its checks and interlocks. -/
structure Uses where
  /-- Vector groups, for check 8; all of them are read or written. -/
  groups : List VGroup := []
  /-- Scalar registers read or written. -/
  ws : List Nat := []
  /-- Registers written under no name of the current frame (R109), queue and port registers among them (R97). -/
  extra : List PReg := []
  /-- A matrix instruction (check 7). -/
  matrix : Bool := false
  /-- Refused inside a speculative region (R294): the OP. -/
  conflict : Option Nat := none
  /-- The feature bits that gate the encoding (R46), for FEATUSED (R345). -/
  feats : List Nat := []

/-- Every physical register of an instruction. -/
def Uses.regs (u : Uses) (t : Thread) : List PReg :=
  u.ws.map t.preg ++ u.extra ++ u.groups.flatMap (fun g => VReg.index t g.1 ++ groupRegs t g)

/-- Index registers alone: check 8 reads them before the guard. -/
def Uses.indexRegs (u : Uses) (t : Thread) : List PReg := u.groups.flatMap (fun g => VReg.index t g.1)

/-- What two operands name together. -/
def Uses.and (u v : Uses) : Uses where
  groups := u.groups ++ v.groups
  ws := u.ws ++ v.ws
  extra := u.extra ++ v.extra
  matrix := u.matrix || v.matrix
  conflict := match u.conflict with | none => v.conflict | some op => some op
  feats := u.feats ++ v.feats

/-- The feature bits of an executing encoding are recorded (R345). -/
def noteFeats (t : Thread) (fs : List Nat) : Thread :=
  fs.foldl (fun t b => { t with featUsed := t.featUsed ||| (1#64 <<< b) }) t

/-- The state in which a body begins: the features of its encoding are recorded. -/
def State.begun (s : State) (u : Uses) : State :=
  match u.feats with
  | [] => s
  | fs => s.modMe (fun t => noteFeats t fs)

/-- What stands between check 8 and the body of an instruction whose guard passes: the region's refusals (R294), the
interlock (R97), and the body itself. -/
def runBody (u : Uses) (g : W32) (body : Act Ret) (s : State) : State :=
  let t := s.me
  match (if t.specOn then u.conflict else none) with
  | some op => takeTrap s s.cur false causeSpecConflict (w64 op) g t.ip
  | none =>
    if t.owes (u.regs t) then s
    else match body (s.begun u) with
      | .ok (r, s') => retire s' r
      | .error (.trap fix code tval) => takeTrap (fix s) s.cur false code (tval s) g t.ip
      | .error (.block fix) => fix s

/-- Whether a guard result lets an instruction execute: a lane instruction with any lane, another one with bit 0 (R39). -/
def guardPasses (lane : Bool) (g : W32) : Bool := if lane then g != 0#32 else g.getLsbD 0

/-- An instruction word from its checks to its retirement; it executes only for a task. Check 8 reads index registers, as
they stand where the guard suppresses the instruction, which waits for nothing (R97). (DEDUCED: assumption 88.) `lane` is
a lane instruction; `always` runs the body of a suppressed instruction too (compares, R114), which
then waits for no register (R97). TVAL of VREG_RANGE is the failing index, and one of 2^64 or more is reported modulo 2^64.
(DESIGN CHOICE: assumption 106.) -/
def runWord (c : Ctl) (lane always : Bool) (u : Uses) (body : W32 → Act Ret) (s : State) :
    Host.Outcome State Fault Refusal :=
  let t := s.me
  if t.active = false then .fault .slotFree
  else if u.matrix && isCellar (coreOf s.cur) then
    .next (takeTrap s s.cur false causeNearIllegal 0#64 (guardOf t c) t.ip)
  else if guardPasses lane (guardOf t c) && t.owes (u.indexRegs t) then .next s
  else match vregCheck t u.groups with
    | some r => .next (takeTrap s s.cur false causeVregRange (w64 r) (guardOf t c) t.ip)
    | none =>
      let g := guardOf t c
      if guardPasses lane g then .next (runBody u g (body g) s)
      else if always then .next (runBody {} g (body g) s)
      else .next (retire s .seq)

/-- A scalar instruction (R39). -/
def runScalar (c : Ctl) (u : Uses) (body : Act Ret) (s : State) : Host.Outcome State Fault Refusal :=
  runWord c false false u (fun _ => body) s

/-- A lane instruction (R39, R42): the body is given G. -/
def runLane (c : Ctl) (u : Uses) (body : W32 → Act Ret) (s : State) : Host.Outcome State Fault Refusal :=
  runWord c true false u body s

end Sys2Proof.Machine
end

