-- ==== Sys2Proof/Machine/Operands.lean ====
section
/-!
DEFINITION. Every operand form: what it names (for check 8, the interlock and the region's refusals), how it is
read and how it is written (R32 to R36, R98, R100, R101, R106, R107, R127, R128, R144).
-/
namespace Sys2Proof.Machine

open Sys2Proof

/-! ## What operands name -/

def Uses.none : Uses := {}
def Uses.w (r : BitVec 5) : Uses := { ws := [r.toNat] }
def Uses.group (r : VReg) (n : Nat) : Uses := { groups := [(r, n)] }
/-- The feature that a type code needs (R46). -/
def Uses.ty (t : Ty) : Uses := { feats := match t with | .int4x => [4] | _ => [] }

def Uses.src : Src → Uses
  | .w r => Uses.w r
  | .n k => { feats := [3], extra := [.n k.toNat] }
  | .q k => { extra := [.q k.toNat] }
  | .imm _ | .g _ | .s _ => Uses.none

/-- A scalar destination of an instruction with opcode `op`: a port write is refused inside a region (R294). -/
def Uses.dst (op : Nat) : Dst → Uses
  | .w r => Uses.w r
  | .q k => { extra := [.q k.toNat] }
  | .n k => { feats := [3], conflict := some op, extra := [.n k.toNat] }

def Uses.wi : WI → Uses
  | .w r => Uses.w r
  | .imm _ => Uses.none
def Uses.wg : WG → Uses
  | .w r => Uses.w r
  | .g _ => Uses.none
def Uses.vr (r : VReg) : Uses := Uses.group r 1
def Uses.vv : VV → Uses
  | .reg r => Uses.vr r
  | .s _ => Uses.none
def Uses.vsrc : VSrc → Uses
  | .reg r => Uses.vr r
  | .sc a => Uses.src a
def Uses.slotOp : SlotOp → Uses
  | .sl _ => Uses.none
  | .w r => Uses.w r
def Uses.ldDst : LdDst → Uses
  | .w _ r => Uses.w r
  | .v r => Uses.vr r
def Uses.stSrc : StSrc → Uses
  | .s _ a => Uses.src a
  | .v a => Uses.vv a

/-! ## Queues (R98) -/

/-- A slot joins a waiting list, at its end, once. -/
def joinList (l : List Nat) (slot : Nat) : List Nat := if l.contains slot then l else l ++ [slot]

def joinReaders (k : Nat) (s : State) : State :=
  s.modCore (coreOf s.cur) (fun c =>
    { c with qReaders := SMap.set [] c.qReaders k (joinList (SMap.get [] c.qReaders k) (slotOf s.cur)) })
def joinWriters (k : Nat) (s : State) : State :=
  s.modCore (coreOf s.cur) (fun c =>
    { c with qWriters := SMap.set [] c.qWriters k (joinList (SMap.get [] c.qWriters k) (slotOf s.cur)) })

/-- Whether a slot is served next: nobody waits, or it waits first. -/
def servedNext (l : List Nat) (slot : Nat) : Bool := l.head? == none || l.head? == some slot

/-- A read of queue k takes the oldest entry, or blocks. -/
def popQueue (k : Nat) : Act W64 := do
  let s ← get
  let c := s.core (coreOf s.cur)
  match c.q k with
  | x :: xs =>
    if servedNext (SMap.get [] c.qReaders k) (slotOf s.cur) then do
      set ((s.setCore (coreOf s.cur) (c.setQ k xs)).modMe (fun t => { t with usedQueue := true }))
      return x
    else blockWith (joinReaders k)
  | [] => blockWith (joinReaders k)

/-- A write to queue k appends an entry, or blocks while there are 8. -/
def pushQueue (k : Nat) (v : W64) : Act Unit := do
  waitFences
  let s ← get
  let c := s.core (coreOf s.cur)
  if decide ((c.q k).length < 8) && servedNext (SMap.get [] c.qWriters k) (slotOf s.cur) then
    set ((s.setCore (coreOf s.cur) (c.setQ k (c.q k ++ [v]))).modMe (fun t => { t with usedQueue := true }))
  else blockWith (joinWriters k)

/-! ## Streams (R100, R272) -/

/-- A group's status word with a fault code and position (R271). -/
def groupWordWith (g : Group) (ecode epos : Nat) : W64 :=
  w64 (g.out % 256 * 2 ^ 56 + ecode % 16 * 2 ^ 52 + min epos (2 ^ 20 - 1) * 2 ^ 32 + g.done.toNat)
/-- The status word of a group (R271). -/
def groupWord (g : Group) : W64 := groupWordWith g g.ecode g.epos

/-- ERR and the fault record of a group cleared (R269, R272). -/
def Thread.clearGroupFault (t : Thread) (g : Nat) : Thread :=
  t.setGroup g { t.group g with err := false, ecode := 0, epos := 0, src := 0 }

/-- R272: a stream's read clears the group's record when it holds the fault of the stream's own copy. -/
def clearStreamFault (k : Nat) (s : State) : State :=
  s.modMe (fun t =>
    let st := t.stream k
    if (t.group st.grp).err && (t.group st.grp).src == st.copyId then t.clearGroupFault st.grp else t)

/-- TVAL of a stream read that finds too little: the bytes that remained before the instruction, whatever it has read of the
stream. (DESIGN CHOICE: assumption 108.) -/
def streamRemains (k : Nat) (s : State) : W64 := w64 ((s.me.stream k).buf.length + (s.me.stream k).toCome)

/-- TVAL of COPY_FAULT at a stream read (R272). -/
def streamFaultWord (k : Nat) (s : State) : W64 :=
  let st := s.me.stream k
  groupWordWith (s.me.group st.grp) st.ecode st.epos

/-- A read of n bytes of stream k. -/
def readStream (k n : Nat) : Act (List Byte) := do
  let t ← getMe
  let st := t.stream k
  if !st.bound then trapFix (fun s => s) causeStreamEnd (streamRemains k)
  else if n ≤ st.buf.length then do
    modMeA (fun t => t.setStream k { st with buf := st.buf.drop n })
    return st.buf.take n
  else if st.buf.length + st.toCome < n then
    (if st.ecode ≠ 0 then trapFix (clearStreamFault k) causeCopyFault (streamFaultWord k)
     else trapFix (fun s => s) causeStreamEnd (streamRemains k))
  else block

/-! ## Ports (R101, R291) -/

/-- The route in front of a channel. -/
def State.chanRoute (s : State) (core chan : Nat) : Option Route :=
  match ((s.core core).chan chan).route with
  | none => none
  | some id => s.routes.find? (fun r => r.id == id)

/-- A route with its words set; a closed route that has delivered everything is gone. -/
def setRouteWords (s : State) (r : Route) (ws : List (Option W64)) (markerGone : Bool) : State :=
  if markerGone && ws.isEmpty then dropRoute s r.id
  else { s with routes := s.routes.map (fun x => if x.id == r.id then { x with words := ws } else x) }

/-- The closing marker in front of channel `chan` of the thread's core is consumed (R291). -/
def consumeMarker (chan : Nat) (s : State) : State :=
  match s.chanRoute (coreOf s.cur) chan with
  | none => s
  | some r => setRouteWords s r (r.words.filter (· != none)) true

/-- A read of port k. A marker behind words that the same instruction has taken is consumed by the trap, which takes
nothing else. (DEDUCED: assumption 29.) -/
def readPort (k : Nat) : Act W64 := do
  let s ← get
  match s.me.port k with
  | .rx chan =>
    match s.chanRoute (coreOf s.cur) chan with
    | none => block
    | some r =>
      match r.words with
      | [] => block
      | some w :: ws => do
        set (setRouteWords s r ws (r.closed && ws.all (· != none)))
        return w
      | none :: _ =>
        trapFix (consumeMarker chan) causePortEnd (fun s => w64 ((s.prt s.me.part).coreIndex r.src))
  | _ => trap causePortUnbound (w64 k)

/-- A write to port k. -/
def writePort (k : Nat) (v : W64) : Act Unit := do
  let s ← get
  match s.me.port k with
  | .tx id => do
    waitFences
    match s.routes.find? (fun r => r.id == id) with
    | none => block
    | some r =>
      let s1 := setRouteWords s r (r.words ++ [some v]) false
      if r.dropped then set (settle s1 r.dst r.chan)
      else if r.words.length < 8 then set s1
      else block
  | _ => trap causePortUnbound (w64 k)

/-! ## Scalar operands (R106, R107) -/

/-- A scalar source as 64 bits; an immediate is converted to the type (R34). -/
def readSrc64 (t : Ty) : Src → Act W64
  | .w r => do return (← getMe).w r.toNat
  | .imm v => return w64 (immVal t v)
  | .g r => do return (← getMe).gReg r.toNat
  | .q r => popQueue r.toNat
  | .s r => do return bytesWord (← readStream r.toNat 8)
  | .n r => readPort r.toNat

/-- A scalar source read at its type: the low bits (R107). -/
def readSrc (t : Ty) (a : Src) : Act Nat := do return (← readSrc64 t a).toNat % 2 ^ tyWidth t

/-- A scalar destination. -/
def writeDst (d : Dst) (v : W64) : Act Unit :=
  match d with
  | .w r => setWA r v
  | .q r => pushQueue r.toNat v
  | .n r => writePort r.toNat v

/-- A typed result, extended to 64 bits (R107). -/
def result64 (t : Ty) (x : Nat) : W64 := w64 (extendTo t 64 x)
def writeResult (t : Ty) (d : Dst) (x : Nat) : Act Unit := writeDst d (result64 t x)

/-- A register or an immediate, the immediate sign-extended. -/
def readWI : WI → Act W64
  | .w r => do return (← getMe).w r.toNat
  | .imm v => return v.signExtend 64
def readWG : WG → Act W64
  | .w r => do return (← getMe).w r.toNat
  | .g r => do return (← getMe).gReg r.toNat

/-! ## Lane operands (R127, R128) -/

/-- A read of the lane file is counted by ZSKIP (R96). (DEDUCED: assumption 26.) -/
def noteReads (ls : Lanes) : Act Unit :=
  modify (fun s => countSkips s (coreOf s.cur) (zerosIn allLanes 0 ls))

/-- The 32 lane words of vector register number r. -/
def readVNum (r : Nat) : Act Lanes := do
  let ls := (← getMe).vreg r
  noteReads ls
  return ls

def readVReg (r : VReg) : Act Lanes := do readVNum ((← getMe).vIdx r)

/-- n consecutive registers from number r on. -/
def readGroup (r : Nat) : Nat → Act (List Lanes)
  | 0 => return []
  | n + 1 => do
    let x ← readVNum r
    let rest ← readGroup (r + 1) n
    return x :: rest

/-- A stream element as 32 lane words. (DEDUCED: assumption 23.) -/
def readStreamLanes (k : Nat) : Act Lanes := do return bytesLanes 32 (← readStream k 128)

def readVV : VV → Act Lanes
  | .reg r => readVReg r
  | .s r => readStreamLanes r.toNat

/-- A scalar operand of a lane instruction: one value for every lane, but for a stream, which gives a lane each
(R35, R127). -/
def readScLanes (t : Ty) : Src → Act (List Nat)
  | .s r => do return (← readStreamLanes r.toNat).map (fun w => w.toNat % 2 ^ tyWidth t)
  | a => do return List.replicate 32 (← readSrc t a)

/-- A lane source: 32 elements of the type's width. -/
def readLanes (t : Ty) : VSrc → Act (List Nat)
  | .reg r => do return (← readVReg r).map (fun w => w.toNat % 2 ^ tyWidth t)
  | .sc a => readScLanes t a

/-- A typed result in a lane (R127). -/
def laneWord (t : Ty) (x : Nat) : W32 := w32 (extendTo t 32 x)

/-- The lanes of a mask of register number r, written; zeros are counted by ZSKIP (R96). -/
def writeVNum (r : Nat) (g : W32) (ls : Lanes) : Act Unit := do
  modify (fun s => countSkips s (coreOf s.cur) (zerosIn g 0 ls))
  modMeA (fun t => setLanes t r g 0 ls)

def writeVReg (d : VReg) (g : W32) (ls : Lanes) : Act Unit := do writeVNum ((← getMe).vIdx d) g ls

/-- Consecutive registers written. -/
def writeGroup (r : Nat) (g : W32) : List Lanes → Act Unit
  | [] => return ()
  | ls :: rest => do
    writeVNum r g ls
    writeGroup (r + 1) g rest

/-- Lane results written, extended by their type. -/
def writeLanes (t : Ty) (d : VReg) (g : W32) (xs : List Nat) : Act Unit := writeVReg d g (xs.map (laneWord t))

/-- The flags of the executing lanes, combined. -/
def maskFlags (g : W32) : Nat → List Fl → Fl
  | _, [] => 0#7
  | i, f :: fs => (if g.getLsbD i then f else 0#7) ||| maskFlags g (i + 1) fs

/-- A result with its flags in each lane, written where the guard passes; suppressed lanes raise nothing (R41). -/
def writeLanesFl (t : Ty) (d : VReg) (g : W32) (xs : List (Nat × Fl)) : Act Unit := do
  writeLanes t d g (xs.map (·.1))
  raiseA (maskFlags g 0 (xs.map (·.2)))

end Sys2Proof.Machine
end

