-- ==== Sys2Proof/Machine/Space.lean ====
section
/-!
DEFINITION. The homed address spaces: the scratchpad's placement (R147 to R151), the translation of device memory
and its frames (R152 to R157), a byte's place in the package, and what a home does with the bytes of one access
(R155, R156, R180 to R183).

A byte of DRAM has the key (64·die + channel)·2^31 + offset in the channel; a byte of SRAM has the key
2^39 + slice·2^20 + offset in the slice.
-/
namespace Sys2Proof.Machine

open Sys2Proof

/-! ## The scratchpad -/

/-- The SWZ code of an SP address: the lowest-numbered region that holds it (R149). -/
def swzOf (p : Part) (a : Nat) : Nat → Nat → Nat
  | 0, _ => 0
  | n + 1, k =>
    let r := p.cfReg k
    let base := fieldOf r 12 20 * 4096
    let size := fieldOf r 32 20 * 4096
    if base ≤ a ∧ a < base + size then fieldOf r 52 3 else swzOf p a n (k + 1)

/-- R149: an offset in a granule, moved to its physical bank. Bytes stay where they were stored, so that after a change of
SWZ a read at bank b returns what the old entry stored at bank b XOR f_new XOR f_old (R151). (DEDUCED: assumption 86.) -/
def swizzle (swz o : Nat) : Nat :=
  if 1 ≤ swz ∧ swz ≤ 6 then
    let bank := o / 16 % 32
    let row := o / 512
    row * 512 + (bank ^^^ (row * (2 ^ (swz + 3) / 16) % 32)) * 16 + o % 16
  else o

/-- R147: the home of an SP address and the address's byte in its slice; `none` at or beyond the partition's SP. -/
def spPlace (s : State) (pt : Part) (a : Nat) : Option (Nat × Nat) :=
  let ds := s.spDies pt
  if a < s.spSize pt then
    let g := a / 4096
    let die := ds.getD (g % ds.length) 0
    let c := g / ds.length % 64
    let j := g / (64 * ds.length)
    let off := 4096 * (SMap.get 0 pt.spbase die + j) + swizzle (swzOf pt a 64 0) (a % 4096)
    some (64 * die + c, 2 ^ 39 + (64 * die + c) * 2 ^ 20 + off)
  else none

def spKey (s : State) (pt : Part) (a : Nat) : Nat := ((spPlace s pt a).getD (0, 0)).2

/-! ## Device memory -/

/-- What a page table entry says of a byte address (R152, R154). -/
def pteLoc (pte : W64) (va : Nat) : DmLoc :=
  let attr : BitVec 2 := pte.extractLsb' 61 2
  let frame := fieldOf pte 0 16
  { va := va
    attr := attr
    wr := bitOf pte 60
    keyid := fieldOf pte 53 6
    die := fieldOf pte 51 2
    chan := if attr = 0#2 then (frame * 17 + va / 4096 % 512) % 64 else fieldOf pte 45 6
    frame := frame }

/-- The home of a place in DM. -/
def DmLoc.home (l : DmLoc) : Nat := 64 * l.die + l.chan
/-- The offset in the page. -/
def DmLoc.off (l : DmLoc) : Nat := l.va % 2 ^ 21
/-- The page's frame in its channel: byte 0 (R152). -/
def chanFrame (die chan frame : Nat) : Nat := (64 * die + chan) * 2 ^ 31 + frame * 2 ^ 21

/-- The key of a byte of DM. A die frame's 512 granules lie eight to a channel, in ascending order.
(DESIGN CHOICE: assumption 16; the place of a granule, DEDUCED: assumption 79.) -/
def DmLoc.key (l : DmLoc) : Nat :=
  if l.attr = 0#2 then l.home * 2 ^ 31 + 32768 * l.frame + 4096 * (l.off / 4096 / 64) + l.off % 4096
  else chanFrame l.die l.chan l.frame + l.off

/-- The owner that Shuone recorded for the frame of a translation (R153). -/
def ownerOf (s : State) (l : DmLoc) : Owner :=
  if l.attr = 0#2 then SMap.get Owner.nobody s.blockOwner (l.die * 1024 + l.frame / 64)
  else if l.frame < 1024 then SMap.get Owner.nobody s.chanOwner (l.home * 1024 + l.frame)
  else .nobody

/-- R153: whether the home lets a partition use the frame. -/
def frameOk (s : State) (p : Nat) (l : DmLoc) : Bool :=
  match ownerOf s l with
  | .nobody => false
  | .part q => l.keyid == 0 && q == p
  | .key k => l.keyid == k && k != 0 && (SMap.get [] s.keys k).contains p

/-- The lines of a span of bytes. -/
def linesOf (start len : Nat) : List Nat :=
  if len = 0 then [] else (List.range ((start + len - 1) / 64 - start / 64 + 1)).map (fun i => start / 64 + i)

/-- Whether a span holds uncorrectable data. -/
def spanBad (s : State) (h start len : Nat) : Bool :=
  (linesOf start len).any (fun l =>
    (s.home (homeEp h)).poisoned.contains l || SMap.get 0 (s.home (homeEp h)).ecc l == 2)

/-- What a read of the translation tables comes to: a valid entry, none, or uncorrectable data. -/
inductive Walked where
  | entry (e : W64)
  | absent
  | poison
  deriving DecidableEq, Repr

/-- A table entry of a frame that the partition owns (R152, R153). A walk enters no bank's queue. (DESIGN CHOICE: assumption
7.) -/
def tableEntry (s : State) (p die chan frame idx : Nat) : Walked :=
  let k := chanFrame die chan frame + 8 * idx
  if frame < 1024 ∧ SMap.get Owner.nobody s.chanOwner ((64 * die + chan) * 1024 + frame) = .part p then
    if spanBad s (64 * die + chan) k 8 then .poison
    else if bitOf (bytesWord (s.mem.readN k 8)) 63 then .entry (bytesWord (s.mem.readN k 8))
    else .absent
  else .absent

/-- A walk through both levels (R152). -/
def walkTables (s : State) (p page : Nat) : Walked :=
  let root := (s.prt p).cfReg 0x41
  match tableEntry s p (fieldOf root 51 2) (fieldOf root 45 6) (fieldOf root 0 10) (page / 8192) with
  | .entry e1 => tableEntry s p (fieldOf e1 51 2) (fieldOf e1 45 6) (fieldOf e1 0 16) (page % 8192)
  | w => w

/-- A walk (R152): the level-2 entry of a page, if it is valid. -/
def walkPage (s : State) (p page : Nat) : Option W64 :=
  match walkTables s p page with
  | .entry e => some e
  | _ => none

/-- Whether a walk meets uncorrectable data (R182). (DEDUCED: assumption 85.) -/
def walkBad (s : State) (p page : Nat) : Bool := walkTables s p page == .poison

/-! ## Translation buffers (R157) -/

/-- The cluster of a tile, and the number of its buffer in `State.tlbs`. -/
def clusterAt (x y : Nat) : Nat := y / 4 * 8 + x / 4
def clusterBuf (x y : Nat) : Nat := 2000 + clusterAt x y
/-- The buffers that serve a core: its own, and its cluster's. -/
def coreBufs (c : Nat) : Nat × Nat := (c, clusterBuf (coreX c) (coreY c))
/-- The router of a copy engine (R14): engine k of die d sits in cluster column pair k. -/
def engineBufs (e : Nat) : Nat × Nat :=
  let d := e / 8
  let cl := 2 * (e % 8)
  (engineEp e, clusterBuf (16 * (d % 2) + 4 * (cl % 4)) (16 * (d / 2) + 4 * (cl / 4)))

def bufEntry (s : State) (b p page : Nat) : Option W64 :=
  ((SMap.get [] s.tlbs b).find? (fun e => e.part == p && e.page == page)).map (·.pte)

/-- A translation held in one of two buffers. -/
def heldPte (s : State) (b : Nat × Nat) (p page : Nat) : Option W64 :=
  match bufEntry s b.1 p page with
  | some e => some e
  | none => bufEntry s b.2 p page

/-- A buffer takes an entry; the oldest leaves when it is full. (DEDUCED: assumption 84.) -/
def bufInsert (s : State) (b cap : Nat) (e : TlbEntry) : State :=
  { s with tlbs := SMap.set [] s.tlbs b ((e :: (SMap.get [] s.tlbs b)).take cap) }

/-- Both buffers take a walked entry. -/
def holdPte (s : State) (b : Nat × Nat) (p page : Nat) (pte : W64) : State :=
  bufInsert (bufInsert s b.1 64 ⟨p, page, pte⟩) b.2 1024 ⟨p, page, pte⟩

/-- A translation as an agent of the device gets it: from its buffers, or by a walk, which fills them. -/
def lookupOrWalk (s : State) (b : Nat × Nat) (p va : Nat) : Option (DmLoc × State) :=
  if 2 ^ 48 ≤ va then none
  else
    match heldPte s b p (va / 2 ^ 21) with
    | some e => some (pteLoc e va, s)
    | none =>
      match walkPage s p (va / 2 ^ 21) with
      | some e => some (pteLoc e va, holdPte s b p (va / 2 ^ 21) e)
      | none => none

/-! ## SPARSE pages (R155) -/

def DmLoc.frameBase (l : DmLoc) : Nat := chanFrame l.die l.chan l.frame
def sparseLimit : Nat := 1966080

/-- The number of set bits below bit e. -/
def rankBelow (bm e : Nat) : Nat := (List.range e).foldl (fun n i => if bm.testBit i then n + 1 else n) 0

def sparseBitmap (m : Memory) (base b : Nat) : Nat := leNat (m.readN (base + 8 * b) 8)

/-- The 128 expanded bytes of a block. -/
def expandBlock (m : Memory) (base b : Nat) : List Byte :=
  let bm := sparseBitmap m base b
  (List.range 64).flatMap (fun e =>
    if bm.testBit e then m.readN (base + 131072 + 128 * b + 2 * rankBelow bm e) 2 else [0#8, 0#8])

/-- The elements of 128 bytes, as pairs of bytes. -/
def blockElems (bs : List Byte) : List (List Byte) := (List.range 64).map (fun e => (bs.drop (2 * e)).take 2)

/-- Bitmap and packed values of an expanded block. -/
def compressBlock (bs : List Byte) : Nat × List Byte :=
  let es := blockElems bs
  ((List.range 64).foldl (fun n e => if leNat (es.getD e []) = 0 then n else n + 2 ^ e) 0,
   (es.filter (fun x => leNat x != 0)).flatten)

/-! ## Lines: poison, the undo log (R180 to R183) -/

/-- n free bytes. -/
def drawBytes (s : State) (n : Nat) : List Byte × State :=
  ((List.range n).map (fun i => Config.freeByte (s.freeCtr + i)), { s with freeCtr := s.freeCtr + n })

def logCnt (p : Part) : Nat := fieldOf p.ckptEff 32 10
def logFrame (p : Part) : Nat := fieldOf p.ckptEff 0 10
def wLimit (p : Part) : Nat := fieldOf p.ckptEff 48 16

/-- What a patrol finds at a line (R182): a single-bit error is corrected, an uncorrectable one poisons the line. -/
def patrolLine (h : Home) (line : Nat) : Home :=
  match SMap.get 0 h.ecc line with
  | 0 => h
  | 1 => { h with ecc := SMap.set 0 h.ecc line 0 }
  | _ => { h with ecc := SMap.set 0 h.ecc line 0, poisoned := if h.poisoned.contains line then h.poisoned else line :: h.poisoned }

/-- The first write to a line in an interval appends an entry of 128 bytes (R180): the old content, then the address;
the append patrols the line (R183), and keeps whether it was uncorrectable (R182). (DESIGN CHOICE: assumptions 87 and
131.) -/
def logLine (s : State) (h p line : Nat) : State :=
  let hm := s.home (homeEp h)
  let lg := hm.log p
  if logCnt (s.prt p) = 0 then s
  else if lg.any (fun e => e.line == line) then s
  else
    let place := h * 2 ^ 31 + (logFrame (s.prt p) + lg.length / 16384) * 2 ^ 21 + lg.length % 16384 * 128
    let old := s.mem.readN (line * 64) 64
    let hm1 := patrolLine (hm.setLog p (lg ++ [⟨line, old, spanBad s h (line * 64) 64⟩])) line
    let s1 := s.setHome (homeEp h) { hm1 with logged := if hm1.logged.contains line then hm1.logged else line :: hm1.logged }
    let d := drawBytes s1 56
    { d.2 with mem := d.2.mem.writeN place (old ++ leBytes 8 (line * 64) ++ d.1) }

/-- The partitions whose DM a page belongs to: its own, or all that its shared key admits (R340, R362). -/
def logParts (s : State) (p : Nat) (l : DmLoc) : List Nat := if l.keyid = 0 then [p] else SMap.get [] s.keys l.keyid

def logLines (s : State) (h : Nat) (ps ls : List Nat) : State :=
  ps.foldl (fun s p => ls.foldl (fun s l => logLine s h p l) s) s

/-- A close of the interval (R181, R184): every home discards its log, and CKPTCFG takes effect. -/
def closeInterval (s : State) (p : Nat) (auto : Bool) : State :=
  let s1 := { s with homes := s.homes.map (fun (h : Nat × Home) => (h.1, h.2.setLog p [])) }
  s1.modPart p (fun q => { q with
    interval := q.interval + 1#32
    autoclose := if auto then q.autoclose + 1#16 else q.autoclose
    ckptEff := q.cfReg 0x60 })

/-- R181: a log that has reached WLIMIT, or seven-eighths of its capacity, closes the interval. -/
def closeIfFull (s : State) (h p : Nat) : State :=
  let n := ((s.home (homeEp h)).log p).length
  let q := s.prt p
  if logCnt q ≠ 0 ∧ ((wLimit q ≠ 0 ∧ wLimit q * 1024 ≤ n) ∨ 7 * (logCnt q * 16384) ≤ 8 * n) then closeInterval s p true
  else s

def closeFull (s : State) (h : Nat) (ps : List Nat) : State := ps.foldl (fun s p => closeIfFull s h p) s

/-- R182: a store that covers all 64 bytes of a poisoned line clears the mark. -/
def clearPoison (s : State) (h start len : Nat) : State :=
  s.modHome (homeEp h) (fun hm => { hm with
    poisoned := hm.poisoned.filter (fun l => !(decide (start ≤ l * 64) && decide (l * 64 + 64 ≤ start + len)))
    ecc := hm.ecc.filter (fun e => !(decide (start ≤ e.1 * 64) && decide (e.1 * 64 + 64 ≤ start + len))) })

/-- A line marked as poisoned (R182). -/
def markPoison (s : State) (h line : Nat) : State :=
  s.modHome (homeEp h) (fun hm => { hm with poisoned := if hm.poisoned.contains line then hm.poisoned else line :: hm.poisoned })

/-! ## Requests for DRAM (R178) -/

/-- A request whose line is not in the line cache waits for DRAM. Whether it is there, and how many channel cycles
have passed, are free values. (DESIGN CHOICE: assumption 7.) -/
def noteDram (s : State) (h line : Nat) (tag : W32) : State :=
  let d := drawNat s
  let v := Config.freeWord d.1
  d.2.modHome (homeEp h) (fun hm =>
    let t := hm.now + v.toNat / 2
    { hm with now := t, dram := if bitOf v 0 then
        hm.dram ++ [⟨Config.lineBank line, Config.lineRow line, t, tag, line⟩] else hm.dram })

/-- Every line of some spans is requested, unless it is cached. -/
def noteSpans (s : State) (h : Nat) (spans : List (Nat × Nat)) (tag : W32) : State :=
  (spans.flatMap (fun x => linesOf x.1 x.2)).foldl (fun s line => noteDram s h line tag) s

/-! ## One access at its home -/

/-- Bytes at a place with some replaced. -/
def overlay : List Byte → List (Option Byte) → List Byte
  | _ :: bs, some x :: xs => x :: overlay bs xs
  | b :: bs, none :: xs => b :: overlay bs xs
  | bs, _ => bs

/-- Bytes written where they are given. -/
def writeSome (m : Memory) (a : Nat) : List (Option Byte) → Memory
  | [] => m
  | some b :: bs => writeSome (m.write a b) (a + 1) bs
  | none :: bs => writeSome m (a + 1) bs

/-- The home of a place. -/
def locHome (s : State) (p : Nat) : Loc → Nat
  | .dm l => l.home
  | .sp a => ((spPlace s (s.prt p) a).getD (0, 0)).1

/-- The SPARSE blocks that n bytes touch. -/
def blocksOf (l : DmLoc) (n : Nat) : List Nat :=
  (List.range ((l.off % 128 + n + 127) / 128)).map (fun i => l.off / 128 + i)

/-- The spans of DRAM that an access of n bytes reads: two for a SPARSE block. -/
def readSpans (s : State) (l : DmLoc) (n : Nat) : List (Nat × Nat) :=
  if l.attr = 2#2 then
    (blocksOf l n).flatMap (fun b =>
      [(l.frameBase + 8 * b, 8), (l.frameBase + 131072 + 128 * b, 2 * rankBelow (sparseBitmap s.mem l.frameBase b) 64)])
  else [(l.key, n)]

/-- Whether an access meets uncorrectable data. -/
def locBad (s : State) (loc : Loc) (n : Nat) : Bool :=
  match loc with
  | .sp _ => false
  | .dm l => (readSpans s l n).any (fun x => spanBad s l.home x.1 x.2)

/-- Whether an offset of a VERSIONED page holds nothing (R156). -/
def inHole (o : Nat) : Bool := decide (63488 ≤ o) && decide (o < 65536)

/-- The bytes of a VERSIONED page from offset o on: those that it does not hold read as 0 (R156). -/
def blankHole : Nat → List Byte → List Byte
  | _, [] => []
  | o, b :: bs => (if inHole o then 0#8 else b) :: blankHole (o + 1) bs

/-- The bytes of a load (R147, R155, R156). -/
def readLoc (s : State) (p : Nat) (loc : Loc) (n : Nat) : List Byte :=
  match loc with
  | .sp a => (List.range n).map (fun i => s.mem.read (spKey s (s.prt p) (a + i)))
  | .dm l =>
    if l.attr = 2#2 then (((blocksOf l n).flatMap (expandBlock s.mem l.frameBase)).drop (l.off % 128)).take n
    else if l.attr = 3#2 then blankHole l.off (s.mem.readN l.key n)
    else s.mem.readN l.key n

/-- SP bytes written, one place each. -/
def writeSp (s : State) (pt : Part) (a : Nat) : List (Option Byte) → State
  | [] => s
  | some b :: bs => writeSp { s with mem := s.mem.write (spKey s pt a) b } pt (a + 1) bs
  | none :: bs => writeSp s pt (a + 1) bs

/-- The part of a write's data that lies in a line. -/
def lineData (start : Nat) (data : List (Option Byte)) (line : Nat) : List (Option Byte) :=
  (data.drop (64 * line - start)).take (64 * line + 64 - max start (64 * line))

/-- The lines of which a write gives a byte, and those of which it gives all 64. -/
def writtenLines (start : Nat) (data : List (Option Byte)) : List Nat :=
  (linesOf start data.length).filter (fun l => (lineData start data l).any Option.isSome)
def coveredLines (start : Nat) (data : List (Option Byte)) : List Nat :=
  (linesOf start data.length).filter (fun l =>
    (lineData start data l).length == 64 && (lineData start data l).all Option.isSome)

/-- A span of one channel written: the lines written are logged for the partitions concerned, the bytes are written, and
lines that are written whole lose their poison (R180, R182). -/
def writeSpan (s : State) (h : Nat) (ps : List Nat) (start : Nat) (data : List (Option Byte)) : State :=
  let s1 := logLines s h ps (writtenLines start data)
  let s2 := { s1 with mem := writeSome s1.mem start data }
  (coveredLines start data).foldl (fun s l => clearPoison s h (64 * l) 64) s2

/-- Data for a VERSIONED page from offset o on: what its hole is given is ignored (R156). -/
def dropHole : Nat → List (Option Byte) → List (Option Byte)
  | _, [] => []
  | o, b :: bs => (if inHole o then none else b) :: dropHole (o + 1) bs

/-- The block b of a SPARSE page with some of its expanded bytes replaced: bitmap and values are written (R155). -/
def writeBlock (s : State) (ps : List Nat) (l : DmLoc) (b off : Nat) (data : List (Option Byte)) : State :=
  let old := expandBlock s.mem l.frameBase b
  let c := compressBlock (old.take off ++ overlay (old.drop off) data)
  let s1 := writeSpan s l.home ps (l.frameBase + 8 * b) ((leBytes 8 c.1).map some)
  writeSpan s1 l.home ps (l.frameBase + 131072 + 128 * b) (c.2.map some)

/-- Data from an offset of a SPARSE page on, written block by block. -/
def writeBlocks (s : State) (ps : List Nat) (l : DmLoc) (data : List (Option Byte)) : State :=
  (blocksOf l data.length).foldl (fun s b =>
    writeBlock s ps l b (l.off - 128 * b) ((data.drop (128 * b - l.off)).take (128 - (l.off - 128 * b)))) s

/-- What a page takes of a write's data. -/
def dmData (l : DmLoc) (data : List (Option Byte)) : List (Option Byte) :=
  if l.attr = 3#2 then dropHole l.off data else data

/-- DM written at its home, part of a step that ends with `closeDm` (R155, R156, R180). -/
def writeDm (s : State) (p : Nat) (l : DmLoc) (data : List (Option Byte)) : State :=
  if l.attr = 2#2 then writeBlocks s (logParts s p l) l data
  else writeSpan s l.home (logParts s p l) l.key (dmData l data)

/-- The end of a step that has written DM: a log that is full closes the interval (R181). -/
def closeDm (s : State) (p : Nat) (l : DmLoc) : State := closeFull s l.home (logParts s p l)

/-- A store performed (R155, R156, R180). -/
def writeLoc (s : State) (p : Nat) (loc : Loc) (data : List (Option Byte)) : State :=
  match loc with
  | .sp a => writeSp s (s.prt p) a data
  | .dm l => if (dmData l data).all (· == none) then s else closeDm (writeDm s p l data) p l

/-! ## Atomics (R160, R161) -/

/-- The bytes that an atomic reads and writes. -/
def atBytes : AtOp → Nat
  | .addI32 | .swapB32 | .casB32 | .faddF32 => 4
  | _ => 8

/-- fix(b) of R160: FP32 · 2^32 as an integer. -/
def fixOf (b : Nat) : Int × Fl :=
  let lo : Int := -(2 ^ 63 : Nat)
  let hi : Int := (2 ^ 63 : Nat) - 1
  match fdec fmtF32 b with
  | .nan => (0, flIV)
  | .inf n => (if n then lo else hi, flIV)
  | .fin n m e =>
    let c := cutTo 0#2 n m (e + 32) 0
    let x := signedMag n c.1
    if x < lo then (lo, flIV) else if hi < x then (hi, flIV) else (x, if c.2 then flNX else 0#7)

/-- The new value of an atomic, and the flags the home raises; `old`, `b` and `cmp` are read at the operation's
width. -/
def atomicNew (op : AtOp) (old b cmp : Nat) : Nat × Fl :=
  match op with
  | .addI64 => ((old + b) % 2 ^ 64, 0#7)
  | .addI32 => ((old + b) % 2 ^ 32, 0#7)
  | .addfx =>
    let f := fixOf (b % 2 ^ 32)
    (wrapInt 64 ((old : Int) + f.1), f.2)
  | .minI64 => (if toSigned 64 old ≤ toSigned 64 b then old else b, 0#7)
  | .maxI64 => (if toSigned 64 old ≤ toSigned 64 b then b else old, 0#7)
  | .minB64 => (min old b, 0#7)
  | .maxB64 => (max old b, 0#7)
  | .andB64 => (old &&& b, 0#7)
  | .orB64 => (old ||| b, 0#7)
  | .xorB64 => (old ^^^ b, 0#7)
  | .swapB64 => (b, 0#7)
  | .swapB32 => (b, 0#7)
  | .casB64 => (if old = cmp then b else old, 0#7)
  | .casB32 => (if old = cmp then b else old, 0#7)
  | .faddF32 => fAdd fmtF32 old b
  | .faddF56 => fAdd fmtF56 (old % 2 ^ 56) (b % 2 ^ 56)

/-- The old value as `wd` receives it (R160). -/
def atomicOld (op : AtOp) (old : Nat) : W64 :=
  match op with
  | .addI32 => w64 (sextNat 32 64 old)
  | _ => w64 old

/-- An atomic performed on bytes: the old value for the destination, the new bytes, the flags. -/
def atomicStep (op : AtOp) (bs : List Byte) (b cmp : W64) : W64 × List Byte × Fl :=
  let old := leNat bs
  let w := 2 ^ (8 * atBytes op)
  let r := atomicNew op old (b.toNat % w) (cmp.toNat % w)
  (atomicOld op old, leBytes (atBytes op) r.1, r.2)

/-! ## Whole rows (R156, R163, R164) -/

/-- The key of a row's version word: 8 bytes at offset 8r of the page. -/
def rowVersionKey (l : DmLoc) : Nat := l.frameBase + 8 * ((l.off - 65536) / 256)

/-- The bytes of one element. -/
def rowElemBytes : Ty → Nat
  | .bf16 => 2
  | _ => 4

/-- One element of `rowadd` (R163). -/
def rowElem (t : Ty) (a b : Nat) : Nat × Fl :=
  match t with
  | .bf16 => fAdd fmtBf16 a b
  | .f32 => fAdd fmtF32 a b
  | _ => ((a + b) % 2 ^ 32, 0#7)

/-- Lane k of a register pair as added to 4 bytes of the row. -/
def rowWord (t : Ty) (old add : Nat) : Nat × Fl :=
  match t with
  | .bf16 =>
    let lo := rowElem t (old % 2 ^ 16) (add % 2 ^ 16)
    let hi := rowElem t (old / 2 ^ 16) (add / 2 ^ 16)
    (lo.1 + 2 ^ 16 * hi.1, lo.2 ||| hi.2)
  | _ => rowElem t old add

/-- The 64 words of a row, word k governed by guard bit k mod 32. -/
def rowAddWords (t : Ty) (mask : W32) (old add : List W32) : List (Option W32 × Fl) :=
  (List.range 64).map (fun k =>
    if mask.getLsbD (k % 32) then
      let r := rowWord t (old.getD k 0#32).toNat (add.getD k 0#32).toNat
      (some (w32 r.1), r.2)
    else (none, 0#7))

/-- Words to be written, as bytes. -/
def optWordBytes : List (Option W32) → List (Option Byte)
  | [] => []
  | some w :: ws => (leBytes 4 w.toNat).map some ++ optWordBytes ws
  | none :: ws => [none, none, none, none] ++ optWordBytes ws

/-- `rowadd` performed: the row and its version in one step. -/
def performRowadd (s : State) (p : Nat) (l : DmLoc) (t : Ty) (mask : W32) (add : List W32) : State × Fl :=
  let r := rowAddWords t mask (bytesLanes 64 (s.mem.readN l.key 256)) add
  let ver := bytesWord (s.mem.readN (rowVersionKey l) 8) + 1#64
  let ps := logParts s p l
  let s1 := writeSpan s l.home ps l.key (optWordBytes (r.map (·.1)))
  let s2 := writeSpan s1 l.home ps (rowVersionKey l) ((wordBytes ver).map some)
  (closeFull s2 l.home ps, r.foldl (fun f x => f ||| x.2) 0#7)

end Sys2Proof.Machine
end

