-- ==== Sys2Proof/Machine/Send.lean ====
section
/-!
DEFINITION. What an instruction does to reach beyond its core: translation (R157, R158), the waits of release, acquire
and of record sending (R82, R217, R298), the sending of a message (R77, R79, R284), and the hold buffer of a
speculative region (R294, R295).
-/
namespace Sys2Proof.Machine

open Sys2Proof

/-! ## Sending -/

/-- A message of the executing thread. -/
def State.mkMsg (s : State) (path : Path) (dst tok : Nat) (req : Req) : Msg where
  src := coreOf s.cur
  dst := dst
  seq := 0
  path := path
  part := s.me.part
  thr := s.cur
  task := s.me.task
  tag := (s.me.gReg 10).setWidth 32
  tok := tok
  req := req
  loc := none
  age := s.me.retired

/-- A message with the translation of the address that it names (R176). -/
def Msg.at (m : Msg) : Loc → Msg
  | .dm l => { m with loc := some l }
  | .sp _ => m

/-- The key of a pair of endpoints in `seqOut` and `seqIn`. -/
def pairKey (src dst : Nat) : Nat := src * 2048 + dst

/-- A message leaves its endpoint, numbered (R284). (DEDUCED: assumption 17.) -/
def State.inject (s : State) (m : Msg) : State :=
  let n := SMap.get 0 s.seqOut (pairKey m.src m.dst)
  { s with net := s.net ++ [{ m with seq := n }], seqOut := SMap.set 0 s.seqOut (pairKey m.src m.dst) (n + 1) }

/-- NB and AM accesses are handed to the home's local port; every other message enters the network (R77). -/
def State.post (s : State) (m : Msg) : State :=
  match m.path with
  | .nb | .am => s.modHome m.dst (fun h => { h with local_ := h.local_ ++ [m] })
  | _ => s.inject m

/-! ## The waits before a message leaves -/

/-- Whether whole-row operations of a task on one row are still to be performed (R85). -/
def State.pendingRow (s : State) (task : W64) (key : Nat) : Bool :=
  s.inFlight.any (fun m => m.task == task && m.part == s.me.part && (match m.req with
    | .rowadd (.dm l) _ _ _ => l.key == key
    | .rowld (.dm l) _ => l.key == key
    | _ => false))

/-- Whether a message was sent from another core than c and has not arrived: a record whose refusal is on its way back
counts with the core that sends it again. -/
def leftBehind (c : Nat) (m : Msg) : Bool :=
  match m.req with
  | .recordRefused _ _ _ => m.dst != c
  | r => m.src != c && !isReply r

/-- R298: after a move, nothing is sent before everything sent from the old core has arrived. -/
def State.moveDrained (s : State) (t : Nat) : Bool :=
  !(s.thr t).moved ||
  !s.inFlight.any (fun m => m.task == (s.thr t).task && m.part == (s.thr t).part && leftBehind (coreOf t) m)

/-- Whether an owed reply acquires for every path: it may bring a grant (R210, R226), or the status of a pre-emption
(R344). -/
def Fill.everyPath : Fill → Bool
  | .recd _ | .status _ => true
  | _ => false

/-- Whether an owed reply is an acquire for a path: of its own path (R82), or of every path. -/
def Owed.acquires (o : Owed) (p : Path) : Bool := o.acq && (o.path == p || o.fill.everyPath)

/-- Whether no acquire and no fence holds an access of thread t on a path back (R82, R84). -/
def State.accessOpen (s : State) (t : Nat) (p : Path) : Bool :=
  !(s.thr t).owed.any (fun o => o.acquires p) && s.fencesOver t [p]

/-- Whether the thread may send an access on a path now. -/
def State.pathOpen (s : State) (t : Nat) (p : Path) : Bool := s.accessOpen t p && s.moveDrained t

/-- The waits before an access leaves: acquires and fences of its path, a move, and for a release every earlier access of
the path, at every scope. (DEDUCED: assumption 19.) -/
def waitSend (p : Path) (rel : Bool) : Act Unit := do
  let s ← get
  if s.pathOpen s.cur p && !(rel && s.pending s.me.task [p]) then return ()
  else block

/-- Whether what R217 waits for is still to come; a fence hands its order on to what the message starts (R209). -/
def State.recordWaits (s : State) : Bool :=
  s.pending s.me.task [.ls, .nb, .am] || !s.fencesOver s.cur allPaths

/-- The wait of R217. -/
def waitRecord : Act Unit := do
  let s ← get
  if s.recordWaits then block else return ()

/-- The wait of an access that no message carries: a copy, a slot request. -/
def waitAccess (p : Path) : Act Unit := do
  let s ← get
  if s.accessOpen s.cur p then return () else block

/-- The wait of a message that is no access (R281, R286). -/
def waitMove : Act Unit := do
  let s ← get
  if s.moveDrained s.cur then return () else block

/-! ## The hold buffer (R294, R295) -/

/-- Hold entries in use on a core. -/
def State.heldOn (s : State) (c : Nat) : Nat :=
  (s.coreThreads c).foldl (fun n t => n + (s.thr t).held.length) 0

/-- HELD of SPECST: the thread's own. -/
def heldWord (s : State) : W64 := w64 s.me.held.length

/-- A message held, or SPEC_OVERFLOW. -/
def holdA (h : Held) : Act Unit := do
  let s ← get
  if 64 ≤ s.heldOn (coreOf s.cur) then trap causeSpecOverflow (heldWord s)
  else modMeA (fun t => { t with held := t.held ++ [h] })

/-- Spaces of the hold buffer's bytes. -/
def spaceDm : Nat := 0
def spaceSp : Nat := 1
def spaceHm : Nat := 2
def spacePm (port : Nat) : Nat := 8 + port

/-- A message sent, or held inside a region. `rel` is a wait that a held message makes when it is released. -/
def sendOrHold (m : Msg) (rel record : Bool) (space addr : Nat) (data : List (Option Byte)) : Act Unit := do
  let s ← get
  if s.me.specOn then holdA ⟨[m], rel, record, space, addr, data⟩
  else modify (fun s => s.post m)

/-- The byte that the youngest held store of the thread gives an address. -/
def heldByte (hs : List Held) (space a : Nat) : Option Byte :=
  hs.foldl (fun acc h =>
    if h.space == space && decide (h.addr ≤ a) then
      match h.data.getD (a - h.addr) none with
      | some b => some b
      | none => acc
    else acc) none

def heldBytes (t : Thread) (space a n : Nat) : List (Option Byte) :=
  (List.range n).map (fun i => heldByte t.held space (a + i))

/-! ## Owed replies (R97) -/

/-- A new number. -/
def freshA : Act Nat := do
  let s ← get
  let f := s.fresh
  set f.2
  return f.1

/-- The thread owes itself a reply. -/
def owe (o : Owed) : Act Unit := modMeA (fun t => { t with owed := t.owed ++ [o] })

/-! ## Checks of R158 -/

/-- Check 1. -/
def checkAlign (a n : Nat) : Act Unit := if a % n = 0 then return () else trap causeMisaligned (w64 a)

/-- Check 2 for DM: the translation of a byte address, from the buffers of the core, or after a walk. A walk that met
uncorrectable data raises MEM_POISON at the boundary before the instruction. (DEDUCED: assumption 85.) -/
def translateDm (va : Nat) : Act DmLoc := do
  let s ← get
  if 2 ^ 48 ≤ va then trap causePageFaultDm (w64 va)
  else match heldPte s (coreBufs (coreOf s.cur)) s.me.part (va / 2 ^ 21) with
    | some e =>
      let l := pteLoc e va
      if l.attr = 2#2 ∧ sparseLimit ≤ l.off then trap causePageFaultDm (w64 va) else return l
    | none =>
      if s.me.wait = .walkFault (va / 2 ^ 21) then trap causePageFaultDm (w64 va)
      else if s.me.wait = .walkPoison (va / 2 ^ 21) then
        blockWith (fun s => s.modMe (fun t => { t with wait := .none, async := t.async ++ [(causeMemPoison, w64 va)] }))
      else blockWait (.walk (va / 2 ^ 21))

/-- What an access does to a page, for checks 3 and 4. -/
inductive DmUse where
  | load | store | atomic | rowadd | rowld
  deriving DecidableEq, Repr

def DmUse.writes : DmUse → Bool
  | .load | .rowld => false
  | _ => true

/-- Whether the attribute refuses the use (R154, R162). -/
def attrBad (u : DmUse) (l : DmLoc) : Bool :=
  match u with
  | .load | .store => false
  | .atomic => l.attr == 2#2
  | .rowadd | .rowld => l.attr != 3#2 || decide (l.off < 65536)

/-- Whether an access of the thread to a home travels without entering the network: NB, or AM for a handler (R143). -/
def State.pathTo (s : State) (home : Nat) : Path :=
  match s.me.kind with
  | .handler => .am
  | _ => if coreOf s.cur = homeEp home then .nb else .ls

/-- A handler's access to another home is refused (R173). (DEDUCED: assumption 12.) -/
def checkHandlerHome (home a : Nat) : Act Unit := do
  let s ← get
  if s.me.kind = .handler ∧ coreOf s.cur ≠ homeEp home then trap causeAccess (w64 a) else return ()

/-- A handler has no access to the other spaces (R173). -/
def checkHandlerSpace (tval : W64) : Act Unit := do
  if (← getMe).kind = .handler then trap causeAccess tval else return ()

/-- Checks 1 to 4 of a DM access of n bytes. -/
def dmAccess (u : DmUse) (va n : Nat) : Act DmLoc := do
  checkAlign va n
  let l ← translateDm va
  if u.writes && !l.wr then trap causeAccess (w64 va)
  else do
    checkHandlerHome l.home va
    if attrBad u l then trap causeAttrFault (w64 va) else return l

/-- Checks 1 to 3 of an SP access of n bytes: its home. -/
def spAccess (a n : Nat) : Act Nat := do
  checkAlign a n
  let s ← get
  match spPlace s (s.prt s.me.part) a with
  | none => trap causeSpRange (w64 a)
  | some x => do
    checkHandlerHome x.1 a
    return x.1

/-! ## Reads made before anything is sent (R158, R216) -/

/-- n bytes of DM, read once as an ordinary load reads them; the home's refusal is precise. (DEDUCED: assumption 83.) -/
def readPre (va n : Nat) : Act (List Byte) := do
  let s ← get
  match (s.me.pre.find? (fun x => x.1 == va)).map (·.2) with
  | some bs => return bs
  | none =>
    match s.me.wait with
    | .pre _ _ _ => block
    | w =>
      if w = .preFault va then trap causeAccess (w64 va)
      else do
        let l ← dmAccess .load va n
        let p := s.pathTo l.home
        if s.pathOpen s.cur p then
          blockWith (fun s =>
            let f := s.fresh
            (f.2.post (f.2.mkMsg p (homeEp l.home) f.1 (.load (.dm l) n))).modMe
              (fun t => { t with wait := .pre f.1 va (heldBytes t spaceDm l.key n) }))
        else block

/-! ## Register values out of range (R47, R125, R213) -/

/-- FIELD of a `w` operand. -/
def wField (r : BitVec 5) : Nat := (wF.enc r).toNat

/-- A register or an immediate with an upper limit: a register value above it is refused after the guard. -/
def readLimit (op fn wher lim : Nat) (x : WI) : Act Nat :=
  match x with
  | .imm v => return v.toNat
  | .w r => do
    let v := ((← getMe).w r.toNat).toNat
    if v ≤ lim then return v else illegalA op fn 5 wher (wField r)

/-- A code address: an offset in 4-byte units from the instruction, or a register (R213, R285). -/
def readEntry : WI → Act W64
  | .w r => do return (← getMe).w r.toNat
  | .imm v => do return (← getMe).ip + 4#64 * v.signExtend 64

/-! ## Anchors, and addresses in the form of ABASE (R190) -/

/-- The home of an address in the ABASE form, with the faults of R190 and R158. -/
def anchorHome (w : W64) : Act (Loc × Nat) := do
  let s ← get
  if bitOf w 63 then
    (if fieldOf w 32 31 ≠ 0 then trap causeSpRange w
     else match spPlace s (s.prt s.me.part) (fieldOf w 0 32) with
       | none => trap causeSpRange w
       | some x => return (.sp (fieldOf w 0 32), x.1))
  else do
    let l ← translateDm w.toNat
    return (.dm l, l.home)

end Sys2Proof.Machine
end

