-- ==== Sys2Proof/Machine/Barrier.lean ====
section
/-!
DEFINITION. Named barriers (R103, R104, R125).
-/
namespace Sys2Proof.Machine

open Sys2Proof

/-- The barrier operand. -/
def barNum (op fn : Nat) (b : WI) : Act Nat := readLimit op fn 1 127 b

/-- A thread whose record is of generation `gen` of barrier b of a set, when that generation completes (R103). -/
def barHit (set b : Nat) (gen : BitVec 8) (t : Thread) : Thread :=
  if t.bar.valid && t.bar.bar == b && t.bar.gen == gen && t.bar.set == set then { t with bar := { t.bar with done := true } } else t

/-- A waiter of barrier b goes on. -/
def barWake (b : Nat) (t : Thread) : Thread :=
  match t.wait with
  | .bar b' _ _ => if b' = b then { t with wait := .barDone b } else t
  | _ => t

/-- A generation completes: GEN increments, ARR clears, the waiters of the core are released, and DONE is set in the record
of every thread that arrived in it, wherever it runs now, saved ones among them (R103). (DEDUCED: assumption 91.) -/
def barComplete (s : State) (c b : Nat) : State :=
  let x := (s.core c).bar b
  let hit := barHit (s.barSet c) b x.gen
  let s0 : State := { s with
    saved := s.saved.map (fun (y : SavedCtx) => { y with thread := hit y.thread })
    threads := s.threads.map (fun (e : Nat × Thread) => (e.1, hit e.2)) }
  let s1 := s0.modCore c (fun k => k.setBar b { x with arr := 0, gen := x.gen + 1#8 })
  (s1.coreThreads c).foldl (fun s t => s.modThr t (barWake b)) s1

/-- An arrival of thread t (R103). -/
def barArrive (s : State) (t b : Nat) : State :=
  let c := coreOf t
  let x := (s.core c).bar b
  if x.count = 0 then s
  else
    let s1 := s.modThr t (fun y => { y with bar := ⟨true, b, x.gen, false, s.barSet c⟩ })
    let s2 := s1.modCore c (fun k => k.setBar b { x with arr := x.arr + 1 })
    if x.count ≤ x.arr + 1 then barComplete s2 c b else s2

/-- The thread begins to wait, with the watchdog now in force. -/
def barWaitFix (b : Nat) (g : W32) (s : State) : State :=
  s.modMe (fun t => { t with wait := .bar b ((s.core (coreOf s.cur)).bar b).barto g })

/-- Whether the thread's record says that the arrival's generation has completed. -/
def barRecDone (t : Thread) (b : Nat) : Bool := t.bar.valid && t.bar.bar == b && t.bar.done

/-- An arrival that is counted waits for the thread's fences (R126). -/
def waitArrive (n : Nat) : Act Unit := do
  let s ← get
  if ((s.core (coreOf s.cur)).bar n).count = 0 then return () else waitFences

/-- `bar.arr` (R125). -/
def execBarArr (c : Ctl) (b : WI) (s : State) : Host.Outcome State Fault Refusal :=
  runScalar c (Uses.wi b) (do
    let n ← barNum 0xA0 0 b
    waitArrive n
    modify (fun s => barArrive s s.cur n)
    return .seq) s

/-- `bar.wait` (R125). -/
def execBarWait (c : Ctl) (b : WI) (s : State) : Host.Outcome State Fault Refusal :=
  runWord c false false (Uses.wi b) (fun g => do
    let n ← barNum 0xA0 1 b
    let s ← get
    match s.me.wait with
    | .barDone _ => return .seq
    | .bar _ _ _ => block
    | _ =>
      if barRecDone s.me n || ((s.core (coreOf s.cur)).bar n).count == 0 then return .seq
      else blockWith (barWaitFix n g)) s

/-- An arrival that a `bar.sync` makes: its barrier, GEN and address are kept until it retires (R104). -/
def syncArrive (n : Nat) (s : State) : State :=
  let gen := ((s.core (coreOf s.cur)).bar n).gen
  (barArrive s s.cur n).modMe (fun t => { t with syncRec := some (n, gen, t.ip) })

/-- R104: a restarted `bar.sync` does not arrive again while the thread's record still names the barrier and GEN of its
arrival, and that generation is the one in progress at this core's barrier or has completed. (DEDUCED: assumption 27.) -/
def barStands (s : State) (n : Nat) : Bool :=
  let t := s.me
  t.restarted && t.syncRec == some (n, t.bar.gen, t.ip) && t.bar.valid && t.bar.bar == n &&
  (t.bar.done || (t.bar.set == s.barSet (coreOf s.cur) && t.bar.gen == ((s.core (coreOf s.cur)).bar n).gen))

/-- `bar.sync` (R125): the arrival stays counted while the thread waits. With COUNT 0 it neither arrives nor waits,
restarted or not (R103). -/
def execBarSync (c : Ctl) (b : WI) (s : State) : Host.Outcome State Fault Refusal :=
  runWord c false false (Uses.wi b) (fun g => do
    let n ← barNum 0xA0 2 b
    let s ← get
    match s.me.wait with
    | .barDone _ => return .seq
    | .bar _ _ _ => block
    | _ =>
      if ((s.core (coreOf s.cur)).bar n).count = 0 then return .seq
      else if barStands s n then (if barRecDone s.me n then return .seq else blockWith (barWaitFix n g))
      else do
        waitFences
        let s1 := syncArrive n s
        if barRecDone s1.me n then do
          set s1
          return .seq
        else blockWith (fun s => barWaitFix n g (syncArrive n s))) s

/-- `barcfg` (R103, R125): a COUNT that ARR has reached completes the generation at once. -/
def execBarcfg (c : Ctl) (b : WI) (count : WI) (barto : WI) (s : State) : Host.Outcome State Fault Refusal :=
  runScalar c (((Uses.wi b).and (Uses.wi count)).and (Uses.wi barto)) (do
    let n ← barNum 0xA1 0 b
    let k ← readLimit 0xA1 0 2 255 count
    let w := min (← readWI barto).toNat (2 ^ 32 - 1)
    let s ← get
    let x := (s.core (coreOf s.cur)).bar n
    let s1 := s.modCore (coreOf s.cur) (fun y => y.setBar n { x with count := k, barto := w })
    set (if 1 ≤ k ∧ k ≤ x.arr then barComplete s1 (coreOf s.cur) n else s1)
    return .seq) s

/-- The watchdog of a waiting thread expires (R104): the wait traps precisely. (DESIGN CHOICE: assumption 76.) -/
def execBarrierTimeout (t : Nat) (s : State) : Host.Outcome State Fault Refusal :=
  let th := s.thr t
  match th.wait with
  | .bar b barto g =>
    if th.active && decide (1 ≤ barto) then .next (takeTrap s t false causeBarrierTimeout (w64 b) g th.ip) else .next s
  | _ => .next s

end Sys2Proof.Machine
end

