-- ==== Sys2Proof/Machine/Matrix.lean ====
section
/-!
DEFINITION. The matrix engine (R228 to R257): who holds it, the planes and their elements, the rows of an `mma` and
their sums, and the ten matrix instructions.
-/
namespace Sys2Proof.Machine

open Sys2Proof

/-! ## Elements (R230 to R232, R234) -/

/-- K of a format. -/
def matK : Ty → Nat
  | .bf16 => 128
  | .int4s | .int4x => 512
  | _ => 256

/-- A list cut into pieces of n, at most `k` of them. -/
def chunks {α : Type} (n : Nat) : Nat → List α → List (List α)
  | 0, _ => []
  | k + 1, l => l.take n :: chunks n k (l.drop n)

/-- An integer as a value. -/
def intVal (x : Int) : FVal := .fin (decide (x < 0)) x.natAbs 0

/-- The element codes of a byte string, in flat order; a reserved INT4S nibble is 0. -/
def flatCodes (f : Ty) (bs : List Byte) : List Nat :=
  match f with
  | .bf16 => (chunks 2 (bs.length / 2) bs).map leNat
  | .int4s => bs.flatMap (fun b =>
      let clean (n : Nat) : Nat := if n = 8 then 0 else n
      [clean (b.toNat % 16), clean (b.toNat / 16)])
  | .int4x => bs.flatMap (fun b => [(roundVal fmtF32 (int4xVal b.toNat false)).1, (roundVal fmtF32 (int4xVal b.toNat true)).1])
  | _ => bs.map BitVec.toNat

/-- Whether a byte string holds the reserved INT4S nibble. -/
def hasReserved (f : Ty) (bs : List Byte) : Bool :=
  f == .int4s && bs.any (fun b => b.toNat % 16 == 8 || b.toNat / 16 == 8)
def rcFlag (f : Ty) (bs : List Byte) : Fl := if hasReserved f bs then flRC else 0#7

/-- The value of an element code. -/
def codeVal (f : Ty) (x : Nat) : FVal :=
  match f with
  | .i8 => intVal (toSigned 8 x)
  | .int4s => intVal (int4sVal x).1
  | .int4x => fdec fmtF32 x
  | _ => fdec (tyFmt f) x

/-- The code of 1 in a format. -/
def oneCode : Ty → Nat
  | .bf16 => 0x3F80
  | .fp8e4 => 0x38
  | .fp8e5 => 0x3C
  | .int4x => 0x3F800000
  | _ => 1

/-- The columns of a flat array (R231); `kOrient` is `.k`. -/
def placeCols (kOrient : Bool) (f : Ty) (flat : List Nat) : List (List Nat) :=
  if kOrient then
    let rows := chunks 32 (matK f) flat
    (List.range 32).map (fun c => rows.map (fun r => r.getD c 0))
  else chunks (matK f) 32 flat

/-! ## Generated matrices (R236) -/

/-- Line i of a generated matrix with K elements, and whether its index is out of bounds. -/
def genLine (k : Nat) (z : GenMat) (s : Nat) (idx : List Nat) (i : Nat) : GenLine × Bool :=
  let at_ (x : Nat) : GenLine := if x < k then .one x else .zero
  match z with
  | .ident => (at_ i, false)
  | .shift _ => (at_ (i + s), false)
  | .ones _ => (if i = s then .ones else .zero, false)
  | .perm _ =>
    let x := idx.getD i 255
    if x = 255 then (.zero, false) else (at_ x, decide (k ≤ x))

/-- A line as element codes. -/
def lineCodes (f : Ty) (z : GenLine) : List Nat :=
  match z with
  | .zero => List.replicate (matK f) 0
  | .one k => (List.range (matK f)).map (fun i => if i = k then oneCode f else 0)
  | .ones => List.replicate (matK f) (oneCode f)

/-! ## Sums (R67 to R69) -/

/-- The values of an activation row, `none` where a generated row forms no product, with the flags of decoding it. -/
def rowVals (f : Ty) (r : ActRow) : List (Option FVal) × Fl :=
  match r with
  | .data bs _ => ((flatCodes f bs).map (fun x => some (codeVal f x)), rcFlag f bs)
  | .gen z => (((lineCodes f z).map (fun x => if x = 0 then none else some (codeVal f x))), 0#7)

def scaleMul (v : FVal × Fl) (x : Option FVal) : FVal × Fl :=
  match x with
  | none => v
  | some y => ((mulVals v.1 y).1, v.2 ||| (mulVals v.1 y).2)

/-- One product: weight, its scale, activation, its scale code, multiplied in that order, which decides whether a zero
meets an infinity before a NaN does. (DEDUCED: assumption 92.) -/
def product (w : FVal) (ws : Option FVal) (a : FVal) (code : Option Nat) : FVal × Fl :=
  if code = some 255 then (.nan, 0#7)
  else scaleMul (scaleMul (scaleMul (w, 0#7) ws) (some a)) (code.map actScale)

/-- One addition to an accumulator. -/
def accAdd (intK : Bool) (acc : Nat) (p : FVal) : Nat × Fl :=
  if intK then
    let x : Int := match p with | .fin n m _ => signedMag n m | _ => 0
    let r := int56Step (toSigned 56 acc) x
    (wrapInt 56 r.1, r.2)
  else addVals fmtF56 (fdec fmtF56 acc) p

/-- A column's sum in ascending k: weight codes, scale codes of the column, row values, scale codes of the row. -/
def colSum (pl : Plane) (f : Ty) (intK : Bool) (ws : List Nat) (codes : Option (List Nat)) :
    Nat → List Nat → List (Option FVal) → Nat × Fl → Nat × Fl
  | k, w :: wl, a :: al, acc =>
    let next := match a with
      | none => acc
      | some v =>
        if pl.gen && w == 0 then acc
        else
          let p := product (codeVal f w) (if pl.sc then some (fdec fmtBf16 (ws.getD (k / 32) 0)) else none) v
            (codes.map (fun l => l.getD (k / 32) 0))
          let r := accAdd intK acc.1 p.1
          (r.1, acc.2 ||| p.2 ||| r.2)
    colSum pl f intK ws codes (k + 1) wl al next
  | _, _, _, acc => acc

def accKey (r c : Nat) : Nat := 32 * r + c
def Engine.accAt (e : Engine) (r c : Nat) : Nat := SMap.get 0 e.acc (accKey r c)
def Engine.setAcc (e : Engine) (r c v : Nat) : Engine := { e with acc := SMap.set 0 e.acc (accKey r c) v }
def Engine.kind (e : Engine) (r : Nat) : AccKind := SMap.get .empty e.kinds r
def Engine.setKind (e : Engine) (r : Nat) (k : AccKind) : Engine := { e with kinds := SMap.set .empty e.kinds r k }

/-- One activation row enters: every column of accumulator row r accumulates it. -/
def accumulateRow (e : Engine) (j : MmaJob) (r : Nat) (row : ActRow) : Engine × Fl :=
  let f := (e.active.fmt).getD j.fmt
  let v := rowVals j.fmt row
  let codes : Option (List Nat) := match row with
    | .data _ l => if j.scaled then some l else none
    | .gen _ => none
  (List.range 32).foldl (fun (x : Engine × Fl) c =>
    let s := colSum e.active f j.intK (e.active.scales.getD c []) codes 0 (e.active.elems.getD c []) v.1 (e.accAt r c, 0#7)
    (x.1.setAcc r c s.1, x.2 ||| s.2)) (e, v.2)

/-- The row of a job that enters next, with the job as it then stands. -/
def jobRow (j : MmaJob) : Option (ActRow × MmaJob) :=
  if j.next < j.m then
    match j.rows with
    | r :: rs => some (r, { j with rows := rs, next := j.next + 1 })
    | [] =>
      if 256 ≤ j.got.length then
        some (.data (j.got.take 256) (j.codes.getD j.next []), { j with got := j.got.drop 256, next := j.next + 1 })
      else none
  else none

/-- The first job that has rows to enter lets one in, if its bytes are there. -/
def enterJobs (e : Engine) : List MmaJob → Option (Engine × List MmaJob)
  | [] => none
  | j :: js =>
    if j.next < j.m then
      match jobRow j with
      | none => none
      | some (row, j') =>
        let x := accumulateRow e j (j.r0 + j.next) row
        some (x.1, { j' with flags := j'.flags ||| x.2 } :: js)
    else (enterJobs e js).map (fun x => (x.1, j :: x.2))

/-- (DEDUCED: assumption 40.) -/
def enterRow (e : Engine) : Option Engine := (enterJobs e e.jobs).map (fun x => { x.1 with jobs := x.2 })

/-! ## Holding the engine (R228, R229, R246) -/

def matUses (u : Uses) : Uses := { u with matrix := true }

/-- The thread joins the waiting list. -/
def joinEngine (s : State) : State :=
  s.modCore (coreOf s.cur) (fun c => { c with engine := { c.engine with waiters := joinList c.engine.waiters (slotOf s.cur) } })

/-- The engine as a matrix instruction finds it: held by the thread, or free for it and empty; otherwise it waits. -/
def needEngine : Act Engine := do
  let s ← get
  let e := (s.core (coreOf s.cur)).engine
  if e.holder = some s.cur then return e
  else if e.holder = none ∧ servedNext e.waiters (slotOf s.cur) = true then
    return { Engine.free with waiters := e.waiters }
  else blockWith joinEngine

/-- The engine is the thread's, in a new state. -/
def takeEngine (e : Engine) : Act Unit :=
  modify (fun s => s.modCore (coreOf s.cur) (fun c => { c with engine := { e with holder := some s.cur } }))

/-- A claim comes before the instruction that made the thread wait (R228); a restore that waits first claims for itself
(R243). -/
def execEngineClaim (core : Nat) (s : State) : Host.Outcome State Fault Refusal :=
  let c := s.core core
  match c.engine.holder, c.engine.waiters with
  | none, w :: ws =>
    if w < 16 then
      let t := core * 16 + w
      let s1 := s.setCore core { c with engine := { Engine.free with holder := some t, waiters := ws } }
      .next (s1.modThr t (fun x => { x with wait := .claimed }))
    else .next s
  | _, _ => .next s

/-- The wait for every earlier matrix instruction of the thread (R240). -/
def waitMatrixWork : Act Unit := do
  let s ← get
  let e := (s.core (coreOf s.cur)).engine
  if e.holder = some s.cur ∧ (e.loading = true ∨ e.jobs ≠ []) then block else return ()

/-! ## Row counts (R244) -/

/-- M, BLK of a row-count operand that passes its checks. -/
def readRows (op fn wher : Nat) (acc : BitVec 6) (m : WI) (blk : Bool) : Act (Nat × Nat) := do
  let v ← (match m with
    | .imm x => return x.toNat
    | .w r => do return ((← getMe).w r.toNat).toNat)
  let n := v % 64 + 1
  if 2 ^ 15 ≤ v ∨ (blk = false ∧ 64 ≤ v) ∨ 64 < acc.toNat + n then illegalA op fn 5 wher (wiAny.enc m).toNat
  else return (n, v / 64)

/-- Check 8 and the interlock on groups located by a register value or by BLK. -/
def checkGroups (gs : List VGroup) : Act Unit := do
  let t ← getMe
  match vregCheck t gs with
  | some r => trap causeVregRange (w64 r)
  | none => if t.owes (gs.flatMap (groupRegs t)) then block else return ()

/-- A parameter of a generated matrix: its value, and the indices of a permutation (R247, R252). -/
def readGen (op fn wher ones : Nat) (z : GenMat) : Act (Nat × List Nat) :=
  match z with
  | .ident => return (0, [])
  | .shift s => do return (← readLimit op fn wher 511 s, [])
  | .ones s => do return (← readLimit op fn wher ones s, [])
  | .perm v => do return (0, (lanesBytes (← readVReg v)).map BitVec.toNat)

def Uses.genMat : GenMat → Uses
  | .ident => Uses.none
  | .shift s => Uses.wi s
  | .ones s => Uses.wi s
  | .perm v => Uses.vr v

/-! ## Loading the planes (R247 to R249) -/

/-- The shadow plane latched, with the staged scales (R233); the load is in progress until it completes. -/
def latchShadow (e : Engine) (f : Ty) (gen : Bool) (cols : List (List Nat)) : Engine :=
  { e with
    shadow := { fmt := some f, sc := e.arm, gen := gen, elems := cols, scales := if e.arm then e.staging else e.shadow.scales }
    arm := false
    loading := true }

/-- A load waits for the load before it. -/
def latchA (f : Ty) (gen : Bool) (cols : List (List Nat)) (fl : Fl) : Act Ret := do
  let e ← needEngine
  if e.loading then block
  else do
    takeEngine (latchShadow e f gen cols)
    raiseA fl
    return .seq

def loadW (c : Ctl) (kOrient : Bool) (f : Ty) (v : VReg) (s : State) : Host.Outcome State Fault Refusal :=
  runScalar c (matUses ((Uses.group v 64).and (Uses.ty f))) (do
    let bs := ((← readGroup ((← getMe).vIdx v) 64).map lanesBytes).flatten
    latchA f false (placeCols kOrient f (flatCodes f bs)) (rcFlag f bs)) s

/-- `ldw.c` (R247). -/
def execLdwC (c : Ctl) (f : Ty) (v : VReg) (s : State) : Host.Outcome State Fault Refusal := loadW c false f v s
/-- `ldw.k` (R247). -/
def execLdwK (c : Ctl) (f : Ty) (v : VReg) (s : State) : Host.Outcome State Fault Refusal := loadW c true f v s

/-- `ldwg` (R247). -/
def execLdwg (c : Ctl) (f : Ty) (z : GenMat) (s : State) : Host.Outcome State Fault Refusal :=
  runScalar c (matUses ((Uses.genMat z).and (Uses.ty f))) (do
    let p ← readGen 0xC1 (tyFn (genKind z) f) 1 31 z
    let ls := (List.range 32).map (genLine (matK f) z p.1 p.2)
    latchA f true (ls.map (fun l => lineCodes f l.1)) (if ls.any (·.2) then flOOB else 0#7)) s

/-- `ldws` (R248). -/
def execLdws (c : Ctl) (v : VReg) (s : State) : Host.Outcome State Fault Refusal :=
  runScalar c (matUses (Uses.group v 8)) (do
    let bs := ((← readGroup ((← getMe).vIdx v) 8).map lanesBytes).flatten
    let e ← needEngine
    takeEngine { e with staging := (chunks 32 32 bs).map (fun l => (chunks 2 16 l).map leNat), arm := true }
    return .seq) s

/-- `swpw` (R249). -/
def execSwpw (c : Ctl) (s : State) : Host.Outcome State Fault Refusal :=
  runScalar c (matUses Uses.none) (do
    let e ← needEngine
    if e.loading || e.jobs.any (fun j => decide (j.next < j.m)) then block
    else do
      takeEngine { e with active := e.shadow, shadow := e.active }
      return .seq) s

/-- A weight load ends (R239). -/
def execWeightLoadComplete (core : Nat) (s : State) : Host.Outcome State Fault Refusal :=
  .next (s.modCore core (fun c => { c with engine := { c.engine with loading := false } }))

/-! ## Multiplying (R250 to R252) -/

/-- Whether a pair of formats has one element width (R234). -/
def matPair (plane act : Ty) : Bool := matK plane == matK act

/-- Whether a pair accumulates as INT56 (R250). -/
def matInt (e : Engine) (f : Ty) (sc : Bool) : Bool :=
  (f == .i8 || f == .int4s) && e.active.fmt == some f && !e.active.sc && !sc

/-- A trap of R242. -/
def trapMat {α : Type} (tval : Nat) : Act α := trap causeMatrixFormat (w64 tval)

/-- The checks of R251 on the plane and the rows: the kind. -/
def mmaCheck (e : Engine) (f : Ty) (sc : Bool) (r0 m : Nat) : Act Bool :=
  match e.active.fmt with
  | none => trapMat 2
  | some pf =>
    if !matPair pf f then trapMat 1
    else
      let intK := matInt e f sc
      let bad : AccKind := if intK then .fp else .int
      if (List.range m).any (fun j => e.kind (r0 + j) == bad) then trapMat 3 else return intK

/-- A job is appended, its rows take their kind, and its first row enters. (DEDUCED: assumption 41.) -/
def mmaStart (e : Engine) (j : MmaJob) : Act Ret := do
  let k : AccKind := if j.intK then .int else .fp
  let e1 := (List.range j.m).foldl (fun e i => e.setKind (j.r0 + i) k) { e with mmacnt := e.mmacnt + 1#32, jobs := e.jobs ++ [j] }
  match enterRow e1 with
  | none => block
  | some e2 => do
    takeEngine e2
    return .seq

/-- Whether rows of an earlier `mma` are still to enter. -/
def rowsWaiting (e : Engine) : Bool := e.jobs.any (fun j => decide (j.next < j.m))

/-- The activation rows of a register group. -/
def regRows (xs : List Lanes) (codes : List (List Nat)) : List ActRow :=
  ((chunks 2 (xs.length / 2) xs).zip (List.range (xs.length / 2))).map (fun x =>
    .data (x.1.map lanesBytes).flatten (codes.getD x.2 []))

/-- An instruction that has claimed the engine and stalls on stream bytes can be pre-empted (R246). -/
def stallClaim (s : State) : State := if s.me.wait = .claimed then s.modMe (fun t => { t with wait := .claimStall }) else s

/-- The bytes of a stream that an `mma` of m rows takes (R251, R272): the stream keeps what comes after them. -/
def takeStreamRows (k m : Nat) : Act (List Byte × Nat × Nat) := do
  let st := (← getMe).stream k
  let n := 256 * m
  if st.bound = false ∨ st.buf.length + st.toCome < n then
    (if st.bound = true ∧ st.ecode ≠ 0 then trapFix (clearStreamFault k) causeCopyFault (streamFaultWord k)
     else trapFix (fun s => s) causeStreamEnd (streamRemains k))
  else if st.buf.length < 256 then blockWith stallClaim
  else do
    let got := st.buf.take n
    modMeA (fun t => t.setStream k { st with buf := st.buf.drop n, toCome := st.toCome - (n - got.length) })
    return (got, n - got.length, st.copyId)

/-- The vector registers of an `mma`'s activations, for the check before the guard. -/
def mmaUses (a : VV) (m : WI) : Uses :=
  match a, m with
  | .reg r, .imm x => Uses.group r (2 * (x.toNat % 64 + 1))
  | .reg r, .w i => (Uses.group r 1).and (Uses.w i)
  | .s _, x => Uses.wi x

/-- `mma` and `mma.sc` once their row count is known: `codes` are the activation scales. -/
def mmaRun (f : Ty) (acc : BitVec 6) (a : VV) (m : Nat) (sc : Bool) (codes : List (List Nat)) : Act Ret := do
  let e ← needEngine
  let intK ← mmaCheck e f sc acc.toNat m
  match a with
  | .reg r => do
    if rowsWaiting e then block else do
    let xs ← readGroup ((← getMe).vIdx r) (2 * m)
    mmaStart e ⟨f, acc.toNat, m, 0, regRows xs codes, 0, [], 0, [], intK, sc, 0#7⟩
  | .s k => do
    let x ← takeStreamRows k.toNat m
    if rowsWaiting e then block else do
    mmaStart e ⟨f, acc.toNat, m, 0, [], x.2.2, x.1, x.2.1, codes, intK, sc, 0#7⟩

/-- The group of an `mma`'s activations. -/
def mmaGroup (a : VV) (m : Nat) : List VGroup :=
  match a with
  | .reg r => [(r, 2 * m)]
  | .s _ => []

/-- `mma` (R251). -/
def execMma (c : Ctl) (f : Ty) (acc : BitVec 6) (a : VV) (m : WI) (s : State) : Host.Outcome State Fault Refusal :=
  runScalar c (matUses ((mmaUses a m).and (Uses.ty f))) (do
    let n ← readRows 0xC4 (tyFn 0 f) 3 acc m false
    checkGroups (mmaGroup a n.1)
    mmaRun f acc a n.1 false []) s

/-- `mma.sc` (R251): the scale block is `v(4·BLK)` to `v(4·BLK + 7)`. -/
def execMmaSc (c : Ctl) (f : Ty) (acc : BitVec 6) (a : VV) (m : WI) (s : State) : Host.Outcome State Fault Refusal :=
  runScalar c (matUses ((mmaUses a m).and (Uses.ty f))) (do
    let n ← readRows 0xC4 (tyFn 1 f) 3 acc m true
    checkGroups (mmaGroup a n.1 ++ [(VReg.v (BitVec.ofNat 11 (4 * n.2)), 8)])
    let bs := ((← readGroup (4 * n.2) 8).map lanesBytes).flatten
    mmaRun f acc a n.1 true (chunks 16 64 (bs.map BitVec.toNat))) s

/-- `mmag` (R252). -/
def execMmag (c : Ctl) (f : Ty) (acc : BitVec 6) (z : GenMat) (m : WI) (s : State) : Host.Outcome State Fault Refusal :=
  runScalar c (matUses (((Uses.genMat z).and (Uses.wi m)).and (Uses.ty f))) (do
    let n ← readRows 0xC5 (tyFn (genKind z) f) 3 acc m false
    let p ← readGen 0xC5 (tyFn (genKind z) f) 2 63 z
    let e ← needEngine
    let intK ← mmaCheck e f false acc.toNat n.1
    if rowsWaiting e then block else do
    let ls := (List.range n.1).map (genLine (matK f) z p.1 p.2)
    let r ← mmaStart e ⟨f, acc.toNat, n.1, 0, ls.map (fun l => ActRow.gen l.1), 0, [], 0, [], intK, false, 0#7⟩
    raiseA (if ls.any (·.2) then flOOB else 0#7)
    return r) s

/-- A row of the first job that has any enters the array (R251). -/
def execMmaRowEnter (core : Nat) (s : State) : Host.Outcome State Fault Refusal :=
  match enterRow (s.core core).engine with
  | some e => .next (s.modCore core (fun c => { c with engine := e }))
  | none => .next s

/-- The accumulation of the oldest `mma` is complete: its late flags are set (R239, R240). -/
def execMmaAccumulationComplete (core : Nat) (s : State) : Host.Outcome State Fault Refusal :=
  let e := (s.core core).engine
  match e.holder, e.jobs with
  | some t, j :: js =>
    if j.next < j.m then .next s
    else
      let s1 := s.modCore core (fun c => { c with engine := { e with jobs := js } })
      .next (s1.modThr t (fun x => x.raise j.flags))
  | _, _ => .next s

/-! ## Accumulators (R253 to R256) -/

/-- Whether a write to one of rows r0 to r0 + m − 1 has not landed. -/
def rowsBusy (e : Engine) (r0 m : Nat) : Bool :=
  e.jobs.any (fun j => decide (j.r0 < r0 + m) && decide (r0 < j.r0 + j.m))

/-- A row made zero. -/
def zeroRow (e : Engine) (r : Nat) : Engine :=
  ((List.range 32).foldl (fun e c => e.setAcc r c 0) e).setKind r .empty

/-- `accz` (R253). -/
def execAccz (c : Ctl) (acc : BitVec 6) (m : WI) (s : State) : Host.Outcome State Fault Refusal :=
  runScalar c (matUses (Uses.wi m)) (do
    let n ← readRows 0xC6 0 2 acc m false
    let e ← needEngine
    if rowsBusy e acc.toNat n.1 then block
    else do
      takeEngine ((List.range n.1).foldl (fun e i => zeroRow e (acc.toNat + i)) e)
      return .seq) s

/-- An INT accumulator, or an EMPTY one, converted to a type. -/
def accIntConvert (t : Ty) (m : CvtMode) (v : Int) : Nat × Fl :=
  if t = .i64 then (wrapInt 64 v, 0#7)
  else if tyFloat t then intToFloat (tyFmt t) m v
  else intToInt t m.sat 56 v

/-- One accumulator converted to a type (R254); EMPTY reads 0. -/
def accConvert (t : Ty) (m : CvtMode) (k : AccKind) (x : Nat) : Nat × Fl :=
  match k with
  | .fp =>
    if t = .f56 then (x, 0#7)
    else if tyFloat t then valToFloat (tyFmt t) m (fdec fmtF56 x)
    else valToInt t m (fdec fmtF56 x)
  | .int => accIntConvert t m (toSigned 56 x)
  | .empty => accIntConvert t m 0

/-- Whether a read-out type takes a register pair. -/
def accWide (t : Ty) : Bool := t == .i64 || t == .f56

/-- `accrd` (R254). -/
def execAccrd (c : Ctl) (t : Ty) (m : CvtMode) (d : VReg) (acc : BitVec 6) (s : State) :
    Host.Outcome State Fault Refusal :=
  runScalar c (matUses (Uses.group d (if accWide t then 2 else 1))) (do
    let e ← needEngine
    if rowsBusy e acc.toNat 1 then block
    else do
      takeEngine e
      let xs := (List.range 32).map (fun i => accConvert t m (e.kind acc.toNat) (e.accAt acc.toNat i))
      let r := (← getMe).vIdx d
      if accWide t then do
        writeVNum r allLanes (xs.map (fun x => w32 x.1))
        writeVNum (r + 1) allLanes (xs.map (fun x => w32 (x.1 / 2 ^ 32)))
      else writeVNum r allLanes (xs.map (fun x => laneWord t x.1))
      raiseA (xs.foldl (fun f x => f ||| x.2) 0#7)
      return .seq) s

/-- What `accwr` puts in an accumulator (R255): `hi` is the lane of the second register of a pair. -/
def accwrVal (t : Ty) (lo hi : W32) : Nat :=
  match t with
  | .i32 => sextNat 32 56 lo.toNat
  | .bf16 => (valToFloat fmtF56 ⟨false, 0#2⟩ (fdec fmtBf16 (lo.toNat % 2 ^ 16))).1
  | .f32 => (valToFloat fmtF56 ⟨false, 0#2⟩ (fdec fmtF32 lo.toNat)).1
  | _ => (hi.toNat * 2 ^ 32 + lo.toNat) % 2 ^ 56

def accwrKind : Ty → AccKind
  | .i32 | .i64 => .int
  | _ => .fp

/-- `accwr` (R255). -/
def execAccwr (c : Ctl) (t : Ty) (acc : BitVec 6) (v : VReg) (s : State) : Host.Outcome State Fault Refusal :=
  runScalar c (matUses (Uses.group v (if accWide t then 2 else 1))) (do
    let r := (← getMe).vIdx v
    let e ← needEngine
    if rowsBusy e acc.toNat 1 then block
    else do
      let lo ← readVNum r
      let hi ← (if accWide t then readVNum (r + 1) else return [])
      let e1 := (List.range 32).foldl (fun e i => e.setAcc acc.toNat i (accwrVal t (lo.getD i 0#32) (hi.getD i 0#32))) e
      takeEngine (e1.setKind acc.toNat (accwrKind t))
      return .seq) s

def fmtCode (p : Plane) : Nat := match p.fmt with | some t => (tyCode t).toNat | none => 15

/-- Rows of a kind, as a mask. -/
def kindMask (e : Engine) (k : AccKind) : Nat := (List.range 64).foldl (fun n i => if e.kind i = k then n + 2 ^ i else n) 0

/-- The status words of R241. A restore that waits for the engine counts in WAIT. (DESIGN CHOICE: assumption 122.) -/
def mstatWord (e : Engine) (t n : Nat) : W64 :=
  let own := e.holder == some t
  let wait := min e.waiters.length 15 * 2 ^ 32
  match n with
  | 0 =>
    if own then
      w64 (2 ^ 63 + (if e.loading || !e.jobs.isEmpty then 2 ^ 62 else 0) + (if e.arm then 2 ^ 61 else 0) +
        fmtCode e.active * 2 ^ 52 + (if e.active.sc then 2 ^ 51 else 0) + fmtCode e.shadow * 2 ^ 44 +
        (if e.shadow.sc then 2 ^ 43 else 0) + wait + e.mmacnt.toNat)
    else w64 wait
  | 1 => if own then w64 (kindMask e .fp) else 0#64
  | _ => if own then w64 (kindMask e .int) else 0#64

/-- `mstat` (R256). -/
def execMstat (c : Ctl) (d : BitVec 5) (n : WI) (s : State) : Host.Outcome State Fault Refusal :=
  runScalar c (matUses ((Uses.w d).and (Uses.wi n))) (do
    let k ← readLimit 0xC9 0 2 2 n
    let s ← get
    setWA d (mstatWord (s.core (coreOf s.cur)).engine s.cur k)
    return .seq) s

end Sys2Proof.Machine
end

