-- ==== Sys2Proof/Machine/Memory.lean ====
section
/-!
DEFINITION. The memory instructions (R143 to R169): what each checks, waits for and sends. What a message does at its
ordering point stands in Machine/Home.lean.
-/
namespace Sys2Proof.Machine

open Sys2Proof

/-! ## Sizes, addresses, data -/

/-- Bytes of a load (R144). -/
def ldBytes : LdDst → Nat
  | .w t _ => tyWidth t / 8
  | .v _ => 128
def ldLane : LdDst → Bool
  | .w _ _ => false
  | .v _ => true
/-- Bytes of a store. -/
def stBytes : StSrc → Nat
  | .s t _ => tyWidth t / 8
  | .v _ => 128
def stLane : StSrc → Bool
  | .s _ _ => false
  | .v _ => true

/-- The address of DM, HM and PM (R159). -/
def eaOf (base : WG) (off : WI) : Act Nat := do return ((← readWG base) + (← readWI off)).toNat
/-- The address of SP (R159): 32 bits, the offset scaled by the size. -/
def spEaOf (base : WG) (off : WI) (n : Nat) : Act Nat := do
  return ((← readWG base) + (← readWI off) * w64 n).toNat % 2 ^ 32

/-- How a load lands (R97, R144, R159). -/
def loadFill (d : LdDst) (g : W32) (t : Thread) : Fill :=
  match d with
  | .w ty r => .w (t.preg r.toNat) ty (tyWidth ty / 8)
  | .v r => .v (t.vIdx r) g
def loadRegs (d : LdDst) (t : Thread) : List PReg :=
  match d with
  | .w _ r => [t.preg r.toNat]
  | .v r => [.v (t.vIdx r)]

/-- The bytes of 32 lanes, those of a mask given (R159). -/
def maskBytes (g : W32) (i : Nat) : Lanes → List (Option Byte)
  | [] => []
  | w :: ws =>
    (if g.getLsbD i then (leBytes 4 w.toNat).map some else [none, none, none, none]) ++ maskBytes g (i + 1) ws

/-- The data of a store. A scalar size stores the low bytes, whatever the type. -/
def storeData (a : StSrc) (g : W32) : Act (List (Option Byte)) :=
  match a with
  | .s t x => do return (leBytes (tyWidth t / 8) (← readSrc64 .b64 x).toNat).map some
  | .v x => do return maskBytes g 0 (← readVV x)

def ordAcq (o : Ord) : Bool := o.acq.isSome
def ordRel (o : Ord) : Bool := o.rel.isSome

/-- A load leaves: `over` are the bytes of held stores (R294). -/
def sendLoad (p : Path) (dst : Nat) (req : Req) (d : LdDst) (g : W32) (acq : Bool) (space a : Nat) : Act Ret := do
  waitSend p false
  let tok ← freshA
  let t ← getMe
  owe ⟨tok, loadRegs d t, loadFill d g t, heldBytes t space a (ldBytes d), acq, none, p⟩
  modify (fun s => s.post (s.mkMsg p dst tok req))
  return .seq

/-- A store leaves, or is held. -/
def sendStore (p : Path) (dst : Nat) (req : Req) (rel : Bool) (space a : Nat) (data : List (Option Byte)) : Act Ret := do
  let s ← get
  if s.me.specOn then do
    sendOrHold (s.mkMsg p dst 0 req) rel false space a data
    return .seq
  else do
    waitSend p rel
    sendOrHold (s.mkMsg p dst 0 req) rel false space a data
    return .seq

/-- An atomic leaves; its reply lands in `wd`. -/
def sendAtomic (p : Path) (dst : Nat) (req : Req) (d : BitVec 5) (acq rel : Bool) : Act Ret := do
  waitSend p rel
  let tok ← freshA
  let t ← getMe
  owe ⟨tok, [t.preg d.toNat], .word (t.preg d.toNat), [], acq, none, p⟩
  modify (fun s => s.post (s.mkMsg p dst tok req))
  return .seq

def ldUses (d : LdDst) (base : WG) (off : WI) : Uses := ((Uses.ldDst d).and (Uses.wg base)).and (Uses.wi off)
def stUses (base : WG) (off : WI) (a : StSrc) : Uses := ((Uses.wg base).and (Uses.wi off)).and (Uses.stSrc a)
def atUses (op : Nat) (d : BitVec 5) (base : WG) (b : Src) : Uses :=
  (((Uses.w d).and (Uses.wg base)).and (Uses.src b)).and { conflict := some op }

/-! ## SP (R159, R160) -/

/-- `ldsp`. -/
def execLdsp (c : Ctl) (o : Ord) (d : LdDst) (base : WG) (off : WI) (s : State) : Host.Outcome State Fault Refusal :=
  runWord c (ldLane d) false (ldUses d base off) (fun g => do
    let a ← spEaOf base off (ldBytes d)
    let h ← spAccess a (ldBytes d)
    let p := (← get).pathTo h
    sendLoad p (homeEp h) (.load (.sp a) (ldBytes d)) d g (ordAcq o) spaceSp a) s

/-- `stsp`. -/
def execStsp (c : Ctl) (o : Ord) (base : WG) (off : WI) (a : StSrc) (s : State) : Host.Outcome State Fault Refusal :=
  runWord c (stLane a) false (stUses base off a) (fun g => do
    let ea ← spEaOf base off (stBytes a)
    let h ← spAccess ea (stBytes a)
    let data ← storeData a g
    let p := (← get).pathTo h
    sendStore p (homeEp h) (.store (.sp ea) data) (ordRel o) spaceSp ea data) s

/-- `atsp`; an immediate B as for `atd`. (DEDUCED: assumption 94.) -/
def execAtsp (c : Ctl) (o : Ord) (op : AtOp) (d : BitVec 5) (base : WG) (b : Src) (s : State) :
    Host.Outcome State Fault Refusal :=
  runWord c false false (atUses 0x72 d base b) (fun _ => do
    let ea := (← readWG base).toNat % 2 ^ 32
    let h ← spAccess ea (atBytes op)
    let x ← readSrc64 .b64 b
    let cmp := (← getMe).w d.toNat
    let p := (← get).pathTo h
    sendAtomic p (homeEp h) (.atomic op (.sp ea) x cmp) d (ordAcq o) (ordRel o)) s

/-! ## DM -/

/-- `ldd`. -/
def execLdd (c : Ctl) (o : Ord) (d : LdDst) (base : WG) (off : WI) (s : State) : Host.Outcome State Fault Refusal :=
  runWord c (ldLane d) false (ldUses d base off) (fun g => do
    let a ← eaOf base off
    let l ← dmAccess .load a (ldBytes d)
    let p := (← get).pathTo l.home
    sendLoad p (homeEp l.home) (.load (.dm l) (ldBytes d)) d g (ordAcq o) spaceDm l.key) s

/-- `std`. -/
def execStd (c : Ctl) (o : Ord) (base : WG) (off : WI) (a : StSrc) (s : State) : Host.Outcome State Fault Refusal :=
  runWord c (stLane a) false (stUses base off a) (fun g => do
    let ea ← eaOf base off
    let l ← dmAccess .store ea (stBytes a)
    let data ← storeData a g
    let p := (← get).pathTo l.home
    sendStore p (homeEp l.home) (.store (.dm l) data) (ordRel o) spaceDm l.key data) s

/-- `atd`. An immediate B is its sign-extended bits for every operation, the float ones too. (DEDUCED: assumption 94.) -/
def execAtd (c : Ctl) (o : Ord) (op : AtOp) (d : BitVec 5) (base : WG) (b : Src) (s : State) :
    Host.Outcome State Fault Refusal :=
  runWord c false false (atUses 0x75 d base b) (fun _ => do
    let l ← dmAccess .atomic (← readWG base).toNat (atBytes op)
    let x ← readSrc64 .b64 b
    let cmp := (← getMe).w d.toNat
    let p := (← get).pathTo l.home
    sendAtomic p (homeEp l.home) (.atomic op (.dm l) x cmp) d (ordAcq o) (ordRel o)) s

/-! ## Whole rows (R162 to R164, R85) -/

/-- The key of a row that an acquiring `rowld` holds back others on. -/
def rowHeld (t : Thread) (key : Nat) : Bool := t.owed.any (fun o => o.row == some key)

/-- The waits before a whole-row operation: an acquiring `rowld` of the row, and for `.rel.row` the thread's earlier
operations on it. -/
def waitRow (key : Nat) (rel : Bool) : Act Unit := do
  let s ← get
  if rowHeld s.me key || (rel && s.pendingRow s.me.task key) then block else return ()

/-- `rowadd` (R163). -/
def execRowadd (c : Ctl) (o : Ord) (t : Ty) (row : BitVec 5) (a : VReg) (s : State) : Host.Outcome State Fault Refusal :=
  runWord c true false (((Uses.w row).and (Uses.group a 2)).and { feats := [0] }) (fun g => do
    let va := ((← getMe).w row.toNat).toNat
    let l ← dmAccess .rowadd va 256
    let xs ← readGroup ((← getMe).vIdx a) 2
    let p := (← get).pathTo l.home
    let req : Req := .rowadd (.dm l) t g xs.flatten
    waitRow l.key (o.row && !(← getMe).specOn)
    let s ← get
    if s.me.specOn then do
      sendOrHold (s.mkMsg p (homeEp l.home) 0 req) (ordRel o) false spaceDm l.key []
      return .seq
    else do
      waitSend p (ordRel o)
      sendOrHold (s.mkMsg p (homeEp l.home) 0 req) (ordRel o) false spaceDm l.key []
      return .seq) s

/-- `rowld` (R164). -/
def execRowld (c : Ctl) (o : Ord) (_ : Ty) (d : VReg) (row : BitVec 5) (minv : WI) (s : State) :
    Host.Outcome State Fault Refusal :=
  runWord c true false
    (((((Uses.group d 2).and (Uses.w row)).and (Uses.wi minv)).and { feats := [0] }).and
      { extra := [.rver], conflict := some 0x77 }) (fun g => do
    let va := ((← getMe).w row.toNat).toNat
    let l ← dmAccess .rowld va 256
    let m ← readWI minv
    let p := (← get).pathTo l.home
    waitRow l.key false
    waitSend p false
    let tok ← freshA
    let t ← getMe
    let r := t.vIdx d
    owe ⟨tok, [.v r, .v (r + 1), .rver], .row r g, [], (ordAcq o), if o.row then some l.key else none, p⟩
    modify (fun s => s.post (s.mkMsg p (homeEp l.home) tok (.rowld (.dm l) m)))
    return .seq) s

/-! ## HM (R165) -/

/-- The key of a cached ATS translation: the partition's function, the die, the page. -/
def atsKey (p die page : Nat) : Nat := (p * 4 + die) * 2 ^ 52 + page

/-- Checks 1 to 3 of an HM access: the host address. A handler's access is refused at check 3. (DEDUCED: assumptions 75 and
110.) -/
def hmAccess (va n : Nat) : Act Nat := do
  checkAlign va n
  let s ← get
  let page := va / 4096
  match (s.ats.find? (fun e => e.1 == atsKey s.me.part (coreDie (coreOf s.cur)) page)).map (·.2) with
  | none =>
    if s.me.wait = .atsFault page then trap causePageFaultHm (w64 va) else blockWait (.ats page)
  | some hp =>
    if !(s.prt s.me.part).hgrant then trap causeAccess (w64 va)
    else do
      checkHandlerSpace (w64 va)
      return hp * 4096 + va % 4096

/-- `ldh`. -/
def execLdh (c : Ctl) (o : Ord) (d : LdDst) (base : WG) (off : WI) (s : State) : Host.Outcome State Fault Refusal :=
  runWord c (ldLane d) false (ldUses d base off) (fun g => do
    let va ← eaOf base off
    let a ← hmAccess va (ldBytes d)
    sendLoad .ls hostEp (.hmLoad a (ldBytes d) []) d g (ordAcq o) spaceHm a) s

/-- `sth`. -/
def execSth (c : Ctl) (o : Ord) (base : WG) (off : WI) (a : StSrc) (s : State) : Host.Outcome State Fault Refusal :=
  runWord c (stLane a) false (stUses base off a) (fun g => do
    let va ← eaOf base off
    let ea ← hmAccess va (stBytes a)
    let data ← storeData a g
    sendStore .ls hostEp (.hmStore ea data) (ordRel o) spaceHm ea data) s

/-- `ath`. -/
def execAth (c : Ctl) (o : Ord) (op : AtOp) (d : BitVec 5) (base : WG) (b : Src) (s : State) :
    Host.Outcome State Fault Refusal :=
  runWord c false false (atUses 0x7A d base b) (fun _ => do
    let ea ← hmAccess (← readWG base).toNat (atBytes op)
    let x ← readSrc64 .b64 b
    let cmp := (← getMe).w d.toNat
    sendAtomic .ls hostEp (.hmAtomic op ea x cmp) d (ordAcq o) (ordRel o)) s

/-! ## PM (R166) -/

/-- Checks 1 to 3 of a PM access. -/
def pmAccess (port : Nat) (va n : Nat) : Act Unit := do
  checkAlign va n
  let s ← get
  if !bitOf ((s.prt s.me.part).cfReg (0x48 + port)) 63 then trap causePageFaultPm (w64 va)
  else checkHandlerSpace (w64 va)

def pmFeat : Uses := { feats := [1] }

/-- `ldp`. -/
def execLdp (c : Ctl) (port : BitVec 3) (o : Bool) (d : LdDst) (base : WG) (off : WI) (s : State) :
    Host.Outcome State Fault Refusal :=
  runWord c (ldLane d) false ((ldUses d base off).and pmFeat) (fun g => do
    let va ← eaOf base off
    pmAccess port.toNat va (ldBytes d)
    sendLoad .ls (peerEp port.toNat) (.pmLoad va (ldBytes d)) d g o (spacePm port.toNat) va) s

/-- `stp`. -/
def execStp (c : Ctl) (port : BitVec 3) (o : Bool) (base : WG) (off : WI) (a : StSrc) (s : State) :
    Host.Outcome State Fault Refusal :=
  runWord c (stLane a) false ((stUses base off a).and pmFeat) (fun g => do
    let va ← eaOf base off
    pmAccess port.toNat va (stBytes a)
    let data ← storeData a g
    sendStore .ls (peerEp port.toNat) (.pmStore va data) o (spacePm port.toNat) va data) s

/-- `atp`. -/
def execAtp (c : Ctl) (port : BitVec 3) (o : Bool) (op : AtOp) (d : BitVec 5) (base : WG) (b : Src) (s : State) :
    Host.Outcome State Fault Refusal :=
  runWord c false false ((atUses 0x7D d base b).and pmFeat) (fun _ => do
    let va := (← readWG base).toNat
    pmAccess port.toNat va (atBytes op)
    let x ← readSrc64 .b64 b
    let cmp := (← getMe).w d.toNat
    sendAtomic .ls (peerEp port.toNat) (.pmAtomic op va x cmp) d o o) s

/-! ## MB and CF (R167, R168) -/

/-- A handler has no MB access; the spec gives TVAL for byte addresses and CF numbers, so here it is a free value.
(DESIGN CHOICE: assumption 35.) -/
def checkHandlerMb : Act Unit := do
  if (← getMe).kind = .handler then
    trapFix (fun s => (drawNat s).2) causeAccess (fun s => Config.freeWord (drawNat s).1)
  else return ()

/-- A read of a mailbox or of configuration: 8 bytes land in `wd`. -/
def sendRegRead (dst : Nat) (req : Req) (d : BitVec 5) (fill : PReg → Fill) (acq : Bool) : Act Ret := do
  waitSend .ls false
  let tok ← freshA
  let t ← getMe
  owe ⟨tok, [t.preg d.toNat], fill (t.preg d.toNat), [], acq, none, .ls⟩
  modify (fun s => s.post (s.mkMsg .ls dst tok req))
  return .seq

def sendWordRead (dst : Nat) (req : Req) (d : BitVec 5) : Act Ret := sendRegRead dst req d .word false

/-- A read of PREEMPT acquires what saved threads did (R344). What it returns is known only once it lands, so it holds the
thread's later accesses back whatever it returns. (DEDUCED: assumption 103.) -/
def cfReadFill (n : Nat) : PReg → Fill := if n = 0xD4 then .status else .word
def cfReadAcq (n : Nat) : Bool := n == 0xD4

/-- A write of a mailbox or of configuration. -/
def sendWordWrite (dst : Nat) (req : Req) : Act Ret := do
  waitSend .ls false
  modify (fun s => s.post (s.mkMsg .ls dst 0 req))
  return .seq

/-- `ldmb`. -/
def execLdmb (c : Ctl) (d : BitVec 5) (mb word : BitVec 15) (s : State) : Host.Outcome State Fault Refusal :=
  runScalar c (Uses.w d) (do
    checkHandlerMb
    sendWordRead (mbEp (← getMe).part) (.mbRead mb.toNat word.toNat false) d) s

/-- `ldmb.out`. -/
def execLdmbOut (c : Ctl) (d : BitVec 5) (mb word : BitVec 15) (s : State) : Host.Outcome State Fault Refusal :=
  runScalar c (Uses.w d) (do
    checkHandlerMb
    sendWordRead (mbEp (← getMe).part) (.mbRead mb.toNat word.toNat true) d) s

/-- `stmb`. -/
def execStmb (c : Ctl) (mb word : BitVec 15) (a : Src) (s : State) : Host.Outcome State Fault Refusal :=
  runScalar c ((Uses.src a).and { conflict := some 0x7F }) (do
    checkHandlerMb
    let v ← readSrc64 .b64 a
    sendWordWrite (mbEp (← getMe).part) (.mbWrite mb.toNat word.toNat v)) s

/-- The access classes of R168. -/
inductive CfClass where
  | ro | rw | shuone | unassigned
  deriving DecidableEq, Repr

/-- The class of a configuration register. -/
def cfClass (n : Nat) : CfClass :=
  if n < 0x40 then .rw
  else if n = 0x40 then .ro
  else if n = 0x41 then .rw
  else if 0x48 ≤ n ∧ n < 0x50 then .shuone
  else if n = 0x60 then .rw
  else if n = 0x61 ∨ n = 0x62 then .ro
  else if n = 0x70 then .rw
  else if n = 0x71 then .ro
  else if n = 0x72 ∨ n = 0x73 then .rw
  else if n = 0x80 then .rw
  else if n = 0x90 then .ro
  else if n = 0x91 then .rw
  else if 0xA0 ≤ n ∧ n ≤ 0xB0 then .rw
  else if n = 0xC0 then .ro
  else if n = 0xC1 then .rw
  else if n = 0xD0 then .ro
  else if 0xD1 ≤ n ∧ n ≤ 0xD6 then .rw
  else if 0xE0 ≤ n ∧ n < 0xE4 then .rw
  else .unassigned

/-- A register number: an immediate's 15 bits unsigned, or a register, whose higher bits are refused (R168) with the whole
register in TVAL. (DESIGN CHOICE: assumption 129.) -/
def cfNumber (num : WI) : Act Nat :=
  match num with
  | .imm v => return v.toNat
  | .w r => do
    let v := ((← getMe).w r.toNat).toNat
    if v < 2 ^ 15 then return v else trap causeAccess (w64 v)

/-- Check 3 of a CF access. -/
def cfCheck (n : Nat) (write : Bool) : Act Unit := do
  match cfClass n, write with
  | .shuone, _ => trap causeAccess (w64 n)
  | .ro, true => trap causeAccess (w64 n)
  | _, _ => checkHandlerSpace (w64 n)

/-- `ldcf`. -/
def execLdcf (c : Ctl) (d : BitVec 5) (num : WI) (s : State) : Host.Outcome State Fault Refusal :=
  runScalar c ((Uses.w d).and (Uses.wi num)) (do
    let n ← cfNumber num
    cfCheck n false
    sendRegRead (mbEp (← getMe).part) (.cfRead n) d (cfReadFill n) (cfReadAcq n)) s

/-- `stcf`. -/
def execStcf (c : Ctl) (num : WI) (a : Src) (s : State) : Host.Outcome State Fault Refusal :=
  runScalar c (((Uses.wi num).and (Uses.src a)).and { conflict := some 0x81 }) (do
    let n ← cfNumber num
    cfCheck n true
    let v ← readSrc64 .b64 a
    sendWordWrite (mbEp (← getMe).part) (.cfWrite n v)) s

/-! ## Fences (R84, R169) -/

/-- The paths of a class mask. -/
def classPaths (m : BitVec 6) : List Path :=
  (if m.getLsbD 0 then [Path.ls] else []) ++ (if m.getLsbD 1 then [.cp] else []) ++ (if m.getLsbD 2 then [.nb] else []) ++
  (if m.getLsbD 3 then [.am] else []) ++ (if m.getLsbD 4 then [.hp] else []) ++ (if m.getLsbD 5 then [.rg] else [])

/-- A fence joins those whose waits have not ended; one that has nothing to wait for leaves no trace. -/
def Thread.withFence (s : State) (ps : List Path) (t : Thread) : Thread :=
  if s.fenceWaits s.cur (ps, t.retired) then
    { t with fences := t.fences.filter (fun f => s.fenceWaits s.cur f) ++ [(ps, t.retired)] }
  else t

/-- `fence`: it holds back the thread's later accesses of its classes until the earlier ones have been performed, at
every scope. (DEDUCED: assumption 19.) -/
def execFence (c : Ctl) (_ : BitVec 3) (classes : BitVec 6) (s : State) : Host.Outcome State Fault Refusal :=
  runScalar c { conflict := some 0x82 } (do
    modify (fun s => s.modMe (Thread.withFence s (classPaths classes)))
    return .seq) s

end Sys2Proof.Machine
end

