-- ==== Sys2Proof/Machine/Copy.lean ====
section
/-!
DEFINITION. Copies (R258 to R276): the copy instructions, and the steps of a copy at its engine. A copy reads its
source in steps of 8 bytes and writes a row to SP, or delivers it, once it has been read whole. Rows start in ascending
order; the accesses of the rows in hand come in any order, as a free value chooses.
-/
namespace Sys2Proof.Machine

open Sys2Proof

/-! ## Issue (R260 to R262) -/

/-- FN of the data-moving copies (R260). -/
def copyFn (v : Bool) (grp : BitVec 2) (spc : CpySpace) : Nat :=
  (if v then 128 else 0) + grp.toNat * 32 + (match spc with | .dm => 0 | .sp => 1 | .hm => 2 | .pm p => 3 + 4 * p.toNat)

/-- A copy's parameters before it is accepted. -/
structure CopyArgs where
  kind : CopyKind
  space : CpySpace
  grp : Nat
  sbase : Nat
  ibase : Nat
  nrows : Nat
  rowb : Nat
  sstride : Nat
  dstride : Nat
  bound : Nat
  deriving DecidableEq, Repr

/-- The destination as the instruction names it: an SP address or a stream. -/
inductive CopyTo where
  | sp (a : Nat)
  | stream (k : Nat)
  deriving DecidableEq, Repr

/-- Check 1: a length. -/
def readLength (op : Nat) (fn : Nat) (len : WI) : Act Nat := do
  let v ← (match len with
    | .imm x => return x.toNat
    | .w r => do return ((← getMe).w r.toNat).toNat)
  if v % 8 = 0 ∧ v ≤ 2 ^ 24 - 8 then return v else illegalA op fn 5 3 (wiAny.enc len).toNat

/-- Whether a copy moves no byte. -/
def CopyArgs.empty (a : CopyArgs) : Bool := a.nrows == 0

/-- Check 3. -/
def checkMult8 (a : Nat) : Act Unit := if a % 8 = 0 then return () else trap causeMisaligned (w64 a)

/-- Checks 3 and 4 on an SP destination. -/
def checkCopySp (x : CopyArgs) (dst : Nat) : Act Unit := do
  checkMult8 dst
  checkMult8 x.sbase
  let s ← get
  if dst + (x.nrows - 1) * x.dstride + x.rowb ≤ s.spSize (s.prt s.me.part) then return ()
  else trap causeSpRange (w64 dst)

/-- Whether a copy with an id is still at work. -/
def State.copyLive (s : State) (id : Nat) : Bool := s.copies.any (fun e => e.2.any (fun c => c.id == id && !c.over))

/-- Whether a stream may be bound anew (R268). -/
def streamFree (s : State) (st : Stream) : Bool :=
  !st.bound || (st.buf.isEmpty && st.toCome == 0 && !s.copyLive st.copyId)

/-- Check 5. -/
def checkStream (k : Nat) : Act Unit := do
  let s ← get
  if streamFree s (s.me.stream k) then return () else trap causeStreamBusy (w64 k)

/-- A stream destination is bound to its copy. -/
def bindStream (tgt : CopyTo) (id : Nat) (x : CopyArgs) : Act Unit :=
  match tgt with
  | .stream k => modMeA (fun t => t.setStream k ⟨true, id, x.grp, [], x.nrows * x.rowb, 0, 0⟩)
  | .sp _ => return ()

/-- Check 6, and the copy goes to the task's engine and is counted. An engine that Shuone has disabled still takes the
copies of its cores, and a handler's copies are taken like any thread's. (DEDUCED: assumption 95.) -/
def acceptCopy (x : CopyArgs) (tgt : CopyTo) : Act Ret := do
  waitAccess .cp
  let id ← freshA
  let s ← get
  let t := s.me
  if 32 ≤ t.outAll ∨ 256 ≤ (s.engine t.copyEng).length then block
  else do
    let c : Copy :=
      { id := id, thr := s.cur, task := t.task, part := t.part, kind := x.kind, space := x.space, grp := x.grp
        sbase := x.sbase, ibase := x.ibase, nrows := x.nrows, rowb := x.rowb, sstride := x.sstride
        dstride := x.dstride, bound := x.bound
        dst := (match tgt with | .sp a => a | .stream k => k)
        stream := (match tgt with | .sp _ => none | .stream k => some k)
        started := false, row := 0, opened := 0, rows := [], index := [], indexed := 0, bad := none, ready := []
        skip := 0, age := t.retired, via := [], fault := none, finished := false }
    set (s.setEngine t.copyEng (s.engine t.copyEng ++ [c]))
    modMeA (fun t => t.setGroup x.grp { t.group x.grp with out := (t.group x.grp).out + 1 })
    bindStream tgt id x
    return .seq

/-- Checks 3 to 5. -/
def checkCopyTo (x : CopyArgs) (tgt : CopyTo) : Act Unit :=
  match tgt with
  | .sp a => if x.empty then return () else checkCopySp x a
  | .stream k => do
    (if x.empty then return () else checkMult8 x.sbase)
    checkStream k

/-- Checks 3 to 6. -/
def issueCopy (x : CopyArgs) (tgt : CopyTo) : Act Ret := do
  checkCopyTo x tgt
  acceptCopy x tgt

/-- The parameters of `cpy` and `cbind`: rows are the aligned words. -/
def lineArgs (spc : CpySpace) (grp : BitVec 2) (a len : Nat) : CopyArgs :=
  ⟨.cpy, spc, grp.toNat, a, 0, len / 8, 8, 8, 8, 0⟩

/-- `cpy` (R263). -/
def execCpy (c : Ctl) (grp : BitVec 2) (spc : CpySpace) (d : WG) (a : WG) (len : WI) (s : State) :
    Host.Outcome State Fault Refusal :=
  runScalar c ((((Uses.wg d).and (Uses.wg a)).and (Uses.wi len)).and { conflict := some 0xD0 }) (do
    let n ← readLength 0xD0 (copyFn false grp spc) len
    let dst ← readWG d
    let src ← readWG a
    issueCopy (lineArgs spc grp src.toNat n) (.sp dst.toNat)) s

/-- `cbind` (R263, R268). -/
def execCbind (c : Ctl) (grp : BitVec 2) (spc : CpySpace) (k : BitVec 3) (a : WG) (len : WI) (s : State) :
    Host.Outcome State Fault Refusal :=
  runScalar c (((Uses.wg a).and (Uses.wi len)).and { conflict := some 0xD4 }) (do
    let n ← readLength 0xD4 (copyFn false grp spc) len
    let src ← readWG a
    issueCopy (lineArgs spc grp src.toNat n) (.stream k.toNat)) s

/-! ## Descriptors (R261) -/

/-- Lane i of a descriptor. -/
def descLane (ls : Lanes) (i : Nat) : Nat := (ls.getD i 0#32).toNat

/-- The parameters as a descriptor gives them. -/
def descArgs (kind : CopyKind) (spc : CpySpace) (grp : BitVec 2) (ls : Lanes) : CopyArgs :=
  let base := descLane ls 0 + descLane ls 1 * 2 ^ 32
  match kind with
  | .cpyx keep => ⟨kind, spc, grp.toNat, base, 0, descLane ls 4, if keep then 136 else 128, 128, descLane ls 7, 0⟩
  | _ => ⟨kind, spc, grp.toNat, base, descLane ls 2 + descLane ls 3 * 2 ^ 32, descLane ls 4, descLane ls 5, descLane ls 6,
      descLane ls 7, descLane ls 8⟩

/-- The lanes of a descriptor that fail check 2, ascending. -/
def descBad (kind : CopyKind) (spc : CpySpace) (toStream : Bool) (ls : Lanes) : List Nat :=
  let x := match kind with | .cpyx _ => true | _ => false
  let g := match kind with | .cpyg _ => true | _ => false
  [(0, descLane ls 0 % (if x then 128 else 8) != 0),
   (1, spc == .sp && descLane ls 1 != 0),
   (2, g && descLane ls 2 % 4 != 0),
   (4, decide (2 ^ 24 ≤ descLane ls 4)),
   (5, !x && (descLane ls 5 % 8 != 0 || decide (descLane ls 5 < 8) || decide (65536 < descLane ls 5))),
   (6, !x && descLane ls 6 % 8 != 0),
   (7, !toStream && descLane ls 7 % 8 != 0)].filterMap (fun p => if p.2 then some p.1 else none)

def Uses.cpyDst : CpyDst → Uses
  | .sp w => Uses.w w
  | .stream _ => Uses.none

def readCpyDst : CpyDst → Act CopyTo
  | .sp w => do return .sp ((← getMe).w w.toNat).toNat
  | .stream k => return .stream k.toNat

def cpyToStream : CpyDst → Bool
  | .sp _ => false
  | .stream _ => true

/-- A copy with a descriptor. -/
def describedCopy (c : Ctl) (op : Nat) (kind : CopyKind) (grp : BitVec 2) (spc : CpySpace) (d : CpyDst) (desc : VReg)
    (s : State) : Host.Outcome State Fault Refusal :=
  runScalar c (((Uses.cpyDst d).and (Uses.vr desc)).and { conflict := some op }) (do
    let ls ← readVReg desc
    match descBad kind spc (cpyToStream d) ls with
    | i :: _ => trap causeCopyDesc (w64 i)
    | [] => do
      let tgt ← readCpyDst d
      issueCopy (descArgs kind spc grp ls) tgt) s

/-- `cpyg` (R265). -/
def execCpyg (c : Ctl) (strict : Bool) (grp : BitVec 2) (spc : CpySpace) (d : CpyDst) (desc : VReg) (s : State) :
    Host.Outcome State Fault Refusal := describedCopy c 0xD1 (.cpyg strict) grp spc d desc s
/-- `cpyx` (R266). -/
def execCpyx (c : Ctl) (keep : Bool) (grp : BitVec 2) (d : CpyDst) (desc : VReg) (s : State) :
    Host.Outcome State Fault Refusal := describedCopy c 0xD2 (.cpyx keep) grp .dm d desc s
/-- `cpys` (R264). -/
def execCpys (c : Ctl) (grp : BitVec 2) (spc : CpySpace) (d : CpyDst) (desc : VReg) (s : State) :
    Host.Outcome State Fault Refusal := describedCopy c 0xD3 .cpys grp spc d desc s

/-! ## Waiting, cancelling, status (R269 to R271) -/

/-- `cwait` (R269). -/
def execCwait (c : Ctl) (grp : BitVec 2) (n : WI) (s : State) : Host.Outcome State Fault Refusal :=
  runScalar c (Uses.wi n) (do
    let k ← readLimit 0xD5 grp.toNat 1 32 n
    let t ← getMe
    let g := t.group grp.toNat
    if k < g.out then block
    else if g.err then
      trapFix (fun s => s.modMe (fun t => t.clearGroupFault grp.toNat)) causeCopyFault (fun _ => groupWord g)
    else return .seq) s

/-- `ccancel` (R270). A multiply that one of the copies feeds ends as after a fault of that copy (R257). (DESIGN CHOICE: assumption
123.) -/
def execCcancel (c : Ctl) (grp : BitVec 2) (s : State) : Host.Outcome State Fault Refusal :=
  runScalar c { conflict := some 0xD6 } (do
    let s ← get
    let t := s.me
    let mine (x : Copy) : Bool := x.thr == s.cur && x.task == t.task && x.grp == grp.toNat
    let gone := (s.engine t.copyEng).filter mine
    let s1 := s.setEngine t.copyEng ((s.engine t.copyEng).filter (fun x => !mine x))
    let s2 := gone.foldl (fun s x => (cutJobs s (coreOf s.cur) x.id).modMe (fun t => unbindCopy t x)) s1
    set (s2.modMe (fun t => t.setGroup grp.toNat
      ⟨0, (t.group grp.toNat).done + w32 (t.group grp.toNat).out, false, 0, 0, 0⟩))
    return .seq) s

/-- `cstat` (R271). -/
def execCstat (c : Ctl) (grp : BitVec 2) (d : BitVec 5) (s : State) : Host.Outcome State Fault Refusal :=
  runScalar c (Uses.w d) (do
    setWA d (groupWord ((← getMe).group grp.toNat))
    return .seq) s

/-! ## At the engine: what a copy does next -/

/-- A byte of peer memory. -/
def peerKey (port va : Nat) : Nat := port * 2 ^ 64 + va

/-- What a read of a copy meets. -/
inductive CopyRead where
  | ok (bs : List Byte) (s : State)
  | fault (ecode : Nat)
  | wait

/-- A DM read of n bytes, which lie in one home unit; `sparse` is a `cpyx`, which reads SPARSE pages only (R266, R272). The
attribute comes before the home's refusal (R158). A walk that meets poison is poisoned data. (DESIGN CHOICE: assumption 126.) -/
def copyReadDm (s : State) (e p a n : Nat) (sparse : Bool) : CopyRead :=
  match lookupOrWalk s (engineBufs e) p a with
  | none => .fault (if decide (a < 2 ^ 48) && walkBad s p (a / 2 ^ 21) then 5 else 1)
  | some (l, s1) =>
    if l.attr = 2#2 ∧ sparseLimit < l.off + n then .fault 1
    else if sparse ∧ l.attr ≠ 2#2 then .fault 3
    else if frameOk s p l = false then .fault 2
    else if locBad s (.dm l) n then .fault 5
    else .ok (readLoc s p (.dm l) n) (noteSpans s1 l.home (readSpans s l n) 0#32)

/-- The ATS key of a copy's page: that of its engine's die. -/
def copyAtsKey (p e a : Nat) : Nat := atsKey p (e / 8) (a / 4096)

/-- 8 bytes of a source (R272); an address at or beyond 2^64 has no translation, nor has one beyond the partition's SP.
(DESIGN CHOICE: assumption 125.) -/
def copyReadWord (s : State) (e : Nat) (c : Copy) (a : Nat) : CopyRead :=
  match c.space with
  | .dm => copyReadDm s e c.part a 8 false
  | .sp =>
    match spPlace s (s.prt c.part) a with
    | none => .fault 1
    | some _ => .ok (readLoc s c.part (.sp a) 8) s
  | .hm =>
    if 2 ^ 64 ≤ a then .fault 1
    else match (s.ats.find? (fun x => x.1 == copyAtsKey c.part e a)).map (·.2) with
    | none => .wait
    | some hp =>
      if !(s.prt c.part).hgrant then .fault 2
      else .ok (s.hostMem.readN (hp * 4096 + a % 4096) 8) s
  | .pm port =>
    if bitOf (s.prt c.part).accept 1 && bitOf ((s.prt c.part).cfReg (0x48 + port.toNat)) 63 && decide (a < 2 ^ 64) then
      .ok (s.peerMem.readN (peerKey port.toNat a) 8) s
    else .fault 1

/-- The 136 bytes of `.keep` (R266). -/
def keepBlock (s : State) (l : DmLoc) : List Byte :=
  let bm := sparseBitmap s.mem l.frameBase (l.off / 128)
  let n := 2 * rankBelow bm 64
  s.mem.readN (l.frameBase + 8 * (l.off / 128)) 8 ++ s.mem.readN (l.frameBase + 131072 + 128 * (l.off / 128)) n ++
    List.replicate (128 - n) 0#8

/-- A block of `cpyx`, read in one step. -/
def copyReadBlock (s : State) (e : Nat) (c : Copy) (keep : Bool) (r : Nat) : CopyRead :=
  let a := c.sbase + 128 * r
  match copyReadDm s e c.part a 128 true with
  | .ok bs s1 =>
    (match lookupOrWalk s (engineBufs e) c.part a with
     | some (l, _) => .ok (if keep then keepBlock s l else bs) s1
     | none => .fault 1)
  | x => x

/-- The next piece of the indices of a batch of eight: one read for each home unit (R265). -/
def copyReadIndex (s : State) (e : Nat) (c : Copy) : CopyRead :=
  let a := c.ibase + 4 * c.indexed
  let left := 4 * (min c.nrows (8 * (c.indexed / 8) + 8) - c.indexed)
  let unit := match lookupOrWalk s (engineBufs e) c.part a with
    | some (l, _) => if l.attr = 0#2 then 4096 else 2 ^ 21
    | none => 4096
  copyReadDm s e c.part a (min left (unit - a % unit)) false

/-! ## Rows -/

/-- The 8-byte words of a row. -/
def Copy.words (c : Copy) : Nat := c.rowb / 8

def CRow.has (x : CRow) (w : Nat) : Bool := x.got.any (fun e => e.1 == w)
/-- A row read whole. -/
def CRow.full (x : CRow) (c : Copy) : Bool := x.got.length == c.words
/-- A word read. -/
def CRow.read (x : CRow) (w : Nat) (v : W64) : CRow := { x with got := SMap.ins w v x.got }
/-- The bytes of a row read whole. -/
def CRow.bytes (x : CRow) : List Byte := wordsBytes (x.got.map (·.2))

/-- The index of a row: its number, but for a gather. -/
def Copy.idx (c : Copy) (r : Nat) : Nat :=
  match c.kind with
  | .cpyg _ => SMap.get 0 c.index r
  | _ => r

/-- Whether the row is one of zeros, its index out of range (R265). -/
def Copy.oob (c : Copy) (r : Nat) : Bool :=
  match c.kind with
  | .cpyg _ => decide (c.bound ≤ c.idx r)
  | _ => false

/-- Rows at or above a failed one are not started, and none of them is delivered (R272). -/
def Copy.limit (c : Copy) : Nat := match c.bad with | some x => min x.1 c.nrows | none => c.nrows

/-- A copy with its first row not delivered brought up to date. -/
def Copy.advance (c : Copy) : Copy :=
  { c with row := match c.rows with | x :: _ => x.row | [] => min c.opened c.limit }

/-- A read of row r has failed: rows from r on are abandoned, those below go on (R272). -/
def Copy.fail (c : Copy) (r code : Nat) : Copy :=
  if r < c.limit then
    Copy.advance { c with bad := some (r, code), rows := c.rows.filter (fun x => decide (x.row < r)) }
  else c

/-- The SP address of a word. -/
def Copy.destOf (c : Copy) (r w : Nat) : Nat := c.dst + r * c.dstride + 8 * w

/-- Whether a copy has still to write one of n SP bytes. -/
def writesStill (c : Copy) (a n : Nat) : Bool :=
  c.stream.isNone && !c.over &&
  (List.range (c.limit - c.row)).any (fun i =>
    let r := c.row + i
    let b := c.destOf r 0
    (decide (c.opened ≤ r) || c.rows.any (fun x => x.row == r)) && decide (a < b + c.rowb) && decide (b < a + n))

/-- Whether row r of copy c waits for the writes of copy x: to its SP source, or to its SP destination (R258). -/
def rowWaits (c : Copy) (r : Nat) (x : Copy) : Bool :=
  (c.space == .sp && writesStill x (c.sbase + c.idx r * c.sstride) c.rowb) ||
  (c.stream.isNone && writesStill x (c.destOf r 0) c.rowb)

/-- Whether a row has to wait for an earlier copy of the thread. Waiting before the row starts, not within it, lets every
row in hand end (R276). -/
def rowHeldBack (cs : List Copy) (c : Copy) (r : Nat) : Bool :=
  (cs.takeWhile (fun x => x.id != c.id)).any (fun x => x.thr == c.thr && x.task == c.task && rowWaits c r x)

/-- Whether a lower row in hand has still to write the word at an address (R267). -/
def lowerWrites (c : Copy) (r a : Nat) : Bool :=
  c.rows.any (fun x => decide (x.row < r) && decide (c.destOf x.row 0 ≤ a) && decide (a < c.destOf x.row 0 + c.rowb) &&
    !x.put.contains ((a - c.destOf x.row 0) / 8))

/-- Bytes that jobs of the engine have still to take from a copy (R257), beyond those on their way. -/
def jobWants (s : State) (c : Copy) : Bool :=
  let need := (s.core (coreOf c.thr)).engine.jobs.foldl (fun n j => if j.copyId = c.id then n + j.need else n) 0
  decide (c.ready.length + c.rows.length * c.rowb < need)

/-- Whether the thread of a copy is being saved. -/
def copyStopping (s : State) (c : Copy) : Bool := s.runsCopy c && (s.thr c.thr).stop == 1

/-- The copies of a list that have to go on although their threads are being saved (R257): those that jobs of the engine
want bytes of, and the earlier ones that the next row of such a copy waits for (R258). -/
def goingOn (s : State) : List Copy → List Copy
  | [] => []
  | c :: cs =>
    let later := goingOn s cs
    if jobWants s c || later.any (fun x => x.thr == c.thr && x.task == c.task && rowWaits x x.opened c) then c :: later
    else later

/-- R276: no further row of copy c of engine e starts while its thread is being saved, but for the bytes of an `mma`. -/
def copyHeld (s : State) (e : Nat) (c : Copy) : Bool :=
  copyStopping s c && !(goingOn s (s.engine e)).any (fun x => x.id == c.id)

/-- R268: a copy pauses while its stream's buffer is full. -/
def copyPaused (s : State) (c : Copy) : Bool :=
  match c.stream with
  | some k => s.runsCopy c && decide (4096 ≤ ((s.thr c.thr).stream k).buf.length) && !jobWants s c
  | none => false

/-- R276: a copy at a row boundary: no row is in hand, or for a stream every row in hand has been read. -/
def Copy.atRow (c : Copy) : Bool :=
  match c.stream with
  | none => c.rows.isEmpty
  | some _ => c.rows.all (fun x => x.full c)

/-- What a copy does next: nothing now, a new state of itself (with the state its access leaves), or its end with a
fault. -/
inductive CopyNext where
  | idle
  | go (c : Copy) (s : State)
  | fault (ecode : Nat)

/-- An access of a copy, or the start or delivery of a row. -/
inductive CopyMove where
  | index
  | start
  | read (r w : Nat)
  | write (r w : Nat)
  | deliver
  deriving DecidableEq, Repr

/-- Words of 4 bytes. -/
def idxWords (bs : List Byte) : List Nat := (chunks 4 (bs.length / 4) bs).map leNat

/-- Indices read for rows from r on. -/
def Copy.takeIndices : Copy → List Nat → Copy
  | c, [] => c
  | c, i :: is => Copy.takeIndices { c with index := SMap.ins c.indexed i c.index, indexed := c.indexed + 1 } is

/-- R265: under `.strict` the first index out of range fails its row before that row or a later one starts. -/
def Copy.strictFail (c : Copy) (old : Nat) : Copy :=
  match c.kind with
  | .cpyg true =>
    match ((List.range (c.indexed - old)).map (fun i => old + i)).find? (fun r => decide (c.opened ≤ r) && c.oob r) with
    | some r => c.fail r 4
    | none => c
  | _ => c

/-- R265: a row of zeros is counted in OOBCNT, and raises OOB, as it is delivered: with its last SP word, or its first
stream byte. -/
def countOob (s : State) (c : Copy) : State :=
  let s1 := raiseTask s c.thr c.task flOOB
  if s1.runsCopy c then s1.modThr c.thr (fun t => { t with oobcnt := min 255 (t.oobcnt + 1) }) else s1

/-- A row has been delivered. -/
def Copy.drop (c : Copy) (r : Nat) : Copy :=
  Copy.advance { c with rows := c.rows.filter (fun x => x.row != r), index := SMap.del r c.index }
def rowDone (s : State) (c : Copy) (r : Nat) : State := if c.oob r then countOob s c else s

/-- A word of a row read. -/
def Copy.took (c : Copy) (r w : Nat) (v : W64) : Copy :=
  { c with rows := c.rows.map (fun x => if x.row = r then x.read w v else x) }

/-- One row in hand has read word w, or for `cpyx` its whole block. -/
def readMove (s : State) (e : Nat) (c : Copy) (r w : Nat) : CopyNext :=
  match c.kind with
  | .cpyx keep =>
    (match copyReadBlock s e c keep r with
     | .ok bs s1 => .go ((List.range c.words).foldl (fun c i => c.took r i ((bytesWords c.words bs).getD i 0#64)) c) s1
     | .fault k => .go (c.fail r k) s
     | .wait => .idle)
  | _ =>
    if c.oob r then .go (c.took r w 0#64) s
    else match copyReadWord s e c (c.sbase + c.idx r * c.sstride + 8 * w) with
      | .ok bs s1 => .go (c.took r w (bytesWord bs)) s1
      | .fault k => .go (c.fail r k) s
      | .wait => .idle

/-- A word of a row written to SP. -/
def writeMove (s : State) (c : Copy) (x : CRow) (w : Nat) : CopyNext :=
  let s1 := writeLoc s c.part (.sp (c.destOf x.row w)) ((wordBytes (SMap.get 0#64 x.got w)).map some)
  if c.words ≤ x.put.length + 1 then .go (c.drop x.row) (rowDone s1 c x.row)
  else .go { c with rows := c.rows.map (fun y => if y.row = x.row then { y with put := w :: y.put } else y) } s1

/-- A move made. -/
def runMove (s : State) (e : Nat) (c : Copy) (m : CopyMove) : CopyNext :=
  match m with
  | .index =>
    (match copyReadIndex s e c with
     | .ok bs s1 => .go ((c.takeIndices (idxWords bs)).strictFail c.indexed) s1
     | .fault k => .go (c.fail (max c.indexed c.opened) k) s
     | .wait => .idle)
  | .start => .go { c with opened := c.opened + 1, rows := c.rows ++ [⟨c.opened, [], []⟩] } s
  | .read r w => readMove s e c r w
  | .write r w =>
    (match c.rows.find? (fun x => x.row == r) with
     | some x => writeMove s c x w
     | none => .idle)
  | .deliver =>
    match c.rows with
    | x :: _ => .go { c.drop x.row with index := c.index.filter (fun i => decide (x.row ≤ i.1)), ready := x.bytes.drop c.skip, skip := 0 } s
    | [] => .idle

/-- Whether a gather may read further indices. -/
def Copy.mayIndex (c : Copy) : Bool :=
  match c.kind with
  | .cpyg _ => decide (c.indexed < c.limit)
  | _ => false

/-- Whether the indices of the batch of the row that starts next have all been read, as far as they are wanted (R265). -/
def Copy.batchRead (c : Copy) : Bool :=
  match c.kind with
  | .cpyg _ => decide (min c.limit (8 * (c.opened / 8) + 8) ≤ c.indexed)
  | _ => true

/-- Whether a further row may start: rows start in ascending order, so the rows above one that is held back wait with it.
(DESIGN CHOICE: assumption 42.) -/
def mayStart (s : State) (e : Nat) (c : Copy) : Bool :=
  decide (c.opened < c.limit) && !rowHeldBack (s.engine e) c c.opened && c.batchRead

/-- The reads of a row in hand still to be made. -/
def rowReads (c : Copy) (x : CRow) : List CopyMove :=
  match c.kind with
  | .cpyx _ => if x.full c then [] else [.read x.row 0]
  | _ => ((List.range c.words).filter (fun w => !x.has w)).map (fun w => .read x.row w)

/-- The writes of a row in hand that may be made. -/
def rowWrites (c : Copy) (x : CRow) : List CopyMove :=
  if c.stream.isNone && x.full c then
    ((List.range c.words).filter (fun w => !x.put.contains w && !lowerWrites c x.row (c.destOf x.row w))).map
      (fun w => .write x.row w)
  else []

/-- The moves of a copy that nothing holds back. -/
def copyMoves (s : State) (e : Nat) (c : Copy) : List CopyMove :=
  (if copyHeld s e c || copyPaused s c then []
   else (if c.mayIndex then [.index] else []) ++ (if mayStart s e c then [.start] else [])) ++
  (if copyPaused s c && !copyStopping s c then [] else c.rows.flatMap (rowReads c)) ++ c.rows.flatMap (rowWrites c) ++
  (match c.stream, c.rows with
   | some _, x :: _ => if x.full c && c.ready.isEmpty then [.deliver] else []
   | _, _ => [])

/-- Whether a move can be made now. -/
def canMove (s : State) (e : Nat) (c : Copy) (m : CopyMove) : Bool :=
  match runMove s e c m with
  | .go _ _ => true
  | _ => false

/-- One of several, chosen by a free value; a single one needs no choice. -/
def pickOne {α : Type} (s : State) : List α → Option (α × State)
  | [] => none
  | [x] => some (x, s)
  | x :: xs => some ((x :: xs).getD ((Config.freeWord (drawNat s).1).toNat % (xs.length + 1)) x, (drawNat s).2)

/-- The next step of a copy at its engine: one of the moves it can make, or its end where a read has failed and every
row below is delivered. (DESIGN CHOICE: assumption 42.) -/
def copyNext (s : State) (e : Nat) (c : Copy) : CopyNext :=
  if !c.started || c.over then .idle
  else match c.bad with
    | some (k, code) =>
      if c.row = k ∧ c.rows = [] ∧ c.ready = [] then .fault code else copyStep
    | none => copyStep
where
  copyStep : CopyNext :=
    match pickOne s ((copyMoves s e c).filter (canMove s e c)) with
    | some (m, s1) => runMove s1 e c m
    | none => .idle

/-- A copy replaced by its new state. -/
def putCopy (s : State) (e i : Nat) (c : Copy) : State := s.setEngine e ((s.engine e).set i c)

/-- One access of a copy (R258): the part of HOME_ACCEPT that concerns copies. -/
def copyAccept (s : State) (e i : Nat) : State :=
  match (s.engine e)[i]? with
  | none => s
  | some c =>
    match copyNext s e c with
    | .go c' s' => putCopy s' e i c'
    | _ => s

/-- The engine starts copies in the order in which they arrived (R258). -/
def execCopyStart (e i : Nat) (s : State) : Host.Outcome State Fault Refusal :=
  match (s.engine e)[i]? with
  | none => .next s
  | some c =>
    if !c.started && ((s.engine e).take i).all (fun x => x.started) then .next (putCopy s e i { c with started := true })
    else .next s

/-- The bytes of a row that arrived only in part: the `mma` that was to take them never does (R257). -/
def partialRow (c : Core) (id : Nat) : List Byte :=
  (c.engine.jobs.filter (fun j => j.copyId == id)).flatMap (fun j => j.got.drop (256 * (j.got.length / 256)))

/-- The copy ends with a fault at its first row not delivered (R272): its stream will get no more. -/
def faultCopy (s : State) (e i : Nat) (c : Copy) (ecode : Nat) : State :=
  let s1 := putCopy s e i { c with fault := some ecode, finished := true }
  match c.stream with
  | none => s1
  | some k =>
    let s2 := cutJobs s1 (coreOf c.thr) c.id
    let left := partialRow (s1.core (coreOf c.thr)) c.id
    if (s2.thr c.thr).active ∧ (s2.thr c.thr).task = c.task ∧ ((s2.thr c.thr).stream k).copyId = c.id then
      s2.modThr c.thr (fun t => t.setStream k { t.stream k with
        buf := left ++ (t.stream k).buf, toCome := 0, ecode := ecode, epos := c.row })
    else s2

/-- The source reads that a copy is about to make. -/
def pendingReads (s : State) (e : Nat) (c : Copy) : List CopyMove :=
  (copyMoves s e c).filter (fun m => match m with
    | .read r _ => !c.oob r
    | _ => false)

/-- Whether a read of a copy finds its source: one that the engine itself refuses ends with the ECODE of the refusal. -/
def readsSource (s : State) (e : Nat) (c : Copy) : CopyMove → Bool
  | .read r w =>
    (match copyReadWord s e c (c.sbase + c.idx r * c.sstride + 8 * w) with
     | .ok _ _ => true
     | _ => false)
  | _ => false

/-- The first read of a copy that waits for an ATS translation: its row and address (R165). -/
def copyAwaits (s : State) (e : Nat) (c : Copy) : Option (Nat × Nat) :=
  (pendingReads s e c).findSome? (fun m => match m with
    | .read r w =>
      let a := c.sbase + c.idx r * c.sstride + 8 * w
      match copyReadWord s e c a with
      | .wait => some (r, a)
      | _ => none
    | _ => none)

/-- A copy ends where a source read has failed (R272). A read that the port sends may also fail at the peer, where nothing in
the package shows it. (DESIGN CHOICE: assumption 45.) -/
def execCopySourceFault (e i : Nat) (s : State) : Host.Outcome State Fault Refusal :=
  match (s.engine e)[i]? with
  | none => .next s
  | some c =>
    match copyNext s e c, c.space with
    | .fault k, _ => .next (faultCopy s e i c k)
    | .go _ _, .pm _ =>
      (match pickOne s ((pendingReads s e c).filter (readsSource s e c)) with
       | some (.read r _, s1) => .next (putCopy s1 e i (c.fail r 6))
       | _ => .next s)
    | _, _ => .next s

/-- A job that is still owed bytes of a copy takes some (R257). -/
def feedJob (id : Nat) (bs : List Byte) (j : MmaJob) : MmaJob :=
  if j.copyId = id ∧ j.need ≠ 0 then { j with got := j.got ++ bs, need := j.need - bs.length } else j

/-- Bytes of a finished row arrive (R268): first those that an `mma` has taken in advance, then the buffer's, up to
4 KiB. -/
def arriveBytes (s : State) (e i : Nat) (c : Copy) (k : Nat) : State :=
  let t := s.thr c.thr
  let st := t.stream k
  let js := (s.core (coreOf c.thr)).engine.jobs
  let need := js.foldl (fun n j => if j.copyId = c.id then n + j.need else n) 0
  let d := min need c.ready.length
  let n := min (c.ready.length - d) (4096 - st.buf.length)
  let s1 := s.modCore (coreOf c.thr) (fun x => { x with engine := { x.engine with
    jobs := x.engine.jobs.map (feedJob c.id (c.ready.take d)) } })
  let s2 := s1.modThr c.thr (fun t => t.setStream k
    { st with buf := st.buf ++ (c.ready.drop d).take n, toCome := st.toCome - n })
  let s3 := if c.ready.length = c.rowb ∧ 0 < d + n then rowDone s2 c (c.row - 1) else s2
  putCopy s3 e i { c with ready := c.ready.drop (d + n) }

def execStreamBytesArrive (e i : Nat) (s : State) : Host.Outcome State Fault Refusal :=
  match (s.engine e)[i]? with
  | none => .next s
  | some c =>
    match c.stream with
    | none => .next s
    | some k =>
      if (s.thr c.thr).active ∧ (s.thr c.thr).task = c.task ∧ ((s.thr c.thr).stream k).copyId = c.id ∧ c.ready ≠ [] then
        .next (arriveBytes s e i c k)
      else .next s

/-- A copy counted in its group (R259, R272). -/
def countCopy (g : Group) (c : Copy) : Group :=
  let g1 := { g with out := g.out - 1, done := g.done + 1#32 }
  match c.fault with
  | some k => if g1.err then g1 else { g1 with err := true, ecode := k, epos := c.row, src := c.id }
  | none => g1

/-- COPYERR one higher (R273). -/
def copyErr (p : Part) : Part := p.setCf 0x80 (w64 ((fieldOf (p.cfReg 0x80) 0 32 + 1) % 2 ^ 32))

/-! ## Forwarding (R297) -/

/-- The entry of a task that has moved away from a core. -/
def State.fwdOf (s : State) (core : Nat) (task : W64) : Option Fwd := (s.core core).fwd.find? (fun f => f.task == task)

/-- Whether a task is owed a message at a core that it leaves or has left, or at one before it, from which messages are
sent on to this one: one on its way, a request that may still be answered, a steal that waits for its decision, or the
bytes and the completion of a copy that it issued before it left. -/
def fwdOwed (s : State) (core : Nat) (task : W64) : Bool :=
  let behind (m : Msg) : Bool :=
    m.task == task && (coreOf m.thr == core || (s.fwdOf (coreOf m.thr) task).isSome)
  s.inFlight.any behind || s.cores.any (fun c => c.2.fwdIn.any behind) ||
  s.homes.any (fun h => h.2.queues.any (fun q => q.2.steals.any behind)) ||
  s.copies.any (fun e => e.2.any (fun c => c.task == task && c.via.contains core))

/-- Entries that are owed nothing more are free. -/
def freeFwd (s : State) (core : Nat) : State :=
  s.modCore core (fun c => { c with fwd := c.fwd.filter (fun f => fwdOwed s core f.task) })

/-- A copy has left its engine: the entries that it came through may be free. -/
def copyGone (s : State) (c : Copy) : State := c.via.foldl freeFwd s

/-- A copy that has finished is counted complete, in issue order in its group (R259). -/
def execCopyFinish (e i : Nat) (s : State) : Host.Outcome State Fault Refusal :=
  match (s.engine e)[i]? with
  | none => .next s
  | some c =>
    if c.over && !((s.engine e).take i).any (fun x => x.thr == c.thr && x.task == c.task && x.grp == c.grp) then
      let s1 := copyGone (s.setEngine e ((s.engine e).eraseIdx i)) c
      if (s1.thr c.thr).active ∧ (s1.thr c.thr).task = c.task then
        .next (s1.modThr c.thr (fun t => t.setGroup c.grp (countCopy (t.group c.grp) c)))
      else if c.fault.isSome then .next (s1.modPart c.part copyErr)
      else .next s1
    else .next s

end Sys2Proof.Machine
end

