-- ==== Sys2Proof/Machine/Solera.lean ====
section
/-!
DEFINITION. The Solera ring (R304 to R326): positions, the slot instructions, and what a station does with the slot
that passes it. Ring time counts ring cycles; slot k is at position (k + t) mod 1,280 at time t, and leaves its origin
at the times that are multiples of 1,280.
-/
namespace Sys2Proof.Machine

open Sys2Proof

def ringSize : Nat := 1280

/-! ## Stations (R304, R305) -/

/-- The ring position of a core. -/
def ringPos (c : Nat) : Nat :=
  let x := coreX c
  let y := coreY c
  let k := if y % 2 = 0 then x else 31 - x
  160 * (y / 4) + (match y % 4 with
    | 0 => k
    | 1 => (if isCellar c then 33 else 32) + 2 * k
    | 2 => 96 + k
    | _ => 128 + k)

/-- The cellar core of an attach router's tile (R9). -/
def cellarAt (x y : Nat) : Nat := 1024 + 64 * dieOf x y + 16 * (y % 16 / 4) + x % 16

/-- The core at a ring position. -/
def ringCore (pos : Nat) : Nat :=
  let g := pos / 160
  let o := pos % 160
  if o < 32 then 32 * (4 * g) + o
  else if o < 96 then
    let x := 31 - (o - 32) / 2
    if o % 2 = 0 then 32 * (4 * g + 1) + x else cellarAt x (4 * g + 1)
  else if o < 128 then 32 * (4 * g + 2) + (o - 96)
  else 32 * (4 * g + 3) + (31 - (o - 128))

/-- The distance of a position from the origin of slot k (R305). -/
def ringDist (k pos : Nat) : Nat := (pos + 2 * ringSize - k - 1) % ringSize + 1
/-- The first time after `t` at which slot k passes a position. -/
def nextPass (k pos t : Nat) : Nat := t + 1 + (pos + 2 * ringSize - (k + t + 1) % ringSize) % ringSize
/-- How often a slot has left its origin before a passage at time t; REV shows it modulo 2^16. (DEDUCED: assumption 38.) -/
def ringRev (t : Nat) : Nat := (t - 1) / ringSize

/-- The ring slot of a pool-relative number. -/
def poolSlot (p : Part) (k : Nat) : Nat := p.poolBase + k
def inPool (p : Part) (k : Nat) : Bool := decide (p.poolBase ≤ k) && decide (k < p.poolBase + p.poolSize)
/-- SLPOOL (R307). -/
def slpoolWord (p : Part) : W64 := w64 (p.poolBase * 2 ^ 32 + p.poolSize)

/-! ## The instructions: posting and landing (R315) -/

def slNumber : SlotOp → Act Nat
  | .sl k => return k.toNat
  | .w r => do return ((← getMe).w r.toNat).toNat

/-- Check 1 of R315. -/
def slCheck (k : Nat) : Act Unit := do
  let s ← get
  if (s.prt s.me.part).poolSize ≤ k then trap causeSlotProt (w64 k) else return ()

/-- The thread waits for its request; a queue it read stays reserved for it. -/
def slPost (kind : SlKind) (k word : Nat) (src : Option Src) (s : State) : State :=
  let s1 := match src with
    | some (.q q) => joinReaders q.toNat s
    | _ => s
  s1.modMe (fun t => { t with wait := .slot ⟨kind, k, word, s.ringTime⟩ })

/-- A slot instruction: it posts, waits, and lands what its passage gave. `slot` is absent for `slboard`, and `src` is
the scalar source whose value goes with the request. -/
def slRun (slot : Option SlotOp) (word : Nat) (src : Option Src) (kind : W64 → Act SlKind)
    (land : List W64 → Bool → Act Unit) : Act Ret := do
  match (← getMe).wait with
  | .slotDone (.trap code tval) => trap code tval
  | .slotDone (.ok ws c fl) => do
    let _ ← (match src with | some a => readSrc64 .b64 a | none => return 0#64)
    land ws c
    raiseA fl
    return .seq
  | .slot _ => block
  | _ => do
    let k ← (match slot with
      | some o => do
        let k ← slNumber o
        slCheck k
        return k
      | none => return 0)
    let v ← (match src with | some a => readSrc64 .b64 a | none => return 0#64)
    let kd ← kind v
    waitAccess .rg
    blockWith (slPost kd k word src)

/-- Refused inside a region (R294, R326). -/
def slUses (op : Nat) : Uses := { conflict := some op }

/-- A pair written in every lane (R315). -/
def setPairAll (p : Pair) (c : Bool) : Act Unit :=
  modMeA (fun t =>
    let m : W32 := if c then 0xFFFFFFFF#32 else 0#32
    (((t.setPred p.pt.toNat m).setPred p.pf.toNat (~~~m)).markLive p.pt.toNat).markLive p.pf.toNat)

/-- A destination of `slrd` and `slalight`: word j, or the payload in lanes 0 to 15 and 0 above (R316). -/
def landLd (d : LdDst) (p : Pair) (ws : List W64) (c : Bool) : Act Unit := do
  match d with
  | .w _ r => setWA r (ws.getD 0 0#64)
  | .v r => writeVReg r allLanes (bytesLanes 16 (wordsBytes ws) ++ List.replicate 16 0#32)
  setPairAll p c

def landW (d : BitVec 5) (ws : List W64) (_ : Bool) : Act Unit := setWA d (ws.getD 0 0#64)

/-- `slrd` (R316). -/
def execSlrd (c : Ctl) (j : BitVec 3) (d : LdDst) (sl : SlotOp) (p : Pair) (s : State) :
    Host.Outcome State Fault Refusal :=
  runScalar c (((Uses.ldDst d).and (Uses.slotOp sl)).and (slUses 0xB0))
    (slRun (some sl) j.toNat none (fun _ => return .rd (ldLane d)) (landLd d p)) s

/-- `slcas` (R318): the comparand is read at issue. -/
def execSlcas (c : Ctl) (j : BitVec 3) (_ : Ty) (d : BitVec 5) (sl : SlotOp) (b : Src) (s : State) :
    Host.Outcome State Fault Refusal :=
  runScalar c ((((Uses.w d).and (Uses.slotOp sl)).and (Uses.src b)).and (slUses 0xB1))
    (slRun (some sl) j.toNat (some b) (fun v => do return .cas ((← getMe).w d.toNat) v) (landW d)) s

/-- `sladd` (R317); an immediate is converted to the type (R34). -/
def execSladd (c : Ctl) (j : BitVec 3) (t : Ty) (d : BitVec 5) (sl : SlotOp) (b : Src) (s : State) :
    Host.Outcome State Fault Refusal :=
  runScalar c ((((Uses.w d).and (Uses.slotOp sl)).and (Uses.src b)).and (slUses 0xB2))
    (slRun (some sl) j.toNat (some b) (fun v => do
      match b with
      | .imm x => return .add t (w64 (immVal t x))
      | _ => return .add t v) (landW d)) s

/-- `slswap` (R318). -/
def execSlswap (c : Ctl) (j : BitVec 3) (_ : Ty) (d : BitVec 5) (sl : SlotOp) (b : Src) (s : State) :
    Host.Outcome State Fault Refusal :=
  runScalar c ((((Uses.w d).and (Uses.slotOp sl)).and (Uses.src b)).and (slUses 0xB3))
    (slRun (some sl) j.toNat (some b) (fun v => return .swap v) (landW d)) s

/-- `slboard` (R319). ZSKIP counts the lanes of a vector source in the pass that completes (R96). -/
def execSlboard (c : Ctl) (_ : BitVec 3) (d : BitVec 5) (a : SlSrc) (p : Pair) (s : State) :
    Host.Outcome State Fault Refusal :=
  let land (ws : List W64) (cc : Bool) : Act Unit := do
    setWA d (ws.getD 0 0#64)
    setPairAll p cc
  match a with
  | .s _ x =>
    runScalar c (((Uses.w d).and (Uses.src x)).and (slUses 0xB4))
      (slRun none 0 (some x) (fun v => return .board [v, 0#64, 0#64, 0#64, 0#64, 0#64, 0#64, 0#64]) land) s
  | .v r =>
    runScalar c (((Uses.w d).and (Uses.vr r)).and (slUses 0xB4))
      (slRun none 0 none (fun _ => do return .board (bytesWords 8 (lanesBytes (← readVReg r)))) (fun ws cc => do
        noteReads ((← getMe).vreg ((← getMe).vIdx r))
        land ws cc)) s

/-- `slalight` (R320). -/
def execSlalight (c : Ctl) (j : BitVec 3) (d : LdDst) (sl : SlotOp) (p : Pair) (s : State) :
    Host.Outcome State Fault Refusal :=
  runScalar c (((Uses.ldDst d).and (Uses.slotOp sl)).and (slUses 0xB5))
    (slRun (some sl) j.toNat none (fun _ => return .alight (ldLane d)) (landLd d p)) s

/-- `slwait` (R321). -/
def execSlwait (c : Ctl) (j : BitVec 3) (_ : Ty) (d : BitVec 5) (sl : SlotOp) (b : Src) (s : State) :
    Host.Outcome State Fault Refusal :=
  runScalar c ((((Uses.w d).and (Uses.slotOp sl)).and (Uses.src b)).and (slUses 0xB6))
    (slRun (some sl) j.toNat (some b) (fun v => return .wait v) (landW d)) s

/-- `slwait.rev` (R321). -/
def execSlwaitRev (c : Ctl) (d : BitVec 5) (sl : SlotOp) (b : Src) (s : State) : Host.Outcome State Fault Refusal :=
  runScalar c ((((Uses.w d).and (Uses.slotOp sl)).and (Uses.src b)).and (slUses 0xB6))
    (slRun (some sl) 0 (some b) (fun v => return .waitRev v) (landW d)) s

/-- `slinfo.pool` (R322). -/
def execSlinfoPool (c : Ctl) (d : BitVec 5) (s : State) : Host.Outcome State Fault Refusal :=
  runScalar c ((Uses.w d).and (slUses 0xB7)) (do
    let s ← get
    setWA d (slpoolWord (s.prt s.me.part))
    return .seq) s

/-- `slinfo.stn` (R322). -/
def execSlinfoStn (c : Ctl) (d : BitVec 5) (s : State) : Host.Outcome State Fault Refusal :=
  runScalar c ((Uses.w d).and (slUses 0xB7)) (do
    let co := coreOf (← get).cur
    setWA d (w64 (ringPos co + (if isCellar co then 2 ^ 16 else 0)))
    return .seq) s

/-- `slinfo.hdr` (R322). -/
def execSlinfoHdr (c : Ctl) (d : BitVec 5) (sl : SlotOp) (s : State) : Host.Outcome State Fault Refusal :=
  runScalar c (((Uses.w d).and (Uses.slotOp sl)).and (slUses 0xB7))
    (slRun (some sl) 0 none (fun _ => return .hdr) (landW d)) s

/-! ## A passage (R311) -/

/-- The header of a slot (R306). -/
def slotHeader (k : Nat) (x : RSlot) (t : Nat) : W64 :=
  let st := match x.state with | .empty => 0 | .full => 1 | .poison => 2
  w64 (ringRev t % 2 ^ 16 * 2 ^ 24 + st * 2 ^ 22 + x.part % 64 * 2 ^ 16 + k % 2048)

def zeroPayload : List W64 := List.replicate 8 0#64
/-- A slot made EMPTY. -/
def RSlot.emptied (x : RSlot) : RSlot := { x with state := .empty, words := zeroPayload }

/-- A thread's pending request that this passage may serve. -/
def slPending (s : State) (k time : Nat) (t : Nat) : Option SlReq :=
  let th := s.thr t
  match th.wait with
  | .slot r =>
    let pt := s.prt th.part
    match r.kind with
    | .board _ => if r.posted < time ∧ time ≤ r.posted + ringSize ∧ inPool pt k = true then some r else none
    | _ => if r.posted < time ∧ poolSlot pt r.slot = k then some r else none
  | _ => none

/-- The requests of a core for a slot, in ascending thread order. -/
def slRequests (s : State) (core k time : Nat) : List (Nat × SlReq) :=
  (s.coreThreads core).filterMap (fun t => (slPending s k time t).map (fun r => (t, r)))

def slAnswer (s : State) (t : Nat) (r : SlRes) : State := s.modThr t (fun x => { x with wait := .slotDone r })
def slIsBoard : SlKind → Bool
  | .board _ => true
  | _ => false
def slIsRead : SlKind → Bool
  | .rd _ | .wait _ | .waitRev _ | .hdr => true
  | _ => false

/-- The word of a slot as a read takes it: 0 where it is EMPTY. -/
def slotWord (x : RSlot) (j : Nat) : W64 := match x.state with | .full => x.words.getD j 0#64 | _ => 0#64

/-- A read served (R316, R321, R322); `none` where its condition does not hold. -/
def slRead (k : Nat) (x : RSlot) (time : Nat) (r : SlReq) : Option SlRes :=
  match r.kind with
  | .rd vec =>
    let ws := if vec then (if x.state = .full then x.words else zeroPayload) else [slotWord x r.word]
    some (.ok ws (x.state == .full) 0#7)
  | .wait b => if slotWord x r.word = b then none else some (.ok [slotWord x r.word] false 0#7)
  | .waitRev b => if ringRev time % 2 ^ 16 = b.toNat % 2 ^ 16 then none else some (.ok [w64 (ringRev time % 2 ^ 16)] false 0#7)
  | _ => some (.ok [slotHeader k x time] false 0#7)

/-- The types of two `sladd` that combine; `.i64` and `.b64` act alike. (DEDUCED: assumption 39.) -/
def slSameTy (a b : Ty) : Bool := a == b || (tyWidth a == 64 && tyWidth b == 64 && !tyFloat a && !tyFloat b)

/-- One addition of `sladd` (R317): the value received, the new word, the flags. -/
def slAdd (t : Ty) (old b : W64) : W64 × W64 × Fl :=
  match t with
  | .f32 =>
    let r := fAdd fmtF32 (old.toNat % 2 ^ 32) (b.toNat % 2 ^ 32)
    (w64 (old.toNat % 2 ^ 32), withField old 0 32 r.1, r.2)
  | .f56 =>
    let r := fAdd fmtF56 (old.toNat % 2 ^ 56) (b.toNat % 2 ^ 56)
    (old, w64 r.1, r.2)
  | _ => (old, old + b, 0#7)

/-- Combined additions, in ascending thread order (R312). -/
def slAdds (s : State) (w : W64) : List (Nat × Ty × W64) → State × W64
  | [] => (s, w)
  | (t, ty, b) :: rest =>
    let r := slAdd ty w b
    slAdds (slAnswer s t (.ok [r.1] false r.2.2)) r.2.1 rest

/-- The `sladd` requests that join the chosen one. -/
def slJoined (rs : List (Nat × SlReq)) (word : Nat) (ty : Ty) : List (Nat × Ty × W64) :=
  rs.filterMap (fun x =>
    match x.2.kind with
    | .add t b => if x.2.word = word ∧ slSameTy t ty = true then some (x.1, t, b) else none
    | _ => none)

def slEmptyTrap (r : SlReq) : SlRes := .trap causeSlotEmpty (w64 r.slot)

/-- The one rewrite of a passage: the request of the lowest thread slot, with what joins it. -/
def slRewrite (s : State) (k : Nat) (rs : List (Nat × SlReq)) : State :=
  match rs with
  | [] => s
  | (t, r) :: _ =>
    let x := s.slot k
    match r.kind with
    | .add ty _ =>
      let js := slJoined rs r.word ty
      if x.state = .full then
        let a := slAdds s (x.words.getD r.word 0#64) js
        a.1.setSlot k { x with words := x.words.set r.word a.2 }
      else js.foldl (fun s j => slAnswer s j.1 (slEmptyTrap r)) s
    | .cas cmp b =>
      if x.state = .full then
        let old := x.words.getD r.word 0#64
        slAnswer (s.setSlot k { x with words := x.words.set r.word (if old = cmp then b else old) }) t (.ok [old] false 0#7)
      else slAnswer s t (slEmptyTrap r)
    | .swap b =>
      if x.state = .full then
        slAnswer (s.setSlot k { x with words := x.words.set r.word b }) t (.ok [x.words.getD r.word 0#64] false 0#7)
      else slAnswer s t (slEmptyTrap r)
    | .alight vec =>
      if x.state = .full then
        slAnswer (s.setSlot k x.emptied) t (.ok (if vec then x.words else [x.words.getD r.word 0#64]) true 0#7)
      else slAnswer s t (.ok (if vec then zeroPayload else [0#64]) false 0#7)
    | .board payload =>
      slAnswer (s.setSlot k { x with state := .full, words := payload }) t
        (.ok [w64 (k - (s.prt (s.thr t).part).poolBase)] true 0#7)
    | _ => s

/-- SLERR.CORR one higher. -/
def slerrCorr (p : Part) : Part := p.setCf 0xC1 (withField (p.cfReg 0xC1) 32 32 (fieldOf (p.cfReg 0xC1) 32 32 + 1))
/-- The poison of a ring slot is consumed: SLERR.POISON one higher, saturating, and LAST the slot (R323). -/
def slerrPoison (k : Nat) (p : Part) : Part :=
  p.setCf 0xC1 (withField (withField (p.cfReg 0xC1) 24 8 (min 255 (fieldOf (p.cfReg 0xC1) 24 8 + 1))) 0 11 k)

/-- A header error is reported (R323, R338, R339): no thread is at fault, so CORE and SLOT are free values. -/
def slHeaderError (s : State) (k : Nat) : State :=
  match (List.range 48).find? (fun p => (s.prt p).present && inPool (s.prt p) k) with
  | some p =>
    let d := drawNat (s.setSlot k { RSlot.init with state := .poison })
    let v := (Config.freeWord d.1).toNat
    contain d.2 p 0xF0 (v % 2048) (v / 2048 % 16) (s.prt p).resident 0#64
  | none => s.setSlot k { RSlot.init with state := .poison }

/-- The ECC check of a passing slot (R323). -/
def slEcc (s : State) (k : Nat) : State :=
  let x := s.slot k
  match x.err with
  | 0 => s
  | 1 => (s.setSlot k { x with err := 0 }).modPart x.part slerrCorr
  | 2 => s.setSlot k { x with err := 0, state := .poison }
  | _ => slHeaderError s k

/-- The token of an unwind raised at a station (R341), where it is due, on a slot kept POISON by a header error too (R339).
(DESIGN CHOICE: assumption 139.) -/
def slRaise (s : State) (p core k : Nat) : Option State :=
  let pt := s.prt p
  match pt.containing with
  | .unwind (some c) del _ =>
    if c = core ∧ k = poolSlot pt pt.unwslot then
      let x := s.slot k
      let x' := match x.state with
        | .full => { x with words := x.words.set 7 1#64 }
        | _ => { x with state := .full, words := zeroPayload.set 7 1#64 }
      let s1 := (s.setSlot k x').modPart p (fun q => { q with containing := .unwind none del (slotWord x 0) })
      some (if x.state = .poison then s1.modPart p (slerrPoison k) else s1)
    else none
  | _ => none

/-- UNWIND delivered to one thread: a blocked instruction is abandoned, one that has taken effect completes first. -/
def deliverUnwind (s : State) (t : Nat) (step : W64) : State :=
  s.modThr t (fun x => { x with async := x.async ++ [(causeUnwind, step)], stop := if x.stop = 3 then 0 else x.stop })

/-- The token read as the slot arrives (R341). -/
def slDeliver (s : State) (p core k : Nat) (x : RSlot) : State :=
  let pt := s.prt p
  match pt.containing with
  | .unwind r del _ =>
    if k = poolSlot pt pt.unwslot ∧ slotWord x 7 ≠ 0#64 ∧ del.contains core = false then
      let s1 := s.modPart p (fun q => { q with containing := .unwind r (core :: del) (slotWord x 0) })
      ((s1.coreThreads core).filter (fun t => (s1.thr t).part == p)).foldl (fun s t => deliverUnwind s t (slotWord x 0)) s1
    else s
  | _ => s

/-- The requests of a station served (R311). -/
def slServe (s : State) (core k time : Nat) (x : RSlot) (turnTaken : Bool) : State :=
  let rs := slRequests s core k time
  let bad := rs.filter (fun r => x.part != (s.thr r.1).part && (!slIsBoard r.2.kind || x.state == .empty))
  let s1 := bad.foldl (fun s r => slAnswer s r.1 (.trap causeSlotProt
    (w64 (if slIsBoard r.2.kind then k - (s.prt (s.thr r.1).part).poolBase else r.2.slot)))) s
  let good := rs.filter (fun r => x.part == (s.thr r.1).part)
  let strikes := good.filter (fun r => !slIsBoard r.2.kind && !(r.2.kind == .hdr))
  let reads := good.filter (fun r => slIsRead r.2.kind && (x.state != .poison || r.2.kind == .hdr))
  let s2 := reads.foldl (fun s r =>
    match slRead k x time r.2 with
    | some a => slAnswer s r.1 a
    | none => s) s1
  if x.state == .poison && !strikes.isEmpty then
    let s3 := strikes.foldl (fun s r => slAnswer s r.1 (.trap causeSlotPoison (w64 r.2.slot))) s2
    if turnTaken then s3 else (s3.setSlot k x.emptied).modPart x.part (slerrPoison k)
  else
    let writes := good.filter (fun r => !slIsRead r.2.kind && (!slIsBoard r.2.kind || x.state == .empty))
    if turnTaken then s2 else slRewrite s2 k writes

/-- A slot passes a station at a time. -/
def slPass (s : State) (core k time : Nat) : State :=
  let s1 := slEcc s k
  let x := s1.slot k
  let raised := (List.range 48).findSome? (fun p => slRaise s1 p core k)
  let s2 := slServe (raised.getD s1) core k time x raised.isSome
  (List.range 48).foldl (fun s p => slDeliver s p core k x) s2

/-! ## Which passage comes next -/

/-- The time of slot k's next passage at a position: now, where it is there and its passage is not over. -/
def passTime (s : State) (k pos : Nat) : Nat :=
  if 1 ≤ s.ringTime ∧ (k + s.ringTime) % ringSize = pos ∧ s.ringDone.contains k = false then s.ringTime
  else nextPass k pos s.ringTime

/-- The same for a request posted at a time: later than that. -/
def requestTime (s : State) (k pos posted : Nat) : Nat :=
  if passTime s k pos ≤ posted then nextPass k pos s.ringTime else passTime s k pos

/-- The times at which a thread's request meets a slot that may serve it. -/
def slMeets (s : State) (t : Nat) : List Nat :=
  let th := s.thr t
  let pt := s.prt th.part
  let pos := ringPos (coreOf t)
  match th.wait with
  | .slot r =>
    match r.kind with
    | .board _ =>
      (List.range pt.poolSize).filterMap (fun k =>
        if (s.slot (poolSlot pt k)).state = .empty then some (requestTime s (poolSlot pt k) pos r.posted) else none)
    | _ => [requestTime s (poolSlot pt r.slot) pos r.posted]
  | _ => []

/-- The end of an `slboard`'s 1,280 ring cycles. -/
def slDeadline (s : State) (t : Nat) : List Nat :=
  match (s.thr t).wait with
  | .slot r => if slIsBoard r.kind then [r.posted + ringSize] else []
  | _ => []

/-- The times that an unwind waits for. -/
def slUnwindTimes (s : State) (p : Nat) : List Nat :=
  let pt := s.prt p
  let k := poolSlot pt pt.unwslot
  match pt.containing with
  | .unwind (some c) _ _ => [passTime s k (ringPos c)]
  | .unwind none del _ =>
    (s.partThreads p).filterMap (fun t =>
      if del.contains (coreOf t) then none else some (passTime s k (ringPos (coreOf t))))
  | _ => []

/-- The time of the next passage of a slot at any station. -/
def anyPass (s : State) (k : Nat) : Nat :=
  if 1 ≤ s.ringTime ∧ s.ringDone.contains k = false then s.ringTime else s.ringTime + 1

/-- Every time at which a station has something to do. -/
def slTimes (s : State) : List Nat :=
  s.activeThreads.flatMap (fun t => slMeets s t ++ slDeadline s t) ++ (List.range 48).flatMap (slUnwindTimes s) ++
  s.slots.filterMap (fun x => if x.2.err = 0 then none else some (anyPass s x.1))

/-- A passage (R308, R311); it comes only when no station has something to do before it. -/
def execSlotPassage (k pos : Nat) (s : State) : Host.Outcome State Fault Refusal :=
  if k < ringSize ∧ pos < ringSize then
    let time := passTime s k pos
    if (slTimes s).all (fun t => decide (time ≤ t)) then
      let done := if time = s.ringTime then k :: s.ringDone else [k]
      .next (slPass { s with ringTime := time, ringDone := done } (ringCore pos) k time)
    else .next s
  else .next s

/-- The 1,280 ring cycles of an `slboard` have passed without a boarding (R319). -/
def execSlboardPoolFull (t : Nat) (s : State) : Host.Outcome State Fault Refusal :=
  let th := s.thr t
  match th.wait with
  | .slot r =>
    let fin := r.posted + ringSize
    if th.active && slIsBoard r.kind && (slMeets s t).all (fun x => decide (fin < x)) &&
        (slTimes s).all (fun x => decide (fin ≤ x)) then
      let s1 := { s with ringTime := max s.ringTime fin, ringDone := if s.ringTime < fin then [] else s.ringDone }
      .next (slAnswer s1 t (.ok [0xFFFFFFFFFFFFFFFF#64] false 0#7))
    else .next s
  | _ => .next s

end Sys2Proof.Machine
end

