-- ==== Sys2Proof/Machine/Home.lean ====
section
/-!
DEFINITION. What a message does when it arrives: delivery (R79, R284), the landing of replies (R97), translations that
come back (R152, R157, R165), the acceptance of accesses at their homes, at the mailbox and configuration logic, at host
memory and at a peer port (R74 to R76, R165 to R168, R175 to R184), and the requests waiting for DRAM (R178).
-/
namespace Sys2Proof.Machine

open Sys2Proof

/-! ## Answers -/

/-- Whether a message belongs to the task on the slot it is for. -/
def State.isFor (s : State) (m : Msg) : Bool :=
  (s.thr m.thr).active && (s.thr m.thr).part == m.part && (s.thr m.thr).task == m.task

/-- A reply reaches the core of its thread: flags are set at once (R64, R346), everything else is staged in the landing
buffer (R97); what belongs to a task that has moved waits to be forwarded (R297), and anything else is discarded
(R176, R346). -/
def landReply (s : State) (m : Msg) : State :=
  if s.isFor m then
    match m.req with
    | .flags f => s.modThr m.thr (fun t => t.raise f)
    | r => s.modThr m.thr (fun t => { t with landing := t.landing ++ [⟨m.tok, r⟩] })
  else match s.fwdOf (coreOf m.thr) m.task with
    | some _ => s.modCore (coreOf m.thr) (fun c => { c with fwdIn := c.fwdIn ++ [m] })
    | none => s

/-- A counter of 32 bits in a configuration register, one higher. -/
def bumpCf (n : Nat) (p : Part) : Part := p.setCf n (w64 ((fieldOf (p.cfReg n) 0 32 + 1) % 2 ^ 32))

/-- HPERR (R361). -/
def hperr : Part → Part := bumpCf 0xD6

/-- A completion leaves for the host (R353). -/
def State.complete (s : State) (c : Completion) : State := { s with completions := s.completions ++ [c] }

/-- Data of all ones (R361). -/
def allOnes (n : Nat) : List Byte := List.replicate n 0xFF#8

/-- The parts of a host read with the bytes of one of them. -/
def HostPart.fill (tok : Nat) (bs : List Byte) (x : HostPart) : HostPart := if x.tok = tok then { x with got := some bs } else x

/-- Whether every part of a host read has come, and its data. -/
def partsWhole (xs : List HostPart) : Bool := xs.all (fun x => x.got.isSome)
def partsData (xs : List HostPart) : List Byte := xs.flatMap (fun x => x.got.getD [])

/-- The bytes of a part of a host read have come: the read completes once it is whole (R353, R361). -/
def hostPartCame (s : State) (tok : Nat) (bs : List Byte) : State :=
  let rs := s.hostReads.map (fun xs => xs.map (HostPart.fill tok bs))
  (rs.filter partsWhole).foldl (fun s xs => s.complete (.data (partsData xs))) { s with hostReads := rs.filter (fun xs => !partsWhole xs) }

/-- The answer to a host access: a read's part brings its data, a refusal is counted in HPERR (R176) and brings all ones,
as a translation fault does (R361); uncorrectable data gives free bytes. (DESIGN CHOICE: assumption 65.) -/
def hostAnswer (s : State) (m : Msg) (r : Req) : State :=
  match m.req, r with
  | .load _ _, .bytes bs => hostPartCame s m.tok bs
  | .load _ n, .refusal _ => hostPartCame (s.modPart m.part hperr) m.tok (allOnes n)
  | .load _ n, _ => hostPartCame (drawBytes s n).2 m.tok (drawBytes s n).1
  | _, .refusal _ => s.modPart m.part hperr
  | _, _ => s

/-- The answer to a request: home to thread within a cellar core, through the network otherwise, or to the host. -/
def State.answer (s : State) (m : Msg) (r : Req) : State :=
  if m.src = hostEp then hostAnswer s m r
  else match m.path with
    | .nb | .am => landReply s { m with req := r }
    | _ => s.inject { m with src := m.dst, dst := m.src, req := r }

/-! ## The answer to a steal of the scheduler (R207) -/

def Core.decision (c : Core) (slot : Nat) : Decision := SMap.get Decision.init c.decisions slot
def Core.setDecision (c : Core) (slot : Nat) (d : Decision) : Core :=
  { c with decisions := SMap.set Decision.init c.decisions slot d }

/-- A grant is the slot's next task; a refusal is counted, and the fourth ends the decision. -/
def stealAnswer (s : State) (t : Nat) (r : Option Rec) (q : Nat) : State :=
  let c := s.core (coreOf t)
  let d := c.decision (slotOf t)
  if !d.pending then s
  else match r with
    | some r => s.setCore (coreOf t)
        { (c.setDecision (slotOf t) Decision.init) with granted := c.granted ++ [(slotOf t, r, q, none)] }
    | none => s.setCore (coreOf t) (c.setDecision (slotOf t)
        { d with pending := false, refusals := d.refusals + 1, waiting := decide (4 ≤ d.refusals + 1) })

/-! ## Delivery -/

/-- Whether a partition runs nothing: it is absent, or being contained. -/
def State.halted (s : State) (p : Nat) : Bool := !(s.prt p).present || !((s.prt p).containing == .none)

/-- A delivered message: a reply to its thread, a refused record to the interface that sends it again (R192), a request
to the inbox of its endpoint. -/
def deliver (s : State) (m : Msg) : State :=
  match m.req with
  | .recordRefused r counted h =>
    if s.halted m.part then discardMsg s { m with req := .record r counted }
    else s.modCore m.dst (fun c => { c with resend := c.resend ++ [{ m with src := m.dst, dst := h, req := .record r counted }] })
  | .grant r q _ => if m.tok = 0 then stealAnswer s m.thr r q else landReply s m
  | r => if isReply r then landReply s m
    else s.modHome m.dst (fun h => { h with router := h.router ++ [m] })

/-- The reorder buffer delivers a message once every lower-numbered one of its source has been delivered (R284). -/
def execMessageDelivery (i : Nat) (s : State) : Host.Outcome State Fault Refusal :=
  match s.net[i]? with
  | none => .next s
  | some m =>
    let k := pairKey m.src m.dst
    if m.seq = SMap.get 0 s.seqIn k then
      .next (deliver { s with net := s.net.eraseIdx i, seqIn := SMap.set 0 s.seqIn k (m.seq + 1) } m)
    else .next s

/-! ## Forwarding (R297) -/

/-- A message for a moved task is sent on to its new core. -/
def execForwardMessage (core i : Nat) (s : State) : Host.Outcome State Fault Refusal :=
  match (s.core core).fwdIn[i]? with
  | none => .next s
  | some m =>
    let s1 := s.modCore core (fun c => { c with fwdIn := c.fwdIn.eraseIdx i })
    match s.fwdOf core m.task with
    | some f => .next (freeFwd (s1.inject { m with src := core, dst := coreOf f.newThr, thr := f.newThr }) core)
    | none => .next s1

/-! ## Landing (R97) -/

/-- A value read at a size, extended by its type (R144). -/
def loadWord (t : Ty) (n : Nat) (bs : List Byte) : W64 := w64 (extendTo t 64 (leNat (bs.take n)))

/-- The lanes of a mask of a register written by a landing: zeros are counted (R96). -/
def landLanes (s : State) (t r : Nat) (mask : W32) (ls : Lanes) : State :=
  (countSkips s (coreOf t) (zerosIn mask 0 ls)).modThr t (fun x => setLanes x r mask 0 ls)

/-- A reply written to a queue register waits its turn among the blocked writers (R98). -/
def landQueue (s : State) (t q : Nat) (v : W64) : Option State :=
  let c := s.core (coreOf t)
  let ws := SMap.get [] c.qWriters q
  if (c.q q).length < 8 ∧ servedNext ws (16 + slotOf t) = true then
    some (s.setCore (coreOf t) { (c.setQ q (c.q q ++ [v])) with
      qWriters := SMap.set [] c.qWriters q (ws.filter (· != 16 + slotOf t)) })
  else none

/-- A reply written to a port waits while its route holds 8 words (R291); a port unbound meanwhile takes nothing. -/
def landPort (s : State) (t k : Nat) (v : W64) : Option State :=
  match (s.thr t).port k with
  | .tx id =>
    match s.routes.find? (fun r => r.id == id) with
    | some r =>
      if r.dropped then some s
      else if r.words.length < 8 then
        some { s with routes := s.routes.map (fun (x : Route) => if x.id == id then { x with words := x.words ++ [some v] } else x) }
      else none
    | none => some s
  | _ => some s

/-- What a reply brings, written where it is owed; `none` where the destination cannot take it yet. -/
def landFill (s : State) (t : Nat) (o : Owed) (r : Req) : Option State :=
  match r, o.fill with
  | .bytes bs, .w d ty n => some (s.modThr t (fun x => x.writeP d (loadWord ty n (overlay bs o.heldBytes))))
  | .bytes bs, .v d mask => some (landLanes s t d mask (bytesLanes 32 (overlay bs o.heldBytes)))
  | .word w _, .word d | .word w _, .status d => some (s.modThr t (fun x => x.writeP d w))
  | .word w _, .queue q => landQueue s t q w
  | .word w _, .port k => landPort s t k w
  | .row bs ver, .row d mask =>
    let s1 := landLanes s t d mask (bytesLanes 32 bs)
    let s2 := landLanes s1 t (d + 1) mask (bytesLanes 32 (bs.drop 128))
    some (s2.modThr t (fun x => { x with rver := ver }))
  | .grant g _ _, .recd d =>
    some (landLanes s t d allLanes (bytesLanes 32 (match g with | some r => wordsBytes r | none => List.replicate 128 0#8)))
  | _, _ => some s

/-- The asynchronous trap that a reply carries (R158, R176). -/
def replyTrap : Req → Option (Nat × W64)
  | .refusal va => some (causeAccess, va)
  | .poison va => some (causeMemPoison, va)
  | .peerError va => some (causePeerError, va)
  | _ => none

/-- The flags that a reply carries (R161). -/
def replyFlags : Req → Fl
  | .word _ f => f
  | _ => 0#7

def addAsync (s : State) (t : Nat) (c : Nat × W64) : State := s.modThr t (fun x => { x with async := x.async ++ [c] })

/-- The reply of a read made before anything is sent: its bytes, a precise refusal, or poison (R158, R216). -/
def landPre (s : State) (t va : Nat) (held : List (Option Byte)) (r : Req) : State :=
  match r with
  | .bytes bs => s.modThr t (fun x => { x with wait := .none, pre := SMap.set [] x.pre va (overlay bs held) })
  | .refusal _ => s.modThr t (fun x => { x with wait := .preFault va })
  | _ =>
    let s1 := s.modThr t (fun x => { x with wait := .none })
    match replyTrap r with
    | some c => addAsync s1 t c
    | none => s1

/-- One value of the landing buffer is written, and the reply is owed no longer. -/
def landOne (s : State) (t : Nat) (l : Landing) : Option State :=
  match (s.thr t).owed.find? (fun o => o.tok == l.tok) with
  | none =>
    match (s.thr t).wait with
    | .pre tok va held => if tok = l.tok then some (landPre s t va held l.req) else some (match replyTrap l.req with | some c => addAsync s t c | none => s)
    | _ => some (match replyTrap l.req with | some c => addAsync s t c | none => s)
  | some o =>
    let settled (s : State) : State := s.modThr t (fun x => ({ x with owed := x.owed.filter (fun y => y.tok != l.tok) }).raise (replyFlags l.req))
    match replyTrap l.req with
    | some c => some (addAsync (settled s) t c)
    | none => (landFill s t o l.req).map settled

/-- A reply that goes to a queue joins the writers that are blocked on it (R98). -/
def landBlocked (s : State) (t : Nat) (l : Landing) : State :=
  match (s.thr t).owed.find? (fun o => o.tok == l.tok) with
  | some o =>
    match o.fill with
    | .queue q => s.modCore (coreOf t) (fun c =>
        { c with qWriters := SMap.set [] c.qWriters q (joinList (SMap.get [] c.qWriters q) (16 + slotOf t)) })
    | _ => s
  | none => s

/-- The oldest value of a thread's landing buffer that can be written lands. -/
def landFirst (s : State) (t : Nat) : List Landing → List Landing → Option State
  | _, [] => none
  | before, l :: rest =>
    match landOne s t l with
    | some s1 => some (s1.modThr t (fun x => { x with landing := before ++ rest }))
    | none => landFirst s t (before ++ [l]) rest

def execReplyLand (t : Nat) (s : State) : Host.Outcome State Fault Refusal :=
  if (s.thr t).active then
    match landFirst s t [] (s.thr t).landing with
    | some s1 => .next s1
    | none => .next ((s.thr t).landing.foldl (fun s l => landBlocked s t l) s)
  else .next s

/-! ## Translations that come back -/

/-- A walk ends (R152, R157): both buffers hold the entry, or the waiting instruction faults. -/
def execTableWalkComplete (t : Nat) (s : State) : Host.Outcome State Fault Refusal :=
  match (s.thr t).wait with
  | .walk page =>
    (match walkTables s (s.thr t).part page with
     | .entry e => .next ((holdPte s (coreBufs (coreOf t)) (s.thr t).part page e).modThr t (fun x => { x with wait := .none }))
     | .absent => .next (s.modThr t (fun x => { x with wait := .walkFault page }))
     | .poison => .next (s.modThr t (fun x => { x with wait := .walkPoison page })))
  | _ => .next s

/-- The die of a cached HM translation. -/
def atsDie (k : Nat) : Nat := k / 2 ^ 52 % 4

/-- A translation enters the cache of a die, of 2,048 entries (R165); from a full one the oldest leaves. (DESIGN CHOICE:
assumption 130.) -/
def atsInsert (s : State) (p die page hpage : Nat) : State :=
  let l := (atsKey p die page, hpage) :: s.ats.filter (fun e => e.1 != atsKey p die page)
  let mine := (l.filter (fun e => atsDie e.1 == die)).take 2048
  { s with ats := mine ++ l.filter (fun e => atsDie e.1 != die) }

/-- An ATS completion (R165). A number below 2^20 is a thread's; 2^20 + 256e + i is copy i of engine e. -/
def execAtsTranslationComplete (t : Nat) (ok : Bool) (hpage : Nat) (s : State) : Host.Outcome State Fault Refusal :=
  if t < 2 ^ 20 then
    match (s.thr t).wait with
    | .ats page =>
      if ok then .next ((atsInsert s (s.thr t).part (coreDie (coreOf t)) page hpage).modThr t (fun x => { x with wait := .none }))
      else .next (s.modThr t (fun x => { x with wait := .atsFault page }))
    | _ => .next s
  else
    let e := (t - 2 ^ 20) / 256
    let i := (t - 2 ^ 20) % 256
    match (s.engine e)[i]? with
    | none => .next s
    | some c =>
      match copyAwaits s e c with
      | some (r, a) =>
        if ok then .next (atsInsert s c.part (e / 8) (a / 4096) hpage)
        else .next (putCopy s e i (c.fail r 1))
      | none => .next s

/-! ## Inboxes -/

/-- Whether a message has to wait at its endpoint: an active message while the arrival queue is full (R172). -/
def mustWait (h : Home) (m : Msg) : Bool :=
  match m.req with
  | .amsg _ _ _ => decide (64 ≤ h.amq.length)
  | _ => false

/-- The first message that may be accepted: only the sources of waiting messages are held up (R172). -/
def pickFrom (h : Home) : List Nat → Nat → List Msg → Option (Nat × Msg)
  | _, _, [] => none
  | held, i, m :: ms =>
    if held.contains m.src then pickFrom h held (i + 1) ms
    else if mustWait h m then pickFrom h (m.src :: held) (i + 1) ms
    else some (i, m)

/-- The next message of an endpoint's router port, or of its local port. -/
def inboxNext (s : State) (e : Nat) (loc : Bool) : Option (Nat × Msg) :=
  let h := s.home e
  if loc then pickFrom h [] 0 h.local_ else pickFrom h [] 0 h.router

/-- A message taken out of its inbox. -/
def inboxTake (s : State) (e : Nat) (loc : Bool) (i : Nat) : State :=
  s.modHome e (fun h => if loc then { h with local_ := h.local_.eraseIdx i } else { h with router := h.router.eraseIdx i })

/-- A message put back with what is still to be done. -/
def inboxPut (s : State) (e i : Nat) (m : Msg) : State := s.modHome e (fun h => { h with router := h.router.set i m })

/-! ## Accesses at a home (R75, R175, R176) -/

/-- The writes to memory that a rollback discards at the homes (R340); what goes to queues and counter blocks is
discarded in the steps that take it. -/
def isMemWrite : Req → Bool
  | .store _ _ | .atomic _ _ _ _ | .rowadd _ _ _ _ => true
  | _ => false

/-- Whether the home refuses a place to a partition (R153, R176). -/
def locRefused (s : State) (p : Nat) : Loc → Bool
  | .dm l => !frameOk s p l
  | .sp _ => false

/-- The address of a place, as TVAL has it. -/
def locAddr : Loc → W64
  | .dm l => w64 l.va
  | .sp a => w64 a

/-- The request goes to DRAM for every line that is not cached (R177, R178). -/
def noteLoc (s : State) (loc : Loc) (n : Nat) (tag : W32) : State :=
  match loc with
  | .sp _ => s
  | .dm l => noteSpans s l.home (readSpans s l n) tag

/-- The check of R176 on the frame that a message's address names, before what it asks for. -/
def checkNamed (s : State) (m : Msg) (f : State → State) : State :=
  match m.loc with
  | some l => if frameOk s m.part l then f s else s.answer m (.refusal (w64 l.va))
  | none => f s

/-- Whether a place lies in a SPARSE page. -/
def isSparse : Loc → Bool
  | .dm l => l.attr == 2#2
  | .sp _ => false

/-- A load (R75): uncorrectable data in any of its bytes, those of lanes that the guard leaves out among them, raises
MEM_POISON (R182). (DEDUCED: assumption 113.) -/
def homeLoad (s : State) (m : Msg) (loc : Loc) (n : Nat) : State :=
  if locRefused s m.part loc then s.answer m (.refusal (locAddr loc))
  else
    let s1 := noteLoc s loc n m.tag
    if locBad s1 loc n then s1.answer m (.poison (locAddr loc)) else s1.answer m (.bytes (readLoc s1 m.part loc n))

/-- A store (R75); a SPARSE block that cannot be read cannot be recompressed. -/
def homeStore (s : State) (m : Msg) (loc : Loc) (data : List (Option Byte)) : State :=
  if locRefused s m.part loc then s.answer m (.refusal (locAddr loc))
  else
    let s1 := noteLoc s loc data.length m.tag
    if isSparse loc && locBad s1 loc data.length then s1.answer m (.poison (locAddr loc)) else writeLoc s1 m.part loc data

/-- An atomic: one step, and its flags travel in the reply (R160, R161). -/
def homeAtomic (s : State) (m : Msg) (op : AtOp) (loc : Loc) (b cmp : W64) : State :=
  if locRefused s m.part loc then s.answer m (.refusal (locAddr loc))
  else
    let s1 := noteLoc s loc (atBytes op) m.tag
    if locBad s1 loc (atBytes op) then s1.answer m (.poison (locAddr loc))
    else
      let r := atomicStep op (readLoc s1 m.part loc (atBytes op)) b cmp
      (writeLoc s1 m.part loc (r.2.1.map some)).answer m (.word r.1 r.2.2)

/-- A row and its version word. -/
def rowSpans (l : DmLoc) : List (Nat × Nat) := [(l.key, 256), (rowVersionKey l, 8)]

/-- Whether a row or its version word is poisoned. -/
def rowBad (s : State) (l : DmLoc) : Bool := (rowSpans l).any (fun x => spanBad s l.home x.1 x.2)

/-- `rowadd` at its home (R163): its flags are reported. (DEDUCED: assumption 47.) -/
def homeRowadd (s : State) (m : Msg) (l : DmLoc) (t : Ty) (mask : W32) (add : List W32) : State :=
  if !frameOk s m.part l then s.answer m (.refusal (w64 l.va))
  else
    let s1 := noteSpans s l.home (rowSpans l) m.tag
    if rowBad s1 l then s1.answer m (.poison (w64 l.va))
    else
      let r := performRowadd s1 m.part l t mask add
      r.1.answer m (.flags r.2)

/-- `rowld` at its home (R164): row and version in one step, and the stale count of the reader's partition. -/
def homeRowld (s : State) (m : Msg) (l : DmLoc) (minv : W64) : State :=
  if !frameOk s m.part l then s.answer m (.refusal (w64 l.va))
  else
    let s1 := noteSpans s l.home (rowSpans l) m.tag
    if rowBad s1 l then s1.answer m (.poison (w64 l.va))
    else
      let ver := bytesWord (s1.mem.readN (rowVersionKey l) 8)
      let s2 := if ver.toNat < minv.toNat then s1.modPart m.part (fun p => { p with stalecnt := p.stalecnt + 1#64 }) else s1
      s2.answer m (.row (s1.mem.readN l.key 256) ver)

/-! ## Queue settings and status (R224, R225) -/

/-- One field of a queue set (R224). -/
def Queue.configure (q : Queue) (f : QField) (v : W64) : Queue :=
  match f with
  | .thresh => { q with thresh := v.toNat }
  | .tickets => { q with tickets := v.toNat }
  | .spbase => if q.spilled = 0 then q.newRegion v q.spsize else { q with pendBase := some v }
  | .spsize => if q.spilled = 0 then q.newRegion q.spbase v.toNat else { q with pendSize := some v.toNat }

/-- Whether accesses of a task are still to be performed, or copies of it to be counted (R195, R350). -/
def workLeft (s : State) (p : Nat) (task : W64) : Bool :=
  s.inFlight.any (fun m => m.task == task && m.part == p && isAccess m.req) ||
  s.copies.any (fun e => e.2.any (fun c => c.task == task && c.part == p))

/-- Whether a near body, once taken, is still live in its queue (R195): about to start, running or saved, or with
accesses still to be performed. -/
def nearAlive (s : State) (h p q : Nat) (x : Nat × W64 × Nat × W64) : Bool :=
  let here (l : Option LiveIn) : Bool := l == some ⟨h, p, q, x.1⟩
  (s.core (homeEp h)).granted.any (fun g => here g.2.2.2) ||
  (s.coreThreads (homeEp h)).any (fun t => here (s.thr t).live) ||
  s.saved.any (fun c => c.away && here c.thread.live) ||
  workLeft s p x.2.2.2

/-- The near bodies of a queue that are live. -/
def liveNear (s : State) (h p q : Nat) : List (Nat × W64 × Nat × W64) :=
  ((s.home (homeEp h)).queue p q).nearLive.filter (nearAlive s h p q)

/-- QSTAT (R225). -/
def qstatWord (s : State) (h p q : Nat) : W64 :=
  let x := (s.home (homeEp h)).queue p q
  w64 (x.tickets % 256 * 2 ^ 56 + x.thresh % 64 * 2 ^ 50 + (if x.pend then 2 ^ 49 else 0) + x.spilled % 2 ^ 24 * 2 ^ 24 +
    x.hw % 256 * 2 ^ 16 + min 255 (liveNear s h p q).length * 2 ^ 8)

def State.modQueue (s : State) (h p q : Nat) (f : Queue → Queue) : State :=
  s.modHome (homeEp h) (fun hm => hm.setQueue p q (f (hm.queue p q)))

/-- What an access, a queue setting or a steal does as its home accepts it; `none` for the messages whose arrival is a
step of another name. (DEDUCED: assumption 18.) -/
def homePerform (s : State) (h : Nat) (m : Msg) : Option State :=
  if (s.prt m.part).discard && isMemWrite m.req then some s
  else match m.req with
  | .load l n => some (homeLoad s m l n)
  | .store l d => some (homeStore s m l d)
  | .atomic op l b c => some (homeAtomic s m op l b c)
  | .rowadd (.dm l) t mask d => some (homeRowadd s m l t mask d)
  | .rowld (.dm l) v => some (homeRowld s m l v)
  | .qcfg q f v => some (checkNamed s m (fun s => s.modQueue h m.part q (fun x => x.configure f v)))
  | .qstat q => some (checkNamed s m (fun s => s.answer m (.word (qstatWord s h m.part q) 0#7)))
  | .steal q _ => some (checkNamed s m (fun s => s.modQueue h m.part q (fun x => { x with steals := x.steals ++ [m] })))
  | .schedSteal q _ => some (s.modQueue h m.part q (fun x => { x with steals := x.steals ++ [m] }))
  | _ => none

/-! ## The mailbox and configuration logic (R167, R168) -/

/-- The bits of a register that software writes. -/
def cfMask (n : Nat) : W64 :=
  if n = 0x70 then 0x00000000FFFFFFFF#64
  else if n = 0x80 then 0x00000000FFFFFFFF#64
  else if 0xA0 ≤ n ∧ n < 0xA8 then 0xFFFFFFFFFFFFFF80#64
  else if 0xA8 ≤ n ∧ n < 0xB0 then 0x8000FFFFFFFFFFF8#64
  else if n = 0xB0 then 0x00000000FFFFFFFF#64
  else if n = 0xC1 then 0xFFFFFFFFFF0007FF#64
  else if n = 0xD1 then 0xFFFFFE03FFFFFFFF#64
  else if n = 0xD3 then 0xFFFFFFFFFFFFFFFC#64
  else if n = 0xD5 then 0x0000FFFFFFF80000#64
  else if n = 0xD6 then 0x00000000FFFFFFFF#64
  else 0xFFFFFFFFFFFFFFFF#64

/-- The fields of PREEMPT that a write sets, GO apart. -/
def preemptMask : W64 := 0x0FFFFFFFC00007FF#64

/-- PREEMPT (R342). -/
def preemptWord (x : Preempt) : W64 :=
  w64 ((if x.go then 2 ^ 63 else 0) + x.status % 8 * 2 ^ 60) ||| x.word

/-- A request that a write of PREEMPT starts: its fields. -/
def preemptFields (x : Preempt) (v : W64) : Preempt :=
  { x with word := v &&& preemptMask, kind := fieldOf v 58 2, resume := bitOf v 57, slots := fieldOf v 41 16, dest := fieldOf v 30 11, core := fieldOf v 0 11 }

/-- IMBAL of a die, HOMECFG of a die. (DEDUCED: assumption 73.) -/
def homecfgWord (s : State) (die : Nat) : W64 :=
  w64 (SMap.get 0 s.agecap die % 2 ^ 32 * 2 ^ 32 + SMap.get 0 s.scrubrate die % 2 ^ 20)

/-- A configuration register as a thread reads it; HOMECFG and NETCFG are those of the reading core's die. -/
def cfRead (s : State) (p die n : Nat) : W64 :=
  let pt := s.prt p
  if n = 0x40 then w64 (pt.spq % 2 ^ 16)
  else if n = 0x60 then (if bitOf pt.accept 7 then pt.cfReg 0x60 else 0#64)
  else if n = 0x61 then w64 (pt.interval.toNat * 2 ^ 32 + pt.autoclose.toNat)
  else if n = 0x62 then homecfgWord s die
  else if n = 0x71 then pt.seed.setWidth 64
  else if n = 0x90 then w64 ((if pt.det then 2 ^ 16 else 0) + SMap.get 0 s.imbal die % 2 ^ 16)
  else if n = 0xC0 then slpoolWord pt
  else if n = 0xD0 then w64 ((if pt.coll then 2 ^ 63 else 0) + pt.unwslot % 2048)
  else if n = 0xD4 then preemptWord pt.preempt
  else if cfClass n = .rw then pt.cfReg n
  else 0#64

/-- Whether a write of PREEMPT starts a request (R342): one with GO, while none is in progress; a stop-now may follow
a drain (R343). (DESIGN CHOICE: assumption 58.) -/
def preemptStarts (x : Preempt) (v : W64) : Bool :=
  bitOf v 63 && (!x.go || (x.kind == 0 && !bitOf v 57 && fieldOf v 58 2 == 1))

/-- Whether a write is a step of its own: an SP region, PTROOT, CKPTCFG, MBBIND, or PREEMPT with GO (R17, R151, R153,
R157, R184, R342). -/
def cfOwnStep (x : Preempt) (n : Nat) (v : W64) : Bool :=
  decide (n < 0x40) || n == 0x41 || n == 0x60 || (decide (0xE0 ≤ n) && decide (n < 0xE4)) || (n == 0xD4 && preemptStarts x v)

/-- A write of a configuration register that is no step of its own; one of PREEMPT with GO is ignored (R342). -/
def cfWritten (pt : Part) (n : Nat) (v : W64) : Part :=
  if n = 0xD4 then
    (if bitOf v 63 then pt else { pt with preempt := { pt.preempt with word := v &&& preemptMask } })
  else if cfClass n = .rw then pt.setCf n (v &&& cfMask n)
  else pt

/-- A write of a mailbox's outbound word; word 7 sets READY (R167). -/
def mbWritten (x : Mailbox) (word : Nat) (v : W64) : Mailbox :=
  { x with outbound := SMap.set 0#64 x.outbound word v, ready := x.ready || word == 7 }

/-- The inbound message of a mailbox: the one that R16 accepted. -/
def mbWord (x : Mailbox) (word : Nat) (out : Bool) : W64 :=
  if out then SMap.get 0#64 x.outbound word else SMap.get 0#64 x.inbound word

/-- A request at the mailbox and configuration logic of a partition, in arrival order. -/
def mbPerform (s : State) (p : Nat) (m : Msg) : Option State :=
  match m.req with
  | .mbRead b w out => some (s.answer m (.word (mbWord ((s.prt p).mbox b) w out) 0#7))
  | .mbWrite b w v => some (s.modPart p (fun x => x.setMbox b (mbWritten (x.mbox b) w v)))
  | .cfRead n => some (s.answer m (.word (cfRead s p (coreDie m.src) n) 0#7))
  | .cfWrite n v =>
    if cfOwnStep (s.prt p).preempt n v then none else some (s.modPart p (fun x => cfWritten x n v))
  | _ => none

/-! ## Host memory and peer memory (R165, R166) -/

/-- An access of host memory goes on by one aligned piece of at most 8 bytes: the state, and what is still to be done.
 (PRESUMED: assumption 46.) -/
def hostPerform (s : State) (m : Msg) : State × Option Msg :=
  match m.req with
  | .hmLoad a n got =>
    let k := min (n - got.length) 8
    let got' := got ++ s.hostMem.readN (a + got.length) k
    if n ≤ got'.length then (s.answer m (.bytes got'), none) else (s, some { m with req := .hmLoad a n got' })
  | .hmStore a data =>
    let s1 := { s with hostMem := writeSome s.hostMem a (data.take 8) }
    if data.length ≤ 8 then (s1, none) else (s1, some { m with req := .hmStore (a + 8) (data.drop 8) })
  | .hmAtomic op a b c =>
    let r := atomicStep op (s.hostMem.readN a (atBytes op)) b c
    (({ s with hostMem := s.hostMem.writeN a r.2.1 }).answer m (.word r.1 r.2.2), none)
  | _ => (s, none)

/-- A PM access, as a peer that refuses nothing performs it. (DESIGN CHOICE: assumption 49.) -/
def peerPerform (s : State) (port : Nat) (m : Msg) : State :=
  match m.req with
  | .pmLoad va n => s.answer m (.bytes (s.peerMem.readN (peerKey port va) n))
  | .pmStore va data => { s with peerMem := writeSome s.peerMem (peerKey port va) data }
  | .pmAtomic op va b c =>
    let r := atomicStep op (s.peerMem.readN (peerKey port va) (atBytes op)) b c
    ({ s with peerMem := s.peerMem.writeN (peerKey port va) r.2.1 }).answer m (.word r.1 r.2.2)
  | _ => s

/-! ## Acceptance (R175) -/

/-- The next message of an endpoint is accepted. -/
def acceptAt (s : State) (e : Nat) (loc : Bool) : State :=
  match inboxNext s e loc with
  | none => s
  | some (i, m) =>
    let s1 := inboxTake s e loc i
    if 1024 ≤ e ∧ e < 1280 then (homePerform s1 (e - 1024) m).getD s
    else if 1400 ≤ e ∧ e < 1448 then (mbPerform s1 (e - 1400) m).getD s
    else if e = hostEp then
      (match (hostPerform s m).2 with
       | some m' => inboxPut (hostPerform s m).1 e i m'
       | none => (hostPerform s1 m).1)
    else if 1510 ≤ e ∧ e < 1518 then peerPerform s1 (e - 1510) m
    else s

/-- A request is accepted whole, and performed at that moment. -/
def execHomeAccept (src : AcceptSrc) (s : State) : Host.Outcome State Fault Refusal :=
  match src with
  | .router e => .next (acceptAt s e false)
  | .localPort e => .next (acceptAt s e true)
  | .copy e i => .next (copyAccept s e i)

/-- A flit of a PM message fails its retries (R299): the message, the next of its source through the port, fails with
PEER_ERROR. -/
def execPeerFlitFailure (i : Nat) (s : State) : Host.Outcome State Fault Refusal :=
  match s.net[i]? with
  | none => .next s
  | some m =>
    let k := pairKey m.src m.dst
    let va : Option Nat := match m.req with
      | .pmLoad a _ => some a
      | .pmStore a _ => some a
      | .pmAtomic _ a _ _ => some a
      | _ => none
    match va with
    | some a =>
      if m.seq = SMap.get 0 s.seqIn k then
        let s1 := { s with net := s.net.eraseIdx i, seqIn := SMap.set 0 s.seqIn k (m.seq + 1) }
        .next (s1.answer m (.peerError (w64 a)))
      else .next s
    | none => .next s

/-! ## DRAM and the patrol (R178, R182, R183) -/

/-- The request that a bank serves next (R178). `row` is the open row plus 1, or 0 where none is open. -/
def bankChoice (cap now row : Nat) (last : W32) (rs : List DramReq) : Option DramReq :=
  match rs with
  | [] => none
  | oldest :: _ =>
    if cap ≠ 0 ∧ cap < now - oldest.accepted then some oldest
    else
      let hits := rs.filter (fun r => r.row + 1 == row)
      let c := if hits.isEmpty then rs else hits
      let same := c.filter (fun r => r.tag == last)
      (if same.isEmpty then c else same).head?

/-- The requests of a bank that may be chosen: those to one line keep their order (R178). -/
def bankReady (h : Home) (bank : Nat) : List DramReq :=
  let rs := h.dram.filter (fun r => r.bank == bank)
  rs.filter (fun r => !(rs.takeWhile (fun x => x != r)).any (fun x => x.line == r.line))

/-- A bank serves a request. How many channel cycles pass until its next decision is a free value. (DESIGN CHOICE:
assumption 7.) -/
def execDramBankSchedule (home bank : Nat) (s : State) : Host.Outcome State Fault Refusal :=
  let h := s.home (homeEp home)
  let d := drawNat s
  match bankChoice (SMap.get 0 s.agecap (home / 64)) h.now (SMap.get 0 h.openRow bank) (SMap.get 0#32 h.lastTag bank)
      (bankReady h bank) with
  | none => .next s
  | some r =>
    .next (d.2.setHome (homeEp home) { h with
      now := h.now + (Config.freeWord d.1).toNat
      dram := h.dram.erase r
      openRow := SMap.set 0 h.openRow bank (r.row + 1)
      lastTag := SMap.set 0#32 h.lastTag bank r.tag })

/-- Lines of a channel. -/
def channelLines : Nat := 33554432

/-- The patrol visits the next line of a channel; a line marked as scrubbed is skipped, and its mark clears. -/
def execScrubVisit (home : Nat) (s : State) : Host.Outcome State Fault Refusal :=
  let h := s.home (homeEp home)
  let line := home * channelLines + h.scrubPos
  if SMap.get 0 s.scrubrate (home / 64) = 0 ∨ 256 ≤ home then .next s
  else
    let h1 := if h.logged.contains line then { h with logged := h.logged.filter (· != line) } else patrolLine h line
    .next (s.setHome (homeEp home) { h1 with scrubPos := (h.scrubPos + 1) % channelLines })

/-! ## Configuration writes that are steps of their own -/

/-- The next request of a partition's configuration logic, if it writes a register. -/
def cfHead (s : State) (p : Nat) : Option (Nat × Nat × W64) :=
  match inboxNext s (mbEp p) false with
  | some (i, m) =>
    match m.req with
    | .cfWrite n v => some (i, n, v)
    | _ => none
  | none => none

/-- SPRGN (R149, R151): the placement changes at every slice at once. -/
def execSpRegionWrite (p : Nat) (s : State) : Host.Outcome State Fault Refusal :=
  match cfHead s p with
  | some (i, n, v) =>
    if n < 0x40 then .next ((inboxTake s (mbEp p) false i).modPart p (fun x => x.setCf n (v &&& 0x007FFFFFFFFFF000#64)))
    else .next s
  | none => .next s

/-- PTROOT (R157): later walks use the new root. -/
def execPtrootWrite (p : Nat) (s : State) : Host.Outcome State Fault Refusal :=
  match cfHead s p with
  | some (i, n, v) =>
    if n = 0x41 then .next ((inboxTake s (mbEp p) false i).modPart p (fun x => x.setCf n (v &&& 0x001FE000000003FF#64)))
    else .next s
  | none => .next s

/-- Whether the partition owns the log frames of a CKPTCFG value in every working channel of its dies (R153).
(DEDUCED: assumption 61.) -/
def logFramesOwned (s : State) (p : Nat) (v : W64) : Bool :=
  (s.prt p).dies.all (fun d => (List.range 64).all (fun c =>
    s.disabled.contains (unitChannel (64 * d + c)) || s.disabled.contains (1024 + 64 * d + c) ||
    (List.range (fieldOf v 32 10)).all (fun k =>
      decide (fieldOf v 0 10 + k < 1024) &&
      SMap.get Owner.nobody s.chanOwner ((64 * d + c) * 1024 + (fieldOf v 0 10 + k)) == .part p)))

/-- CKPTCFG (R153, R184, R359): it takes effect at the next close. -/
def execCkptcfgWrite (p : Nat) (s : State) : Host.Outcome State Fault Refusal :=
  match cfHead s p with
  | some (i, n, v) =>
    if n = 0x60 then
      let s1 := inboxTake s (mbEp p) false i
      if bitOf (s.prt p).accept 7 && logFramesOwned s p v then
        .next (s1.modPart p (fun x => x.setCf 0x60 (v &&& 0xFFFF03FF000003FF#64)))
      else .next s1
    else .next s
  | none => .next s

end Sys2Proof.Machine
end

