-- ==== Sys2Proof/Machine/Control.lean ====
section
/-!
DEFINITION. The control instructions (R108 to R112). `done` and `done.j` stand in Machine/Tasks.lean.
-/
namespace Sys2Proof.Machine

open Sys2Proof

/-- A branch target: off counts 4-byte units from the instruction itself (R108). -/
def targetOf {n : Nat} (ip : W64) (off : BitVec n) : W64 := ip + 4#64 * off.signExtend 64

/-- `nop` (R112). -/
def execNop (c : Ctl) (s : State) : Host.Outcome State Fault Refusal := runScalar c Uses.none (return .seq) s

/-- `br`, short form (R109). -/
def execBr (c : Ctl) (off : BitVec 15) (s : State) : Host.Outcome State Fault Refusal :=
  runScalar c Uses.none (do return .jump (targetOf (← getMe).ip off)) s

/-- `br`, long form (R38, R109). -/
def execBrLong (c : Ctl) (off : BitVec 36) (s : State) : Host.Outcome State Fault Refusal :=
  runScalar c Uses.none (do return .jump (targetOf (← getMe).ip off)) s

/-- `brx` (R109). -/
def execBrx (c : Ctl) (a : BitVec 5) (s : State) : Host.Outcome State Fault Refusal :=
  runScalar c (Uses.w a) (do return .jump (align4 ((← getMe).w a.toNat))) s

/-- The registers that a call writes: w7 to w31 of the next frame, the link w7 included. -/
def callRegs (t : Thread) : List PReg := (List.range 25).map (fun j => .stk (stkIndex (t.depth + 1) (7 + j)))

/-- The window moves to the next frame: fresh locals and outs are 0, and w7 is the link (R109). -/
def enterFrame (t : Thread) : Thread :=
  let t1 := { t with depth := t.depth + 1 }
  let t2 := (List.range 24).foldl (fun x j => x.setW (8 + j) 0#64) t1
  t2.setW 7 (t.ip + 12#64)

/-- What `call` and `callx` do with their target; `fn` is the instruction's FN, for TVAL. -/
def doCall (op fn : Nat) (target : Thread → W64) : Act Ret := do
  let t ← getMe
  if t.tm then illegalA op fn 2 0 0
  else if t.depth = 65535 then trap causeWindowOverflow 1#64
  else if t.depth - t.low = 9 then trap causeWindowOverflow 0#64
  else do
    modMeA enterFrame
    return .jump (target t)

/-- `call`, short form (R109). -/
def execCall (c : Ctl) (off : BitVec 15) (s : State) : Host.Outcome State Fault Refusal :=
  runScalar c { extra := callRegs s.me } (doCall 0x04 0x00 (fun t => targetOf t.ip off)) s

/-- `call`, long form (R38, R109). -/
def execCallLong (c : Ctl) (off : BitVec 36) (s : State) : Host.Outcome State Fault Refusal :=
  runScalar c { extra := callRegs s.me } (doCall 0x04 0x80 (fun t => targetOf t.ip off)) s

/-- `callx` (R109). -/
def execCallx (c : Ctl) (a : BitVec 5) (s : State) : Host.Outcome State Fault Refusal :=
  runScalar c { ws := [a.toNat], extra := callRegs s.me } (doCall 0x05 0x00 (fun t => align4 (t.w a.toNat))) s

/-- `ret` (R109). -/
def execRet (c : Ctl) (a : BitVec 5) (s : State) : Host.Outcome State Fault Refusal :=
  runScalar c (Uses.w a) (do
    let t ← getMe
    if t.tm then illegalA 0x06 0x00 2 0 0
    else if t.depth = 0 then trap causeWindowUnderflow 1#64
    else if t.depth = t.low then trap causeWindowUnderflow 0#64
    else do
      modMeA (fun t => { t with depth := t.depth - 1 })
      return .jump (align4 (t.w a.toNat))) s

/-- The loop is set up with n ≥ 1 iterations (R102): LS is the instruction after the loop. -/
def setLoop (t : Thread) (n le : W64) : Thread :=
  { t with lc := n, ls := t.ip + 12#64, as := t.ip + 12#64, le := le, ae := le, loopOn := true }

/-- `loop` (R110). Neither form of it is followed by an end-of-body check (R102). -/
def execLoop (c : Ctl) (count : WI) (off : BitVec 15) (s : State) : Host.Outcome State Fault Refusal :=
  runScalar c (Uses.wi count) (do
    let n ← readWI count
    let t ← getMe
    let le := targetOf t.ip off
    if n = 0#64 then return .jump (le + 12#64)
    else do
      modMeA (fun t => setLoop t n le)
      return .jump (t.ip + 12#64)) s

/-- `yield` (R112) changes no state; `issueThread` holds the slot back until the others have had their turn. -/
def execYield (c : Ctl) (s : State) : Host.Outcome State Fault Refusal := runScalar c Uses.none (return .seq) s

/-- `brk` (R112). -/
def execBrk (c : Ctl) (code : BitVec 15) (s : State) : Host.Outcome State Fault Refusal :=
  runScalar c Uses.none (trap causeBreakpoint (code.setWidth 64)) s

end Sys2Proof.Machine
end

