-- ==== Sys2Proof/Machine/Tasks.lean ====
section
/-!
DEFINITION. The task instructions (R212 to R226) with the checks of R216, launches (R201, R218, R219), and `done` and
`done.j` with their decrements (R111, R200).
-/
namespace Sys2Proof.Machine

open Sys2Proof

/-! ## Building records -/

/-- A record with a word replaced. -/
def recSet (r : Rec) (i : Nat) (v : W64) : Rec := r.set i v

/-- The arguments of a record: `w(from) …`, those beyond ARGC as 0 (R214). -/
def recArgs (t : Thread) (start argc : Nat) : List W64 :=
  (List.range 8).map (fun j => if j ≤ argc then t.w (start + j) else 0#64)

/-- The registers `w24` to `w31`, or `w0` to `w7`. -/
def Uses.args (start : Nat) : Uses := { ws := (List.range 8).map (fun j => start + j) }

/-- ALEN in the low half, DCOFF as it stands. -/
def withAlen (w : W64) (len : W64) : W64 := withField w 0 32 (fieldOf len 0 32)

/-- A record from a descriptor's eight words (R214). -/
def descRecord (d : List W64) (base len : W64) (args : List W64) : Rec :=
  recSet (recSet (d.take 8) 3 base) 4 (withAlen (d.getD 4 0#64) len) ++ args

/-- A descriptor operand: an address in a register, or an offset from the instruction. -/
def readDesc (desc : WI) : Act (List W64) := do
  let a ← readEntry desc
  return bytesWords 8 (← readPre a.toNat 64)

/-- A length operand (R213). -/
def readLen (op fn : Nat) (len : WI) : Act W64 := do return w64 (← readLimit op fn 3 (2 ^ 32 - 1) len)

/-! ## The checks of R216 -/

/-- R188: near-eligible. -/
def nearEligible (h : W64) : Bool := hdrN h && decide (hdrGran h ≤ 8)
/-- R188: far-eligible. -/
def farEligible (h : W64) : Bool := hdrF h && hdrS h && decide (hdrGran h ≤ 32)

/-- Whether the anchor is an SP anchor. -/
def Rec.spAnchor (r : Rec) : Bool := bitOf (Rec.abase r) 63

/-- Whether an anchor crosses a unit of n bytes; an empty one never does. -/
def crosses (base : Nat) (len n : Nat) : Bool := decide (len ≠ 0) && decide (n < base % n + len)

/-- Check 2 of a queued record. -/
def checkFormat (r : Rec) : Act Unit :=
  if !(nearEligible (Rec.header r) || farEligible (Rec.header r)) then trap causeTaskFormat 0#64
  else if (Rec.dcoff r) % 256 ≠ 0 ∨ (Rec.dcoff r ≠ 0 ∧ Rec.spAnchor r = true) then trap causeTaskFormat 32#64
  else return ()

/-- Checks 3 to 5: the anchor's place and home. -/
def checkAnchor (r : Rec) : Act (Loc × Nat) := do
  let a := Rec.abase r
  let n := Rec.alen r
  if crosses a.toNat n (if Rec.spAnchor r then 4096 else 2 ^ 21) then trap causeAnchorSpan a
  else do
    let x ← anchorHome a
    match x.1 with
    | .dm l => if l.attr = 0#2 ∧ crosses a.toNat n 4096 = true then trap causeAnchorSpan a else return x
    | .sp _ => return x

/-- The address of a record's counter block (R199). -/
def blockAddr (r : Rec) : W64 := (Rec.abase r &&& 0xFFFFFFFFFFFFFF00#64) + BitVec.ofInt 64 (Rec.dcoff r)

/-- Check 6: a counter block as an atomic's target. -/
def checkBlock (blk : W64) : Act DmLoc := do
  let l ← translateDm blk.toNat
  if !l.wr then trap causeAccess blk
  else if attrBad .atomic l then trap causeAttrFault blk
  else return l

/-- Where a record that has passed its checks goes: the home of its anchor or block, and the block of a deposit. -/
structure Target where
  home : Nat
  anchor : Loc
  block : Option DmLoc
  deriving DecidableEq, Repr

/-- Checks 2 to 6. -/
def checkRecord (r : Rec) : Act Target := do
  checkFormat r
  let x ← checkAnchor r
  if Rec.dcoff r = 0 then return ⟨x.2, x.1, none⟩
  else do
    let l ← checkBlock (blockAddr r)
    return ⟨l.home, x.1, some l⟩

/-- The path of a record (R143): handed over directly at the thread's own home. -/
def State.recordPath (s : State) (home : Nat) : Path :=
  if coreOf s.cur = homeEp home then (if s.me.kind = .handler then .am else .nb) else .ls

/-! ## SPAWNMAX (R203) -/

/-- A limit of 0 acts as 1. -/
def Core.limit (c : Core) : Nat := if c.spawnLimit = 0 then 1 else c.spawnLimit

/-- The record of the executing instruction counts in OUT, once. -/
def State.takeOut (s : State) : State :=
  if s.me.outTaken then s else s.modCore (coreOf s.cur) (fun c => { c with spawnOut := c.spawnOut + 1 })

/-- The stall while OUT is at LIMIT; then the record counts, and the instruction holds its place no longer. -/
def countOut : Act Unit := do
  let s ← get
  if !s.me.outTaken && decide ((s.core (coreOf s.cur)).limit ≤ (s.core (coreOf s.cur)).spawnOut) then block
  else set (s.takeOut.modMe (fun t => { t with outTaken := false }))

/-- An instruction that waits to send its record keeps its place in OUT (R214). -/
def keepOut (s : State) : State := s.takeOut.modMe (fun t => { t with outTaken := true })

/-- The waits of a record that OUT counts already: that of R217, and those of its path. -/
def waitCounted (p : Path) : Act Unit := do
  let s ← get
  if s.recordWaits || !s.pathOpen s.cur p then blockWith keepOut else return ()

/-- The message of a record: to the queue of its anchor's home, or a deposit at its block's. -/
def recordMsg (s : State) (r : Rec) (x : Target) (no : Nat) : Msg :=
  let p := s.recordPath x.home
  match x.block with
  | none => (s.mkMsg p (homeEp x.home) no (.record r true)).at x.anchor
  | some l => s.mkMsg p (homeEp x.home) no (.deposit (.dm l) r)

/-- Everything after the checks: SPAWNMAX, where OUT rises before the wait of R217, that wait, and the message (R214).
(DEDUCED: assumption 115.) -/
def sendRecord (r : Rec) (x : Target) : Act Unit := do
  countOut
  let no ← freshA
  let s ← get
  let m := recordMsg s r x no
  if s.me.specOn then sendOrHold m true true spaceDm 0 []
  else do
    waitCounted m.path
    modify (fun s => s.post m)

/-- A record checked and sent. -/
def checkAndSend (r : Rec) : Act Unit := do
  let x ← checkRecord r
  sendRecord r x

/-! ## spawn, fork, migrate -/

/-- `spawn` (R214). It waits for a reply owed to any of w24 to w31, whatever ARGC will say. (DESIGN CHOICE: assumption 116.) -/
def execSpawn (c : Ctl) (desc : WI) (base : WG) (len : WI) (s : State) : Host.Outcome State Fault Refusal :=
  runScalar c ((((Uses.wi desc).and (Uses.wg base)).and (Uses.wi len)).and (Uses.args 24)) (do
    let b ← readWG base
    let n ← readLen 0x90 0 len
    let d ← readDesc desc
    let t ← getMe
    checkAndSend (descRecord d b n (recArgs t 24 (hdrArgc (d.getD 0 0#64))))
    return .seq) s

def Uses.recSrc : RecSrc → Uses
  | .mem w => Uses.w w
  | .vec r => Uses.vr r

/-- The sixteen words of a vector register's 128 bytes. -/
def lanesRecord (ls : Lanes) : Rec := bytesWords 16 (lanesBytes ls)

/-- `spawn.rec` (R215). -/
def execSpawnRec (c : Ctl) (src : RecSrc) (s : State) : Host.Outcome State Fault Refusal :=
  runScalar c (Uses.recSrc src) (do
    let r ← (match src with
      | .mem w => do
        let a := (← getMe).w w.toNat
        return bytesWords 16 (← readPre a.toNat 128)
      | .vec v => do return lanesRecord (← readVReg v))
    checkAndSend r
    return .seq) s

/-- A task's own header with N and F set and ARGC 7 (R220, R221). -/
def forkHeader (t : Thread) : W64 := t.header ||| 0x1F00000000000000#64

/-- A record whose bodies are both `entry`. -/
def forkRecord (t : Thread) (entry base len cont flags : W64) (args : List W64) : Rec :=
  [forkHeader t, entry, entry, base, w64 (fieldOf len 0 32), cont, flags, 0#64] ++ args

/-- `fork entry` (R220). -/
def execFork (c : Ctl) (entry : WI) (s : State) : Host.Outcome State Fault Refusal :=
  runScalar c ((Uses.wi entry).and (Uses.args 24)) (do
    let e ← readEntry entry
    let t ← getMe
    checkAndSend (forkRecord t e (t.gReg 8) (t.gReg 9) 0#64 0#64 (recArgs t 24 7))
    return .seq) s

/-- `fork entry, base, len` (R220). -/
def execForkAnchored (c : Ctl) (entry : WI) (base : WG) (len : WI) (s : State) : Host.Outcome State Fault Refusal :=
  runScalar c ((((Uses.wi entry).and (Uses.wg base)).and (Uses.wi len)).and (Uses.args 24)) (do
    let e ← readEntry entry
    let b ← readWG base
    let n ← readLen 0x93 1 len
    let t ← getMe
    checkAndSend (forkRecord t e b n 0#64 0#64 (recArgs t 24 7))
    return .seq) s

/-- `migrate` (R221): the record leaves, and the task ends with its CONT travelling on. The record's FLAGS are those that
every earlier matrix instruction has raised its own in (R240). -/
def execMigrate (c : Ctl) (entry : WI) (base : WG) (len : WI) (s : State) : Host.Outcome State Fault Refusal :=
  runScalar c (((((Uses.wi entry).and (Uses.wg base)).and (Uses.wi len)).and (Uses.args 0)).and { conflict := some 0x94 }) (do
    let e ← readEntry entry
    let b ← readWG base
    let n ← readLen 0x94 0 len
    waitMatrixWork
    let t ← getMe
    checkAndSend (forkRecord t e b n t.cont (t.flags.setWidth 64) (recArgs t 0 7))
    if t.owed.isEmpty then do
      modify (fun s => endTask s s.cur)
      return .ended
    else blockWith keepOut) s

/-! ## Launches (R201, R218, R219) -/

/-- What a launch needs of its descriptor (R188, R216): check 2. -/
def checkLaunchFormat (h : W64) : Act Unit :=
  if hdrF h && decide (hdrGran h ≤ 32) then return () else trap causeTaskFormat 0#64

/-- The shape operand: log₂ of the sides; `none` where a bit above [5:0] is set or a side exceeds 2^5. -/
def shapeOf (v : W64) : Option (Nat × Nat) :=
  if v.toNat < 64 ∧ fieldOf v 0 3 ≤ 5 ∧ fieldOf v 3 3 ≤ 5 then some (2 ^ fieldOf v 0 3, 2 ^ fieldOf v 3 3) else none

/-- The origin operand; `none` where a bit above [9:0] is set. -/
def originOf (v : W64) : Option (Nat × Nat) :=
  if v.toNat < 1024 then some (fieldOf v 0 5, fieldOf v 5 5) else none

/-- Whether a rectangle is aligned and lies inside the partition. -/
def rectOk (pt : Part) (x y w h : Nat) : Bool :=
  decide (x % w = 0) && decide (y % h = 0) && decide (x + w ≤ pt.w) && decide (y + h ≤ pt.h)

/-- The physical core of a partition-virtual tile. -/
def tileCore (pt : Part) (x y : Nat) : Nat := (pt.y0 + y) * 32 + (pt.x0 + x)

/-- The instances of a launch, in ascending (y, x) order. -/
def launchMsgs (s : State) (pt : Part) (r : Rec) (lid x y w h : Nat) : List Msg :=
  (List.range (w * h)).map (fun i =>
    let inst : Inst := ⟨s.me.part, r, i % w, i / w, w, h, coreOf s.cur, s.me.task, lid⟩
    s.mkMsg .ls (tileCore pt (x + i % w) (y + i / w)) 0 (.launch inst))

/-- A launch at an origin: one outstanding record, one message to each core of the rectangle. -/
def sendLaunch (r : Rec) (x y w h : Nat) : Act Ret := do
  countOut
  let lid ← freshA
  let s ← get
  let ms := launchMsgs s (s.prt s.me.part) r lid x y w h
  if s.me.specOn then do
    holdA ⟨ms, true, true, spaceDm, 0, []⟩
    return .seq
  else do
    waitCounted .ls
    modify (fun s => ms.foldl (fun s m => s.post m) s)
    return .seq

/-- The record of a launch's instances. -/
def launchRecord (d : List W64) (t : Thread) : Rec :=
  descRecord d (d.getD 3 0#64) (d.getD 4 0#64) (recArgs t 24 (hdrArgc (d.getD 0 0#64)))

/-- `spawnr` (R218). -/
def execSpawnr (c : Ctl) (desc : WI) (origin shape : WI) (s : State) : Host.Outcome State Fault Refusal :=
  runScalar c ((((Uses.wi desc).and (Uses.wi origin)).and (Uses.wi shape)).and (Uses.args 24)) (do
    let o ← readWI origin
    let sh ← readWI shape
    let d ← readDesc desc
    let t ← getMe
    let r := launchRecord d t
    checkLaunchFormat (Rec.header r)
    let pt := (← get).prt t.part
    match originOf o, shapeOf sh with
    | some (x, y), some (w, h) =>
      if Rec.dcoff r ≠ 0 ∨ rectOk pt x y w h = false then trap causeLaunchShape 0#64
      else sendLaunch r x y w h
    | _, _ => trap causeLaunchShape 0#64) s

/-- The entries of a placement map, from entry k on, read in ascending order. -/
def readMap (a : Nat) : Nat → Nat → Act (List W64)
  | 0, _ => return []
  | n + 1, k => do
    let e ← readPre (a + 8 * k) 8
    let rest ← readMap a n (k + 1)
    return bytesWord e :: rest

/-- The dies that a map names and the partition covers, by descending count, lowest die first among equals. (DESIGN CHOICE:
assumption 133.) -/
def mapDies (pt : Part) (es : List W64) : List Nat :=
  let cnt (d : Nat) : Nat := (es.filter (fun e => fieldOf e 0 2 == d)).length
  let ds := (List.range 4).filter (fun d => pt.dies.contains d && decide (1 ≤ cnt d))
  (List.range 257).flatMap (fun i => ds.filter (fun d => cnt d == 256 - i))

/-- Whether every tile of a rectangle lies on one die. -/
def rectOnDie (pt : Part) (d x y w h : Nat) : Bool :=
  (List.range h).all (fun j => (List.range w).all (fun i => dieOf (pt.x0 + x + i) (pt.y0 + y + j) == d))

/-- The first aligned origin of a rectangle on a die, in ascending (vy, vx). -/
def originOnDie (pt : Part) (d w h : Nat) : Option (Nat × Nat) :=
  ((List.range (pt.w * pt.h)).map (fun i => (i % pt.w, i / pt.w))).find?
    (fun o => rectOk pt o.1 o.2 w h && rectOnDie pt d o.1 o.2 w h)

/-- The die and origin of a `spawnd` (R201). -/
def placeRect (pt : Part) (es : List W64) (w h : Nat) : Option (Nat × Nat) :=
  (mapDies pt es).findSome? (fun d => originOnDie pt d w h)

/-- `spawnd` (R219). -/
def execSpawnd (c : Ctl) (desc : WI) (map : BitVec 5) (shape : WI) (s : State) : Host.Outcome State Fault Refusal :=
  runScalar c ((((Uses.wi desc).and (Uses.w map)).and (Uses.wi shape)).and (Uses.args 24)) (do
    let sh ← readWI shape
    let a := ((← getMe).w map.toNat).toNat
    let d ← readDesc desc
    let n := (bytesWord (← readPre a 8)).toNat
    let es ← (if 1 ≤ n ∧ n ≤ 256 then readMap a n 1 else return [])
    let t ← getMe
    let r := launchRecord d t
    checkLaunchFormat (Rec.header r)
    let pt := (← get).prt t.part
    match shapeOf sh with
    | none => trap causeLaunchShape 0#64
    | some (w, h) =>
      match placeRect pt es w h with
      | none => trap causeLaunchShape 0#64
      | some (x, y) => if Rec.dcoff r ≠ 0 then trap causeLaunchShape 0#64 else sendLaunch r x y w h) s

/-! ## Counters (R222, R223) -/

/-- A counter block named by an instruction: aligned to 256 bytes, with the checks of R158 for an atomic. -/
def blockAccess (blk : BitVec 5) : Act DmLoc := do dmAccess .atomic ((← getMe).w blk.toNat).toNat 256

/-- A write to a block, sent or held; `rel` is the wait of R217. -/
def sendBlock (l : DmLoc) (req : Req) (rel : Bool) : Act Unit := do
  let s ← get
  let p := s.pathTo l.home
  if s.me.specOn then sendOrHold (s.mkMsg p (homeEp l.home) 0 req) rel false spaceDm 0 []
  else do
    (if rel then waitRecord else return ())
    waitSend p false
    modify (fun s => s.post (s.mkMsg p (homeEp l.home) 0 req))

/-- `setdep` (R222). -/
def execSetdep (c : Ctl) (blk : BitVec 5) (count : WI) (s : State) : Host.Outcome State Fault Refusal :=
  runScalar c ((Uses.w blk).and (Uses.wi count)) (do
    let n ← readWI count
    let l ← blockAccess blk
    sendBlock l (.setdep (.dm l) n none) false
    return .seq) s

/-- `setdep.held` (R222). -/
def execSetdepHeld (c : Ctl) (blk : BitVec 5) (count : WI) (rec : BitVec 5) (s : State) :
    Host.Outcome State Fault Refusal :=
  runScalar c (((Uses.w blk).and (Uses.wi count)).and (Uses.w rec)) (do
    let n ← readWI count
    let a := ((← getMe).w rec.toNat).toNat
    let r := bytesWords 16 (← readPre a 128)
    let _ ← checkRecord r
    let l ← blockAccess blk
    sendBlock l (.setdep (.dm l) n (some r)) true
    return .seq) s

/-- `decr` (R223). -/
def execDecr (c : Ctl) (blk : BitVec 5) (s : State) : Host.Outcome State Fault Refusal :=
  runScalar c (Uses.w blk) (do
    let l ← blockAccess blk
    sendBlock l (.decrement (.dm l)) true
    return .seq) s

/-- The end of a task that has waited for its replies (R111). (DEDUCED: assumption 34.) -/
def finishTask : Act Ret := do
  modify (fun s => endTask s s.cur)
  return .ended

/-- `done` (R111, R200): every reply owed to the thread has landed, and a CONT is decremented as by `done.j`. -/
def execDone (c : Ctl) (s : State) : Host.Outcome State Fault Refusal :=
  runScalar c { conflict := some 0x08 } (do
    let t ← getMe
    if t.cont = 0#64 then (if t.owed.isEmpty then finishTask else block)
    else do
      let l ← dmAccess .atomic t.cont.toNat 256
      if t.owed.isEmpty then do
        sendBlock l (.decrement (.dm l)) true
        finishTask
      else block) s

/-- `done.j` (R111): CONT is ignored. -/
def execDoneJ (c : Ctl) (a : BitVec 5) (s : State) : Host.Outcome State Fault Refusal :=
  runScalar c ((Uses.w a).and { conflict := some 0x08 }) (do
    let l ← blockAccess a
    if (← getMe).owed.isEmpty then do
      sendBlock l (.decrement (.dm l)) true
      finishTask
    else block) s

/-! ## Queue configuration, status and steals (R224 to R226) -/

/-- A `qcfg` value: inside its range, or ILLEGAL. -/
def qcfgValue (fn lim : Nat) (v : WI) : Act W64 := do
  let x ← readWI v
  if x.toNat ≤ lim then return x else illegalA 0x97 fn 5 3 (wiAny.enc v).toNat

/-- One field of a queue set (R224): `align` is the alignment of a `.spbase` value. A handler may send it to any home.
(DEDUCED: assumptions 74 and 111.) -/
def sendQcfg (c : Ctl) (fn : Nat) (f : QField) (lim align : Nat) (addr : WG) (q : WI) (v : WI) (s : State) :
    Host.Outcome State Fault Refusal :=
  runScalar c (((Uses.wg addr).and (Uses.wi q)).and (Uses.wi v)) (do
    let a ← readWG addr
    let k ← readLimit 0x97 fn 2 15 q
    let x ← qcfgValue fn lim v
    if x.toNat % align ≠ 0 then trap causeMisaligned x
    else do
      let h ← anchorHome a
      let s ← get
      let m := (s.mkMsg (s.recordPath h.2) (homeEp h.2) 0 (.qcfg k f x)).at h.1
      if s.me.specOn then do
        sendOrHold m false false spaceDm 0 []
        return .seq
      else do
        waitSend m.path false
        modify (fun s => s.post m)
        return .seq) s

/-- `qcfg.thresh` (R224). -/
def execQcfgThresh (c : Ctl) (addr : WG) (q : WI) (v : WI) (s : State) : Host.Outcome State Fault Refusal :=
  sendQcfg c 0 .thresh 47 1 addr q v s
/-- `qcfg.tickets` (R224). -/
def execQcfgTickets (c : Ctl) (addr : WG) (q : WI) (v : WI) (s : State) : Host.Outcome State Fault Refusal :=
  sendQcfg c 1 .tickets 255 1 addr q v s
/-- `qcfg.spbase` (R224): any 64-bit value that is aligned to 128 bytes. (DESIGN CHOICE: assumption 120.) -/
def execQcfgSpbase (c : Ctl) (addr : WG) (q : WI) (v : WI) (s : State) : Host.Outcome State Fault Refusal :=
  sendQcfg c 2 .spbase (2 ^ 64 - 1) 128 addr q v s
/-- `qcfg.spsize` (R224). -/
def execQcfgSpsize (c : Ctl) (addr : WG) (q : WI) (v : WI) (s : State) : Host.Outcome State Fault Refusal :=
  sendQcfg c 3 .spsize (2 ^ 24 - 1) 1 addr q v s

/-- How a 64-bit reply lands in a destination of set W. -/
def dstFill (d : Dst) (t : Thread) : Fill :=
  match d with
  | .w r => .word (t.preg r.toNat)
  | .q r => .queue r.toNat
  | .n r => .port r.toNat
/-- A port destination has to be bound to send before anything leaves (R101). -/
def checkDst (d : Dst) (t : Thread) : Act Unit :=
  match d with
  | .n r => (match t.port r.toNat with
    | .tx _ => return ()
    | _ => trap causePortUnbound (w64 r.toNat))
  | _ => return ()
def dstRegs (d : Dst) (t : Thread) : List PReg :=
  match d with
  | .w r => [t.preg r.toNat]
  | .q r => [.q r.toNat]
  | .n r => [.n r.toNat]
/-- A queue or port destination waits for the thread's fences, as its write would (R99, R292); a queue counts as used
(R296). -/
def claimDst (d : Dst) : Act Unit :=
  match d with
  | .w _ => return ()
  | .q _ => do
    waitFences
    modMeA (fun t => { t with usedQueue := true })
  | .n _ => waitFences

/-- `qstat` (R225): the queue number is checked first, then a port destination, then `addr`. (DESIGN CHOICE: assumption 121.) -/
def execQstat (c : Ctl) (d : Dst) (addr : BitVec 5) (q : WI) (s : State) : Host.Outcome State Fault Refusal :=
  runScalar c ((((Uses.dst 0x98 d).and (Uses.w addr)).and (Uses.wi q)).and { conflict := some 0x98 }) (do
    let a := (← getMe).w addr.toNat
    let k ← readLimit 0x98 0 3 15 q
    checkDst d (← getMe)
    let h ← anchorHome a
    let p := (← get).recordPath h.2
    waitSend p false
    claimDst d
    let tok ← freshA
    let t ← getMe
    owe ⟨tok, dstRegs d t, dstFill d t, [], false, none, p⟩
    modify (fun s => s.post ((s.mkMsg p (homeEp h.2) tok (.qstat k)).at h.1))
    return .seq) s

/-- `steal` and `steal.any` (R226); a grant is the acquire of R210. -/
def sendSteal (c : Ctl) (fn : Nat) (any : Bool) (d : VReg) (addr : BitVec 5) (q : WI) (s : State) :
    Host.Outcome State Fault Refusal :=
  runScalar c ((((Uses.vr d).and (Uses.w addr)).and (Uses.wi q)).and { conflict := some 0x99 }) (do
    let a := (← getMe).w addr.toNat
    let k ← readLimit 0x99 fn 3 15 q
    let h ← anchorHome a
    let p := (← get).recordPath h.2
    waitSend p false
    let tok ← freshA
    let t ← getMe
    owe ⟨tok, [.v (t.vIdx d)], .recd (t.vIdx d), [], true, none, p⟩
    modify (fun s => s.post ((s.mkMsg p (homeEp h.2) tok (.steal k any)).at h.1))
    return .seq) s

/-- `steal` (R226). -/
def execSteal (c : Ctl) (d : VReg) (addr : BitVec 5) (q : WI) (s : State) : Host.Outcome State Fault Refusal :=
  sendSteal c 0 false d addr q s
/-- `steal.any` (R226). -/
def execStealAny (c : Ctl) (d : VReg) (addr : BitVec 5) (q : WI) (s : State) : Host.Outcome State Fault Refusal :=
  sendSteal c 1 true d addr q s

end Sys2Proof.Machine
end

