-- ==== Sys2Proof/Machine/Queues.lean ====
section
/-!
DEFINITION. Records at their homes: anchored queues with their spill regions (R191 to R197), the counter blocks
(R198, R199, R222), and the messages of the tag tables (R172, R285 to R288).
-/
namespace Sys2Proof.Machine

open Sys2Proof

/-! ## The spill region (R192, R193) -/

/-- An access of the home to a spill place: the location, translated through the buffer of its cellar core (R157);
`none` where the translation, W or the home's check refuses it. -/
def spillAt (s : State) (h p : Nat) (va : W64) (write : Bool) : Option (DmLoc × State) :=
  match lookupOrWalk s (coreBufs (homeEp h)) p va.toNat with
  | none => none
  | some (l, s1) =>
    if l.attr = 2#2 ∧ sparseLimit ≤ l.off then none
    else if write && !l.wr then none
    else if frameOk s p l then some (l, s1) else none

/-- The address of a place. -/
def spillVa (q : Queue) (place : Nat) : W64 := q.spbase + w64 (128 * place)

/-- A record written at a place. The home's own accesses go to DRAM with the group tag 0. (DESIGN CHOICE: assumption 112.) -/
def spillWrite (s : State) (h p : Nat) (va : W64) (r : Rec) : Option State :=
  match spillAt s h p va true with
  | some (l, s1) =>
    if isSparse (.dm l) && locBad s1 (.dm l) 128 then none
    else some (writeLoc (noteLoc s1 (.dm l) 128 0#32) p (.dm l) ((wordsBytes r).map some))
  | none => none

/-- A record read from a place. (DEDUCED: assumption 50.) -/
def spillRead (s : State) (h p : Nat) (va : W64) : Option (Rec × State) :=
  match spillAt s h p va false with
  | some (l, s1) =>
    if locBad s1 (.dm l) 128 then none
    else some (bytesWords 16 (readLoc s1 p (.dm l) 128), noteLoc s1 (.dm l) 128 0#32)
  | none => none

/-- QSPERR: a failure counted, in the field at a place, with the spill address (R193). -/
def qsperr (lo : Nat) (va : W64) (p : Part) : Part :=
  let w := p.cfReg 0x73
  p.setCf 0x73 (withField (withField w lo 8 (min 255 (fieldOf w lo 8 + 1))) 0 48 (fieldOf va 0 48))
def qsperrWfail : W64 → Part → Part := qsperr 56
def qsperrLost : W64 → Part → Part := qsperr 48

/-- The place after another. -/
def nextPlace (q : Queue) (k : Nat) : Nat := if q.spsize ≤ k + 1 then 0 else k + 1

/-- The head passes the places whose records a steal has taken (R192). -/
def skipHoles : Nat → Queue → Queue
  | 0, q => q
  | n + 1, q =>
    if 0 < q.used ∧ q.entries.all (fun e => e.spilled != some q.head) = true then
      skipHoles n { q with head := nextPlace q q.head, used := q.used - 1 }
    else q

/-- The oldest spilled record of a queue. -/
def oldestSpilled (q : Queue) : Option QEntry := q.entries.find? (fun e => e.spilled.isSome)

/-- The oldest spilled record moves into a free hardware entry (R192); one that cannot be read is lost (R193). -/
def refillOne (s : State) (h p q : Nat) : State :=
  let x := (s.home (homeEp h)).queue p q
  match oldestSpilled x with
  | none => s
  | some e =>
    if x.hw < 48 then
      let va := spillVa x (e.spilled.getD 0)
      match spillRead s h p va with
      | some (r, s1) => s1.modQueue h p q (fun y => skipHoles y.used { y with
          entries := y.entries.map (fun z => if z.num = e.num then { z with recd := r, spilled := none } else z) })
      | none => (s.modQueue h p q (fun y => skipHoles y.used { y with
          entries := y.entries.filter (fun z => z.num != e.num) })).modPart p (qsperrLost va)
    else s

def refill : Nat → State → Nat → Nat → Nat → State
  | 0, s, _, _, _ => s
  | n + 1, s, h, p, q => refill n (refillOne s h p q) h p q

/-- What a queue does once an entry has left it: refills, holes, pending settings. (DEDUCED: assumption 51.) -/
def settleQueue (s : State) (h p q : Nat) : State :=
  let n := ((s.home (homeEp h)).queue p q).entries.length
  (refill n s h p q).modQueue h p q (fun x => takePending (skipHoles x.used x))

/-! ## The arrival of a record (R191, R192) -/

/-- A refused record goes back to the interface that sent it. -/
def refuseRecord (s : State) (m : Msg) (r : Rec) (counted : Bool) : State :=
  match m.path with
  | .nb | .am => s.modCore m.src (fun c => { c with resend := c.resend ++ [m] })
  | _ => s.inject { m with src := m.dst, dst := m.src, req := .recordRefused r counted m.dst }

/-- The queue number of a record in a message. -/
def msgQueue (m : Msg) : Option Nat :=
  match m.req with
  | .record r _ => some (hdrQnum (Rec.header r))
  | .recordRefused r _ _ => some (hdrQnum (Rec.header r))
  | _ => none

/-- Whether message x is a record of the flow of record m: from one sender to one queue of a home, on its way there, on
its way back refused, or waiting to be sent again. -/
def sameFlow (core home : Nat) (m x : Msg) : Bool :=
  x.part == m.part && msgQueue x == msgQueue m &&
  (match x.req with
   | .recordRefused _ _ _ => x.dst == core && x.src == home
   | _ => x.src == core && x.dst == home)

/-- Whether an earlier record of the flow has not been accepted: records keep their sending order (R192). A record's
number is its message's `tok`, drawn as it is sent. -/
def olderRecord (s : State) (m : Msg) : Bool :=
  s.inFlight.any (fun x => sameFlow m.src m.dst m x && decide (x.tok < m.tok))

/-- An entry joins the end of a queue. -/
def Queue.append (q : Queue) (r : Rec) (place : Option Nat) : Queue :=
  { q with entries := q.entries ++ [⟨q.nextNum, r, place⟩], nextNum := q.nextNum + 1 }

/-- A record enters hardware, or the spill region; `none` where there is no room, or the write fails. -/
def enqueue (s : State) (h p q : Nat) (r : Rec) : Option State × State :=
  let x := (s.home (homeEp h)).queue p q
  if x.hw < 48 ∧ x.spilled = 0 then (some (s.modQueue h p q (fun y => y.append r none)), s)
  else if x.noSpill = false ∧ x.used < x.spsize then
    let va := spillVa x x.tail
    match spillWrite s h p va r with
    | some s1 => (some (s1.modQueue h p q (fun y =>
        { (y.append r (some y.tail)) with tail := nextPlace y y.tail, used := y.used + 1 })), s)
    | none => (none, (s.modQueue h p q (fun y => { y with noSpill := true })).modPart p (qsperrWfail va))
  else (none, s)

/-- A record arrives at its queue: it enters hardware, spills or is sent back (R192). One of a partition that is being
contained is discarded (R340, R341); one whose anchor's frame the home refuses is never queued (R176). -/
def arriveRecord (s : State) (h : Nat) (m : Msg) (r : Rec) (counted : Bool) : State :=
  if s.halted m.part then discardMsg s m
  else if m.loc.any (fun l => !frameOk s m.part l) then checkNamed (discardMsg s m) m id
  else if olderRecord s m then refuseRecord s m r counted
  else
    let x := enqueue s h m.part (hdrQnum (Rec.header r)) r
    match x.1 with
    | some s1 => if counted then lowerOut s1 (coreOf m.thr) else s1
    | none => refuseRecord x.2 m r counted

/-- The next message at a port of a home, taken out of its inbox, where it is of a kind. -/
def takeIf (s : State) (h : Nat) (loc : Bool) (f : State → Msg → Option State) : State :=
  match inboxNext s (homeEp h) loc with
  | some (i, m) => (f (inboxTake s (homeEp h) loc i) m).getD s
  | none => s

def execRecordArrival (home : Nat) (loc : Bool) (s : State) : Host.Outcome State Fault Refusal :=
  .next (takeIf s home loc (fun s m => match m.req with
    | .record r c => some (arriveRecord s home m r c)
    | _ => none))

/-- A refused record is sent again (R192); the oldest of its queue goes first. (DESIGN CHOICE: assumption 81.) -/
def execRecordResend (core i : Nat) (s : State) : Host.Outcome State Fault Refusal :=
  let l := (s.core core).resend
  match l[i]? with
  | none => .next s
  | some m =>
    if l.any (fun x => sameFlow m.src m.dst m x && decide (x.tok < m.tok)) then .next s
    else .next ((s.modCore core (fun c => { c with resend := c.resend.eraseIdx i })).post m)

/-! ## Takes and steals (R194 to R197) -/

/-- Whether two anchors overlap (R195). -/
def anchorsOverlap (a b : W64 × Nat) : Bool :=
  decide (a.2 ≠ 0) && decide (b.2 ≠ 0) && bitOf a.1 63 == bitOf b.1 63 &&
  decide (a.1.toNat < b.1.toNat + b.2) && decide (b.1.toNat < a.1.toNat + a.2)

def recAnchor (r : Rec) : W64 × Nat := (Rec.abase r, Rec.alen r)

/-- Whether an entry is overlap-clean among the live tasks of its queue (R195). -/
def overlapClean (live : List (Nat × W64 × Nat × W64)) (es : List QEntry) (e : QEntry) : Bool :=
  !hdrO (Rec.header e.recd) ||
  (!es.any (fun x => decide (x.num < e.num) && anchorsOverlap (recAnchor x.recd) (recAnchor e.recd)) &&
   !live.any (fun x => decide (x.1 < e.num) && anchorsOverlap (x.2.1, x.2.2.1) (recAnchor e.recd)))

/-- The entry that a near take takes: the first that qualifies among the eight oldest (R194). -/
def nearChoice (s : State) (h p q : Nat) : Option QEntry :=
  let x := (s.home (homeEp h)).queue p q
  (x.entries.take 8).find? (fun e => nearEligible (Rec.header e.recd) && overlapClean (liveNear s h p q) x.entries e)

/-- One near take by a slot (R194): the record is the slot's next task, and live until it ends. -/
def nearTake (s : State) (h p q slot : Nat) : State :=
  match nearChoice s h p q with
  | none => s
  | some e =>
    let live := liveNear s h p q
    let s1 := s.modQueue h p q (fun x => { x with
      entries := x.entries.filter (fun z => z.num != e.num)
      nearLive := live ++ [(e.num, Rec.abase e.recd, Rec.alen e.recd, 0#64)] })
    let s2 := s1.modCore (homeEp h) (fun c =>
      { c with granted := c.granted ++ [(slot, e.recd, q, some ⟨h, p, q, e.num⟩)] })
    settleQueue s2 h p q

/-- Whether a queued record may be stolen by a core (R188): across dies only with M. -/
def stealable (r : Rec) (h core : Nat) : Bool :=
  farEligible (Rec.header r) && (hdrM (Rec.header r) || h / 64 == coreDie core)

/-- The entry that a steal is granted: the youngest that qualifies among the eight youngest (R196). -/
def farChoice (s : State) (h p q core : Nat) : Option QEntry :=
  let x := (s.home (homeEp h)).queue p q
  (x.entries.reverse.take 8).find? (fun e => stealable e.recd h core && overlapClean (liveNear s h p q) x.entries e)

/-- One steal decided (R196, R226). -/
def decideSteal (s : State) (h p q : Nat) (m : Msg) : State :=
  let x := (s.home (homeEp h)).queue p q
  let any := match m.req with | .steal _ a => a | _ => false
  let refuse (s : State) : State := s.answer m (.grant none q (homeEp h))
  if s.halted p || (if any then decide (x.depth < 1) else decide (x.depth ≤ x.thresh)) then refuse s
  else match farChoice s h p q m.src with
    | none => refuse s
    | some e =>
      let gone (s : State) : State := settleQueue (s.modQueue h p q (fun y => { y with
        entries := y.entries.filter (fun z => z.num != e.num) })) h p q
      match e.spilled with
      | none => (gone s).answer m (.grant (some e.recd) q (homeEp h))
      | some k =>
        match spillRead s h p (spillVa x k) with
        | some (r, s1) => (gone s1).answer m (.grant (some r) q (homeEp h))
        | none => refuse ((gone s).modPart p (qsperrLost (spillVa x k)))

/-- Whether a slot holds no task, and none has been chosen or asked for it. -/
def State.slotFree (s : State) (t : Nat) : Bool :=
  let c := s.core (coreOf t)
  !(s.thr t).active && !c.starting.any (fun x => x.1 == slotOf t) && !c.granted.any (fun x => x.1 == slotOf t) &&
  !(c.decision (slotOf t)).pending

/-- Whether slots may take near bodies: dispatch goes on at the core. -/
def takesNear (s : State) (h p : Nat) : Bool := !s.halted p && !(s.core (homeEp h)).stopped.contains p

/-- One decision of a queue (R197): the near takes, the lowest slot first, then the steals in arrival order. -/
def execQueueDecide (home p q : Nat) (s : State) : Host.Outcome State Fault Refusal :=
  let x := (s.home (homeEp home)).queue p q
  if x.takes.isEmpty && x.steals.isEmpty then .next s
  else
    let s1 := s.modQueue home p q (fun y => { y with takes := [], steals := [] })
    let s2 := ((List.range 6).filter (fun k => x.takes.contains k)).foldl
      (fun s k => if takesNear s home p && s.slotFree (homeEp home * 16 + k) then nearTake s home p q k else s) s1
    .next (x.steals.foldl (fun s m => decideSteal s home p q m) s2)

/-! ## Publications (R207) -/

/-- The key of a queue in `State.pub`. -/
def pubKey (h p q : Nat) : Nat := (h * 64 + p) * 16 + q

/-- A home publishes the excess of each of its queues; slots that waited for it decide again. -/
def execQueuePublication (home : Nat) (s : State) : Host.Outcome State Fault Refusal :=
  let h := s.home (homeEp home)
  let pub := h.queues.foldl (fun m x =>
    SMap.set 0 m (pubKey home (x.1 / 16) (x.1 % 16)) (x.2.depth - x.2.thresh)) (s.pub.filter (fun e => e.1 / 1024 != home))
  .next { s with
    pub := pub
    cores := s.cores.map (fun c => (c.1, { c.2 with
      decisions := c.2.decisions.filter (fun d => !d.2.waiting) })) }

/-! ## Counter blocks (R198, R199) -/

/-- DEPLOG (R200): an event counted in an 8-bit field, with the block's address. -/
def deplog (lo : Nat) (blk : Nat) (p : Part) : Part :=
  let w := p.cfReg 0x72
  p.setCf 0x72 (withField (withField w lo 8 (min 255 (fieldOf w lo 8 + 1))) 8 40 (blk / 256))
def deplogUf : Nat → Part → Part := deplog 56
def deplogBusy : Nat → Part → Part := deplog 48
def deplogFail : Nat → Part → Part := deplog 0

/-- Checks 3 to 5 of R216 by a home on an anchor, translated anew through the buffer of its cellar core, and the check of
R176: the anchor's home. (DEDUCED: assumption 96.) -/
def homeAnchor (s : State) (h p : Nat) (r : Rec) : Option (Nat × State) :=
  let a := Rec.abase r
  let n := Rec.alen r
  if Rec.spAnchor r then
    if crosses a.toNat n 4096 || decide (fieldOf a 32 31 ≠ 0) then none
    else (spPlace s (s.prt p) (fieldOf a 0 32)).map (fun x => (x.1, s))
  else if crosses a.toNat n (2 ^ 21) then none
  else match lookupOrWalk s (coreBufs (homeEp h)) p a.toNat with
    | none => none
    | some (l, s1) =>
      if l.attr = 2#2 ∧ sparseLimit ≤ l.off then none
      else if l.attr = 0#2 ∧ crosses a.toNat n 4096 = true then none
      else if frameOk s1 p l then some (l.home, s1) else none

/-- A home sends a record as a spawn of its own (R199); one that fails the checks is dropped and counted. -/
def homeSend (s : State) (h p blk : Nat) (r : Rec) : State :=
  match homeAnchor s h p r with
  | none => s.modPart p (deplogFail blk)
  | some (g, s1) =>
    let f := s1.fresh
    let path : Path := if g = h then .nb else .ls
    f.2.post ⟨homeEp h, homeEp g, 0, path, p, homeEp h * 16, 0#64, hdrTag (Rec.header r), f.1, .record r false, none, 0⟩

/-- The signed count of a block, its STATE, and its record. -/
def blockCount (s : State) (p : Nat) (l : DmLoc) : Int := (bytesWord (readLoc s p (.dm l) 8)).toInt
def blockState (s : State) (p : Nat) (l : DmLoc) : W64 := bytesWord (readLoc s p (.dm { l with va := l.va + 8 }) 8)
def blockHeld (s : State) (p : Nat) (l : DmLoc) : Rec := bytesWords 16 (readLoc s p (.dm { l with va := l.va + 128 }) 128)

/-- A word of a block written, and its record, in a step that ends with `closeDm`. -/
def setBlockWord (s : State) (p : Nat) (l : DmLoc) (off : Nat) (v : W64) : State :=
  writeDm s p { l with va := l.va + off } ((wordBytes v).map some)
def setBlockHeld (s : State) (p : Nat) (l : DmLoc) (r : Rec) : State :=
  writeDm s p { l with va := l.va + 128 } ((wordsBytes r).map some)

/-- The decrement of R199; what it writes is one step of the undo log (R181). -/
def decrementBlock (s : State) (p : Nat) (l : DmLoc) : State :=
  let c := blockCount s p l
  if 2 ≤ c then closeDm (setBlockWord s p l 0 (BitVec.ofInt 64 (c - 1))) p l
  else if c = 1 then
    let r := blockHeld s p l
    let held := blockState s p l == 1#64
    let s1 := closeDm (setBlockWord (setBlockWord s p l 0 0#64) p l 8 2#64) p l
    if held then homeSend s1 l.home p l.va r else s1
  else (closeDm (setBlockWord s p l 0 0#64) p l).modPart p (deplogUf l.va)

/-- The deposit of R199. -/
def depositBlock (s : State) (p : Nat) (l : DmLoc) (r : Rec) : State :=
  let st := blockState s p l
  if st = 1#64 then s.modPart p (deplogBusy l.va)
  else if st = 2#64 ∨ blockCount s p l ≤ 0 then homeSend (closeDm (setBlockWord s p l 8 2#64) p l) l.home p l.va r
  else closeDm (setBlockWord (setBlockHeld s p l r) p l 8 1#64) p l

/-- `setdep` and `setdep.held` at the block's home (R222). -/
def setBlock (s : State) (p : Nat) (l : DmLoc) (count : W64) (held : Option Rec) : State :=
  match held with
  | none => closeDm (setBlockWord (setBlockWord s p l 0 count) p l 8 0#64) p l
  | some r =>
    if 1 ≤ count.toInt then
      closeDm (setBlockWord (setBlockHeld (setBlockWord s p l 0 count) p l r) p l 8 1#64) p l
    else homeSend (closeDm (setBlockWord (setBlockWord s p l 0 count) p l 8 2#64) p l) l.home p l.va r

/-- Bytes of a block: an offset and a length. -/
abbrev BlockSpan := Nat × Nat
def blockWords : BlockSpan := (0, 16)
def blockRecord : BlockSpan := (128, 128)

/-- What a request reads of its block (R199): COUNT and STATE, and HELD where it is sent; `setdep` reads nothing (R222). -/
def blockReads (s : State) (p : Nat) (l : DmLoc) : Req → List BlockSpan
  | .decrement _ => blockWords :: (if blockCount s p l = 1 ∧ blockState s p l = 1#64 then [blockRecord] else [])
  | .deposit _ _ => [blockWords]
  | _ => []

/-- What a request writes of its block beside what it reads. -/
def blockWrites (s : State) (p : Nat) (l : DmLoc) : Req → List BlockSpan
  | .deposit _ _ =>
    if blockState s p l = 1#64 ∨ blockState s p l = 2#64 ∨ blockCount s p l ≤ 0 then [] else [blockRecord]
  | .setdep _ n r => blockWords :: (if r.isSome = true ∧ 1 ≤ n.toInt then [blockRecord] else [])
  | _ => []

/-- The place of some bytes of a block. -/
def blockLoc (l : DmLoc) (x : BlockSpan) : Loc := .dm { l with va := l.va + x.1 }

/-- A request for a counter block at its home: refused, discarded, met with poison in what it reads (R182), or performed.
(DEDUCED: assumption 102.) -/
def atBlock (s : State) (m : Msg) (l : DmLoc) (f : State → State) : State :=
  if (s.prt m.part).discard then discardMsg s m
  else
    let s0 := if msgCounted m then lowerOut s (coreOf m.thr) else s
    let reads := blockReads s0 m.part l m.req
    if !frameOk s0 m.part l then s0.answer m (.refusal (w64 l.va))
    else if reads.any (fun x => locBad s0 (blockLoc l x) x.2) then s0.answer m (.poison (w64 l.va))
    else f ((reads ++ blockWrites s0 m.part l m.req).foldl (fun s x => noteLoc s (blockLoc l x) x.2 m.tag) s0)

def execCounterDecrement (home : Nat) (loc : Bool) (s : State) : Host.Outcome State Fault Refusal :=
  .next (takeIf s home loc (fun s m => match m.req with
    | .decrement (.dm l) => some (atBlock s m l (fun s => decrementBlock s m.part l))
    | _ => none))

def execCounterDeposit (home : Nat) (loc : Bool) (s : State) : Host.Outcome State Fault Refusal :=
  .next (takeIf s home loc (fun s m => match m.req with
    | .deposit (.dm l) r => some (atBlock s m l (fun s => depositBlock s m.part l r))
    | _ => none))

def execSetdepArrival (home : Nat) (loc : Bool) (s : State) : Host.Outcome State Fault Refusal :=
  .next (takeIf s home loc (fun s m => match m.req with
    | .setdep (.dm l) n r => some (atBlock s m l (fun s => setBlock s m.part l n r))
    | _ => none))

/-! ## Tag tables and handler messages (R172, R285 to R288) -/

def tagKey (p tag : Nat) : Nat := p * 256 + tag

/-- AMDROP (R287). -/
def amdrop (tag : Nat) (rtag : W32) (p : Part) : Part :=
  let n := min (2 ^ 24 - 1) (fieldOf (p.cfReg 0x91) 40 24 + 1)
  p.setCf 0x91 (w64 (n * 2 ^ 40 + tag % 256 * 2 ^ 32 + rtag.toNat))

/-- An active message is matched and queued, or dropped; a bound entry is kept with bit 0 set. -/
def arriveAm (s : State) (h : Nat) (m : Msg) (tag : Nat) (rtag : W32) (args : List W64) : State :=
  if s.halted m.part then s
  else
    let e := SMap.get 0#64 (s.home (homeEp h)).tags (tagKey m.part tag)
    if e = 0#64 then s.modPart m.part (amdrop tag rtag)
    else s.modHome (homeEp h) (fun x => { x with amq := x.amq ++ [⟨m.part, align4 e, rtag, args⟩] })

def execAmArrival (home : Nat) (loc : Bool) (s : State) : Host.Outcome State Fault Refusal :=
  .next (takeIf s home loc (fun s m => match m.req with
    | .amsg tag rtag args => some (checkNamed s m (fun s => arriveAm s home m tag rtag args))
    | _ => none))

/-- `bind` arrives: the entry of the tag is set. -/
def execBindArrival (home : Nat) (loc : Bool) (s : State) : Host.Outcome State Fault Refusal :=
  .next (takeIf s home loc (fun s m => match m.req with
    | .bind tag e => some (checkNamed s m (fun s => s.modHome (homeEp home) (fun x =>
        { x with tags := SMap.set 0#64 x.tags (tagKey m.part tag) (align4 e ||| 1#64) })))
    | _ => none))

/-- `unbind` arrives: the entry of the tag is cleared. -/
def execUnbindArrival (home : Nat) (loc : Bool) (s : State) : Host.Outcome State Fault Refusal :=
  .next (takeIf s home loc (fun s m => match m.req with
    | .unbind tag => some (checkNamed s m (fun s => s.modHome (homeEp home) (fun x =>
        { x with tags := SMap.set 0#64 x.tags (tagKey m.part tag) 0#64 })))
    | _ => none))

end Sys2Proof.Machine
end

