-- ==== Sys2Proof/Machine/Sched.lean ====
section
/-!
DEFINITION. What runs where: the run-lists and the lottery (R201, R204, R205), the near slots of cellar cores (R170,
R206), thieves (R207), handlers (R172), mailbox tasks (R16, R17, R351, R355, R364), and the routes of stream ports
(R290).
-/
namespace Sys2Proof.Machine

open Sys2Proof

/-! ## Slots and granules (R88, R95) -/

/-- Granules of a core that no task holds. -/
def granulesLeft (s : State) (c : Nat) : Nat :=
  granulesOf c - (s.coreThreads c).foldl (fun n t => n + (s.thr t).gran) 0

/-- The partition of a press core. -/
def partOfCore (s : State) (c : Nat) : Option Nat := (List.range 48).find? (fun p => (s.prt p).hasCore c)

/-- Whether dispatch for a partition goes on at a core (R339, R343). -/
def dispatches (s : State) (c p : Nat) : Bool := !s.halted p && !(s.core c).stopped.contains p

/-! ## The lottery (R205) -/

/-- `next(x)`. -/
def nextX (x : W32) : W32 :=
  let a := x ^^^ (x <<< 13)
  let b := a ^^^ (a >>> 17)
  b ^^^ (b <<< 5)

/-- The first candidate whose running sum of tickets exceeds a number. -/
def drawAmong {α : Type} (n : Nat) : Nat → List (α × Nat) → Option α
  | _, [] => none
  | sum, (a, t) :: l => if n < sum + t then some a else drawAmong n (sum + t) l

/-- A draw among weighted candidates in ascending order: the lowest where no ticket is held. -/
def draw {α : Type} (x : W32) (cs : List (α × Nat)) : Option α :=
  let total := cs.foldl (fun n c => n + c.2) 0
  if total = 0 then cs.head?.map (·.1) else drawAmong (x.toNat % total) 0 cs

/-! ## Mailbox tasks (R16, R17, R351, R364) -/

/-- The message of a mailbox. -/
def Mailbox.message (x : Mailbox) : List W64 := (List.range 8).map (fun j => SMap.get 0#64 x.inbound j)

/-- MBBIND of a mailbox, where it binds. -/
def mbBind (p : Part) (m : Nat) : Option W64 :=
  if bitOf (p.cfReg (0xE0 + m)) 63 then some (p.cfReg (0xE0 + m)) else none
/-- The entry that a held message takes: that of the binding it was completed under, or was held for. -/
def mbEntry (p : Part) (m : Nat) : W64 := w64 (fieldOf ((p.mbox m).bound.getD 0#64) 2 46 * 4)

/-- Whether a message is a posted write of the host to memory. -/
def isHostWrite (m : Msg) : Bool := m.src == hostEp && (match m.req with | .store _ _ => true | _ => false)

/-- The posted writes of one requester that are still to be performed, by destination and number (R351). -/
def hostWrites (s : State) (r : Nat) : List (Nat × Nat) :=
  (s.inFlight.filter (fun m => isHostWrite m && m.thr == r)).map (fun m => (m.dst, m.seq))

/-- Whether all of some host writes have been performed. -/
def writesDone (s : State) (ws : List (Nat × Nat)) : Bool :=
  ws.all (fun w => !s.inFlight.any (fun m => isHostWrite m && m.dst == w.1 && m.seq == w.2))

/-- Whether a held message may be placed: it has a binding, an entry is free, and the writes that its requester sent
before the message are performed (R351). (DEDUCED: assumption 55.) -/
def canPlace (s : State) (p m : Nat) : Bool :=
  let pt := s.prt p
  !s.halted p && (pt.mbox m).held && (pt.mbox m).bound.isSome && decide ((s.core pt.resident).runCount < 32) &&
  writesDone s (pt.mbox m).before

/-- The journal entry of a placed mailbox task (R364): 128 bytes of a ring of 1 MiB. (DESIGN CHOICE: assumption 56.) -/
def journal (s : State) (p m : Nat) (ws : List W64) : State :=
  let pt := s.prt p
  if pt.jrnl then
    let e := ws ++ [w64 m, w64 pt.retiredTasks] ++ List.replicate 6 0#64
    { s with hostMem := s.hostMem.writeN (pt.jaddr.toNat + 128 * (pt.jcount % 8192)) (wordsBytes e) }.modPart p
      (fun q => { q with jcount := q.jcount + 1 })
  else s

/-- A held message becomes a task on class 0 of the resident core's run-lists (R16, R17). -/
def placeMail (s : State) (p m : Nat) : State :=
  let pt := s.prt p
  let ws := (pt.mbox m).message
  let item : RunItem := ⟨⟨p, devRecord (mbEntry pt m) ws, 0, 0, 1, 1, 0, 0#64, 0⟩, some m⟩
  let s1 := s.modPart p (fun q => q.setMbox m { q.mbox m with held := false, bound := none, before := [] })
  let s2 := s1.modCore pt.resident (fun c => c.setRunlist 0 (c.runlist 0 ++ [item]))
  journal s2 p m ws

def execMailboxTaskPlace (p m : Nat) (s : State) : Host.Outcome State Fault Refusal :=
  if m < 4 ∧ canPlace s p m = true then .next (placeMail s p m) else .next s

/-- A host write of inbound words 0 to 6 stages the word (R355). -/
def execMailboxWordWrite (p m j : Nat) (v : W64) (s : State) : Host.Outcome State Fault Refusal :=
  if (s.prt p).present = true ∧ m < 4 ∧ j < 7 then
    .next (s.modPart p (fun q => q.setMbox m { q.mbox m with staged := SMap.set 0#64 (q.mbox m).staged j v }))
  else .next s

/-- A message completed with its word 7 (R16, R17, R355): held, with the binding of the moment and the writes of
its requester that it follows (R351), or discarded where the previous one has not started. -/
def completeMail (x : Mailbox) (bind : Option W64) (before : List (Nat × Nat)) (v : W64) : Mailbox :=
  if x.busy then { x with staged := [], overrun := true }
  else { x with staged := [], inbound := SMap.set 0#64 x.staged 7 v, held := true, busy := true, bound := bind,
                before := before }

def execMailboxMessageComplete (p m : Nat) (v : W64) (s : State) : Host.Outcome State Fault Refusal :=
  if (s.prt p).present = true ∧ m < 4 then
    .next (s.modPart p (fun q => q.setMbox m (completeMail (q.mbox m) (mbBind q m) (hostWrites s s.hostReq) v)))
  else .next s

/-- A host write of MBSTAT: READY and OVERRUN clear where 1 is written (R355). -/
def execMbstatWrite (p m : Nat) (v : W64) (s : State) : Host.Outcome State Fault Refusal :=
  if (s.prt p).present = true ∧ m < 4 then
    .next (s.modPart p (fun q => q.setMbox m { q.mbox m with
      ready := (q.mbox m).ready && !bitOf v 0, overrun := (q.mbox m).overrun && !bitOf v 1 }))
  else .next s

/-- A message held while its mailbox was unbound takes a new binding (R17). -/
def takeBinding (x : Mailbox) (bind : Option W64) : Mailbox :=
  if x.held && x.bound.isNone then { x with bound := bind } else x

/-- A write to MBBIND (R17): a message held while the mailbox was unbound is placed. -/
def execMailboxBind (p : Nat) (s : State) : Host.Outcome State Fault Refusal :=
  match cfHead s p with
  | some (i, n, v) =>
    if 0xE0 ≤ n ∧ n < 0xE4 then
      let s1 := (inboxTake s (mbEp p) false i).modPart p (fun x =>
        let y := x.setCf n (v &&& 0x8000FFFFFFFFFFFC#64)
        y.setMbox (n - 0xE0) (takeBinding (y.mbox (n - 0xE0)) (mbBind y (n - 0xE0))))
      if canPlace s1 p (n - 0xE0) then .next (placeMail s1 p (n - 0xE0)) else .next s1
    else .next s
  | none => .next s

/-- A journalled message is placed when the count of retired tasks has reached its entry's value (R364). -/
def execReplayMessagePlace (p : Nat) (s : State) : Host.Outcome State Fault Refusal :=
  let pt := s.prt p
  match pt.replay with
  | [] => .next s
  | e :: rest =>
    if decide (e.count.toNat ≤ pt.retiredTasks) && !(pt.mbox e.mb).busy then
      let s1 := s.modPart p (fun q => { q.setMbox e.mb { q.mbox e.mb with
        inbound := (List.range 8).foldl (fun m j => SMap.set 0#64 m j (e.words.getD j 0#64)) [], held := true, busy := true, bound := mbBind pt e.mb,
        before := [] } with
        replay := rest })
      if canPlace s1 p e.mb then .next (placeMail s1 p e.mb) else .next s
    else .next s

/-! ## Launch instances (R201) -/

/-- An instance joins the class of its record. -/
def listInstance (s : State) (core : Nat) (i : Inst) : State :=
  let k := hdrPrio (Rec.header i.recd)
  settleLaunch (s.modCore core (fun c => c.setRunlist k (c.runlist k ++ [⟨i, none⟩]))) i

/-- The lowest mailbox whose task may be placed on a core. -/
def waitingMail (s : State) (core : Nat) : Option (Nat × Nat) :=
  match partOfCore s core with
  | none => none
  | some p =>
    if (s.prt p).resident = core then ((List.range 4).find? (fun m => canPlace s p m)).map (fun m => (p, m)) else none

/-- The bound messages of a core whose tasks have still to be placed. -/
def mailOwed (s : State) (core : Nat) : Nat :=
  match partOfCore s core with
  | none => 0
  | some p =>
    if (s.prt p).resident = core then
      ((List.range 4).filter (fun m => ((s.prt p).mbox m).held && ((s.prt p).mbox m).bound.isSome)).length
    else 0

/-- Whether a core has an entry for a launch instance: a mailbox task takes a freed entry first, also one that still waits
for host writes (R16). (DEDUCED: assumption 101.) -/
def roomForLaunch (s : State) (core : Nat) : Bool := decide ((s.core core).runCount + mailOwed s core < 32)

/-- An instance arrives: it is accepted where an entry is free and nothing waits for one, and refused otherwise. -/
def execLaunchInstanceArrival (core : Nat) (s : State) : Host.Outcome State Fault Refusal :=
  match inboxNext s core false with
  | some (i, m) =>
    (match m.req with
     | .launch x =>
       let s1 := inboxTake s core false i
       if s.halted m.part || decide (1024 ≤ core) then .next (settleLaunch s1 x)
       else if roomForLaunch s core = true ∧ (s.core core).launchWait = [] then
         .next (listInstance s1 core x)
       else .next (s1.modCore core (fun c => { c with launchWait := c.launchWait ++ [x] }))
     | _ => .next s)
  | none => .next s

/-- A free run-list entry admits a waiting mailbox task, or the instance that was refused first. -/
def execRunlistAdmit (core : Nat) (s : State) : Host.Outcome State Fault Refusal :=
  match waitingMail s core with
  | some x => .next (placeMail s x.1 x.2)
  | none =>
    (match (s.core core).launchWait with
     | i :: rest =>
       if roomForLaunch s core = true then
         .next (listInstance (s.modCore core (fun c => { c with launchWait := rest })) core i)
       else .next s
     | [] => .next s)

/-! ## Dispatch on a press core (R204) -/

/-- The non-empty classes of a core, with their tickets (R205). -/
def classTickets (s : State) (c p : Nat) : List (Nat × Nat) :=
  ((List.range 4).filter (fun k => !((s.core c).runlist k).isEmpty)).map
    (fun k => (k, fieldOf ((s.prt p).cfReg 0x70) (8 * k) 8))

/-- The oldest record of the drawn class is the slot's next task. -/
def drawClass (s : State) (t p : Nat) : State :=
  let c := coreOf t
  let x := nextX (s.core c).genX
  match draw x (classTickets s c p) with
  | none => s
  | some k =>
    match (s.core c).runlist k with
    | [] => s
    | it :: rest => s.modCore c (fun y =>
        { (y.setRunlist k rest) with genX := x, starting := y.starting ++ [(slotOf t, it)] })

/-- The level of a home for a thief (R207). -/
def stealLevel (c h : Nat) : Nat :=
  if clusterAt (homeX h) (homeY h) = clusterAt (coreX c) (coreY c) then 1
  else if h / 64 = coreDie c then 2 else 3

/-- Insertion by decreasing excess, then ascending key: die, channel, queue. -/
def insCand (x : Nat × Nat) : List (Nat × Nat) → List (Nat × Nat)
  | [] => [x]
  | y :: l => if y.2 < x.2 ∨ (y.2 = x.2 ∧ x.1 < y.1) then x :: y :: l else y :: insCand x l

/-- The candidates of a level that have not been asked: published excesses of the partition's own queues. -/
def stealCands (s : State) (c p : Nat) (d : Decision) (level : Nat) : List (Nat × Nat) :=
  (s.pub.filter (fun e => decide (0 < e.2) && e.1 / 16 % 64 == p && stealLevel c (e.1 / 1024) == level && !d.asked.contains e.1)).foldl
    (fun l x => insCand x l) []

/-- The next candidate, from a level on; a deterministic partition uses level 1 only (R364). -/
def nextCand (s : State) (c p : Nat) (d : Decision) : Option (Nat × Nat) :=
  ((List.range 3).filter (fun k => decide (d.level ≤ k + 1) && (!(s.prt p).det || k == 0))).findSome?
    (fun k => ((stealCands s c p d (k + 1)).head?).map (fun x => (k + 1, x.1)))

/-- A thief's next request; a decision that finds no candidate ends, and its slot waits for a publication. -/
def stealStep (s : State) (t p : Nat) : State :=
  let c := coreOf t
  let d := (s.core c).decision (slotOf t)
  match nextCand s c p d with
  | none => s.modCore c (fun y => y.setDecision (slotOf t) { d with waiting := true })
  | some (level, key) =>
    let s1 := s.modCore c (fun y => y.setDecision (slotOf t) { d with level := level, asked := key :: d.asked, pending := true })
    s1.inject ⟨c, homeEp (key / 1024), 0, .ls, p, t, 0#64, 0#32, 0, .schedSteal (key % 16) t, none, 0⟩

/-- Whether a press slot may choose: free, dispatching, and not waiting for a publication. (DEDUCED: assumption 53.) -/
def mayChoose (s : State) (t : Nat) : Option Nat :=
  let c := coreOf t
  match partOfCore s c with
  | some p =>
    if s.slotFree t && dispatches s c p && decide (c < 1024) && !((s.core c).decision (slotOf t)).waiting then some p else none
  | none => none

/-- A free slot chooses: a class by lottery, or a steal (R204). -/
def execDispatch (t : Nat) (s : State) : Host.Outcome State Fault Refusal :=
  match mayChoose s t with
  | some p =>
    if (s.core (coreOf t)).decision (slotOf t) = Decision.init then
      if (s.core (coreOf t)).runCount = 0 then .next (stealStep s t p) else .next (drawClass s t p)
    else .next s
  | none => .next s

/-- A thief goes on with its decision (R207). -/
def execStealDecision (t : Nat) (s : State) : Host.Outcome State Fault Refusal :=
  match mayChoose s t with
  | some p =>
    if (s.core (coreOf t)).decision (slotOf t) = Decision.init ∧ (s.core (coreOf t)).runCount ≠ 0 then .next s
    else .next (stealStep s t p)
  | none => .next s

/-! ## Cellar cores (R170, R172, R206) -/

/-- Whether a slot has asked a queue for a near take. -/
def takePendingAt (s : State) (h slot : Nat) : Bool := (s.home (homeEp h)).queues.any (fun q => q.2.takes.contains slot)

/-- The oldest waiting handler that may start: messages of a partition whose dispatch is stopped on the core are passed.
(DEDUCED: assumption 109.) -/
def nextHandler (s : State) (core : Nat) : Option AmEntry :=
  (s.home core).amq.find? (fun a => dispatches s core a.part)

/-- A free cellar slot starts the oldest waiting handler, on one granule. (DEDUCED: assumption 54.) -/
def execHandlerStart (t : Nat) (s : State) : Host.Outcome State Fault Refusal :=
  let c := coreOf t
  if isCellar c && decide (c < 1280) && decide (slotOf t < 8) && s.slotFree t && !takePendingAt s (c - 1024) (slotOf t) &&
      decide (1 ≤ granulesLeft s c) then
    match nextHandler s c with
    | some a =>
      let s1 := s.modHome c (fun h => { h with amq := h.amq.erase a })
      .next (startTask s1 t (handlerStart a.part a.entry a.rtag a.args))
    | none => .next s
  else .next s

/-- The queues homed on a cellar core that offer a near take, in ascending order of partition and number, with their
tickets. -/
def nearOffers (s : State) (h : Nat) : List (Nat × Nat) :=
  (s.home (homeEp h)).queues.filterMap (fun q =>
    if takesNear s h (q.1 / 16) && (nearChoice s h (q.1 / 16) (q.1 % 16)).isSome then some (q.1, q.2.tickets) else none)

/-- A free near slot draws among the queues that offer a take (R206). -/
def execCellarSlotDraw (t : Nat) (s : State) : Host.Outcome State Fault Refusal :=
  let c := coreOf t
  let h := c - 1024
  if isCellar c && decide (c < 1280) && decide (slotOf t < 6) && s.slotFree t && !takePendingAt s h (slotOf t) &&
      (nextHandler s c).isNone then
    let offers := nearOffers s h
    let x := nextX (s.core c).genX
    match draw x offers with
    | none => .next s
    | some k =>
      .next ((s.modCore c (fun y => { y with genX := x })).modQueue h (k / 16) (k % 16)
        (fun q => { q with takes := q.takes ++ [slotOf t] }))
  else .next s

/-! ## The start of a chosen task (R89, R95) -/

/-- A task from a run-list starts: a mailbox is no longer busy (R355). -/
def startItem (s : State) (t : Nat) (it : RunItem) : State :=
  let i := it.inst
  match it.mail with
  | some m =>
    startTask (s.modPart i.part (fun p => p.setMbox m { p.mbox m with busy := false })) t
      (startOf .mail i.part i.recd i.g4 i.g5 i.g6 i.g7 none)
  | none => startTask s t (startOf .launch i.part i.recd i.g4 i.g5 i.g6 i.g7 none)

/-- The partition of a granted record: that of its queue, or of the thief's core. -/
def grantedPart (s : State) (c : Nat) (live : Option LiveIn) : Option Nat :=
  match live with
  | some l => some l.part
  | none => partOfCore s c

/-- A granted record starts; a near body's task id is noted with its queue. -/
def startGranted (s : State) (t p : Nat) (r : Rec) (live : Option LiveIn) : State :=
  match live with
  | none => startTask s t (startOf .far p r 0 0 1 1 none)
  | some l =>
    let s1 := startTask s t (startOf .near p r 0 0 1 1 live)
    s1.modQueue l.home p l.q (fun q => { q with nearLive := q.nearLive.map (fun x =>
      if x.1 = l.num then (x.1, x.2.1, x.2.2.1, (s1.thr t).task) else x) })

/-- A chosen task starts on its slot once its granules are free. -/
def execTaskStart (t : Nat) (s : State) : Host.Outcome State Fault Refusal :=
  let c := coreOf t
  let y := s.core c
  if (s.thr t).active then .next s
  else match y.starting.find? (fun x => x.1 == slotOf t) with
    | some (_, it) =>
      if hdrGran (Rec.header it.inst.recd) ≤ granulesLeft s c ∧ dispatches s c it.inst.part = true then
        .next (startItem (s.setCore c { y with starting := y.starting.filter (fun x => x.1 != slotOf t) }) t it)
      else .next s
    | none =>
      match y.granted.find? (fun x => x.1 == slotOf t) with
      | none => .next s
      | some (_, r, _, live) =>
       match grantedPart s c live with
       | none => .next s
       | some p =>
        if hdrGran (Rec.header r) ≤ granulesLeft s c ∧ dispatches s c p = true then
          .next (startGranted (s.setCore c { y with granted := y.granted.filter (fun x => x.1 != slotOf t) }) t p r live)
        else .next s

/-! ## Routes (R290) -/

def State.setRoute (s : State) (r : Route) : State :=
  { s with routes := s.routes.map (fun (x : Route) => if x.id == r.id then r else x) }

/-- Whether a link is reserved by another route. -/
def linkHeld (s : State) (r : Route) (l : Nat) : Bool :=
  s.routes.any (fun x => x.id != r.id && (x.links.take x.taken).contains l)

/-- Whether a header that arrived earlier waits in front of a link. -/
def linkAwaited (s : State) (r : Route) (l : Nat) : Bool :=
  s.routes.any (fun x => x.id != r.id && x.waitNo != 0 && x.links[x.taken]? == some l &&
    (r.waitNo == 0 || decide (x.waitNo < r.waitNo)))

/-- A header reserves its next link, waits in front of it, or has its whole path and reaches its channel. (DEDUCED:
assumption 32.) -/
def headerStep (s : State) (r : Route) : State :=
  match r.links[r.taken]? with
  | none => settle (s.fresh.2.setRoute { r with complete := true, reachNo := s.fresh.1 }) r.dst r.chan
  | some l =>
    if linkHeld s r l || linkAwaited s r l then
      (if r.waitNo = 0 then s.fresh.2.setRoute { r with waitNo := s.fresh.1 } else s)
    else s.setRoute { r with taken := r.taken + 1, waitNo := 0 }

/-- A waiting header gains its path, link by link. -/
def execRouteComplete (i : Nat) (s : State) : Host.Outcome State Fault Refusal :=
  match s.routes[i]? with
  | none => .next s
  | some r => if r.complete then .next s else .next (headerStep s r)

end Sys2Proof.Machine
end

