-- ==== Sys2Proof/Machine/Contain.lean ====
section
/-!
DEFINITION. How a containment comes about and ends (R338 to R341, R352, R365), and what a destroyed partition gives
back (R306, R360, R362).
-/
namespace Sys2Proof.Machine

open Sys2Proof

/-- The partition ids that are in use. -/
def State.partitions (s : State) : List Nat := (List.range 48).filter (fun p => (s.prt p).present)

/-- A fault outside the cores (R338, R339): no thread is at fault, so CORE and SLOT of FAULTLOG are free values.
(DESIGN CHOICE: assumption 36.) -/
def containUnit (s : State) (p : Nat) : State :=
  let d := drawNat s
  let v := (Config.freeWord d.1).toNat
  contain d.2 p 0xF1 (v % 2048) (v / 2048 % 16) (s.prt p).resident 0#64

/-- Shuone reports a failure in a unit that serves a partition. -/
def execUnitFailureReport (p : Nat) (s : State) : Host.Outcome State Fault Refusal :=
  if (s.prt p).present = true ∧ p < 48 then .next (containUnit s p) else .next s

/-- Whether a message of a partition is still on its way (R340, R341). (DEDUCED: assumption 57.) -/
def messagesLeft (s : State) (p : Nat) : Bool := s.inFlight.any (fun m => m.part == p)

/-- A line restored to its old content (R181, R340), as the home kept it: one that was uncorrectable then is so again (R182).
(DESIGN CHOICE: assumption 132.) -/
def restoreLine (s : State) (h : Nat) (e : LogEntry) : State :=
  let s1 := clearPoison { s with mem := s.mem.writeN (e.line * 64) e.old } h (e.line * 64) 64
  if e.bad then markPoison s1 h e.line else s1

/-- The lines of an undo log restored, the newest first. -/
def restoreLines (s : State) (h : Nat) : List LogEntry → State
  | [] => s
  | e :: es => restoreLines (restoreLine s h e) h es

/-- A home applies its log for a partition, and discards it. -/
def applyLog (s : State) (ep p : Nat) : State :=
  (restoreLines s (ep - 1024) ((s.home ep).log p).reverse).modHome ep (fun h => h.setLog p [])

def applyLogs (s : State) (p : Nat) : State := (s.homes.map (·.1)).foldl (fun s ep => applyLog s ep p) s

/-- The records among some held messages. -/
def heldRecords (hs : List Held) : Nat := (hs.filter (fun h => h.record)).length

/-- The held records of a saved context leave OUT of the core that saved it (R203). -/
def dropCounted (p : Nat) (s : State) (c : SavedCtx) : State :=
  if c.part = p ∧ c.away = true then s.modCore c.core (fun x => { x with spawnOut := x.spawnOut - heldRecords c.thread.held })
  else s

/-- Once a rollback or an unwind has ended, OUT counts no record of the partition (R203), nor those of saved contexts. -/
def clearOut (s : State) (p : Nat) : State :=
  let s1 := s.saved.foldl (dropCounted p) s
  { s1 with
    saved := s1.saved.map (fun c => if c.part = p then { c with away := false } else c)
    cores := s1.cores.map (fun c => if (s1.prt p).hasCore c.1 then (c.1, { c.2 with spawnOut := 0 }) else c) }

/-- The resident program restarts (R340, R341). -/
def restart (s : State) (p : Nat) (w0 w1 : W64) : State :=
  startResident ((clearOut s p).modPart p (fun q => { q with containing := .none, discard := false })) p w0 w1

/-! ## DESTROY -/

/-- Everything that names a destroyed partition outside `parts`. -/
def forgetPart (s : State) (p : Nat) : State :=
  let pt := s.prt p
  { s with
    cores := (s.cores.filter (fun c => !pt.hasCore c.1)).map (fun c => (c.1, { c.2 with stopped := c.2.stopped.filter (· != p) }))
    homes := s.homes.map (fun h => (h.1, { h.2 with
      queues := h.2.queues.filter (fun q => q.1 / 16 != p)
      amq := h.2.amq.filter (fun a => a.part != p)
      tags := h.2.tags.filter (fun e => e.1 / 256 != p)
      logs := h.2.logs.filter (fun e => e.1 != p) }))
    tlbs := s.tlbs.map (fun b => (b.1, b.2.filter (fun e => e.part != p)))
    ats := s.ats.filter (fun e => e.1 / 2 ^ 54 != p)
    pub := s.pub.filter (fun e => e.1 / 16 % 64 != p)
    windows := s.windows.filter (fun w => w.part != p)
    pulls := s.pulls.filter (fun x => x.1 != p)
    saved := s.saved.filter (fun c => c.part != p)
    slots := s.slots.filter (fun x => x.2.part != p) }

/-- Keys that admit nobody any more are erased, and their frames return free (R362). -/
def dropKeys (s : State) (p : Nat) : State :=
  let keys := (s.keys.map (fun k => (k.1, k.2.filter (· != p)))).filter (fun k => !k.2.isEmpty)
  let kept (o : Owner) : Bool := match o with
    | .key k => keys.any (fun x => x.1 == k)
    | _ => true
  { s with keys := keys, blockOwner := s.blockOwner.filter (fun e => kept e.2), chanOwner := s.chanOwner.filter (fun e => kept e.2) }

/-- The partition is gone: its ranges, slots, cores and key return (R306, R360, R362), and OUT counts nothing of it any more
(R203). (DEDUCED: assumption 60.) -/
def finishDestroy (s : State) (p : Nat) : State :=
  let s1 := dropKeys (forgetPart (clearOut s p) p) p
  { s1 with
    blockOwner := s1.blockOwner.filter (fun e => e.2 != Owner.part p)
    chanOwner := s1.chanOwner.filter (fun e => e.2 != Owner.part p) }.setPart p Part.absent

/-! ## The ends -/

/-- A rollback ends: the logs are applied, and the resident program restarts with `w0` = 1 and `w1` = INTERVAL (R340).
The stop of a DESTROY ends in the same way, and the partition is gone. -/
def execRollbackEnd (p : Nat) (s : State) : Host.Outcome State Fault Refusal :=
  let pt := s.prt p
  if messagesLeft s p then .next s
  else match pt.containing with
    | .rollback => .next (restart (applyLogs s p) p 1#64 (pt.interval.setWidth 64))
    | .destroy => .next { (finishDestroy s p) with mgmtResp := 0#64 }
    | _ => .next s

/-- Word 7 of a slot cleared. -/
def clearToken (s : State) (k : Nat) : State :=
  let x := s.slot k
  s.setSlot k { x with words := x.words.set 7 0#64 }

/-- An unwind ends with the last thread: word 7 clears, and the resident program restarts with `w0` = 2 and `w1` = the
agreed step (R341). -/
def execUnwindEnd (p : Nat) (s : State) : Host.Outcome State Fault Refusal :=
  let pt := s.prt p
  match pt.containing with
  | .unwind none _ step =>
    if messagesLeft s p || !(s.partThreads p).isEmpty then .next s
    else .next (restart (clearToken (discardWork s p) (poolSlot pt pt.unwslot)) p 2#64 step)
  | _ => .next s

/-- A token from a COLLECTIVE peer makes the bound partition unwind with its own slot (R341). No thread of it is at
fault, and FAULTLOG records nothing. -/
def tokenFor (port : Nat) (s : State) (p : Nat) : State :=
  let pt := s.prt p
  if pt.present && pt.coll && bitOf (pt.cfReg (0x48 + port)) 63 && pt.containing == .none then startUnwind s p pt.resident
  else s

/-- (DEDUCED: assumption 59.) -/
def execPeerUnwindToken (port : Nat) (s : State) : Host.Outcome State Fault Refusal :=
  if port < 8 then .next (s.partitions.foldl (tokenFor port) s) else .next s

/-! ## Power and cooling (R365) -/

/-- Measured power exceeds the cap: idle matrix issue cycles are inserted, and no result changes. -/
def execPowerOverCap (s : State) : Host.Outcome State Fault Refusal := .next { s with overCap := true }

/-- Measured power falls back below the cap. -/
def execPowerBelowCap (s : State) : Host.Outcome State Fault Refusal := .next { s with overCap := false }

/-- 105 °C: every partition is contained, and the package returns to Stage A. (DEDUCED: assumption 69.) -/
def execThermalTrip (s : State) : Host.Outcome State Fault Refusal :=
  .next { (s.partitions.foldl containUnit s) with stage := 1 }

end Sys2Proof.Machine
end

