-- ==== Sys2Proof/Machine/Hash.lean ====
section
/-!
DEFINITION. SHAKE256 (R356, R363), the extendable-output function that the spec names: the Keccak sponge of rate 136 bytes
over 25 lanes of 64 bits. (PRESUMED: assumption 140.)
-/
namespace Sys2Proof.Machine

open Sys2Proof

/-- The constants of the 24 rounds. -/
def keccakConstants : List W64 :=
  [0x0000000000000001#64, 0x0000000000008082#64, 0x800000000000808A#64, 0x8000000080008000#64, 0x000000000000808B#64,
   0x0000000080000001#64, 0x8000000080008081#64, 0x8000000000008009#64, 0x000000000000008A#64, 0x0000000000000088#64,
   0x0000000080008009#64, 0x000000008000000A#64] ++
  [0x000000008000808B#64, 0x800000000000008B#64, 0x8000000000008089#64, 0x8000000000008003#64, 0x8000000000008002#64,
   0x8000000000000080#64, 0x000000000000800A#64, 0x800000008000000A#64, 0x8000000080008081#64, 0x8000000000008080#64,
   0x0000000080000001#64, 0x8000000080008008#64]

/-- By how much each lane is rotated. -/
def keccakOffsets : List Nat :=
  [0, 1, 62, 28, 27, 36, 44, 6, 55, 20, 3, 10, 43, 25, 39] ++ [41, 45, 15, 21, 8, 18, 2, 61, 56, 14]

def lane (a : List W64) (k : Nat) : W64 := a.getD k 0#64

/-- The parities of the columns mixed into the lanes. -/
def keccakTheta (a : List W64) : List W64 :=
  let c := (List.range 5).map (fun x => lane a x ^^^ lane a (x + 5) ^^^ lane a (x + 10) ^^^ lane a (x + 15) ^^^ lane a (x + 20))
  let d := (List.range 5).map (fun x => lane c ((x + 4) % 5) ^^^ (lane c ((x + 1) % 5)).rotateLeft 1)
  (List.range 25).map (fun k => lane a k ^^^ lane d (k % 5))

/-- The lanes rotated, and moved: lane (x, y) is brought from (x + 3y, x). -/
def keccakRhoPi (a : List W64) : List W64 :=
  (List.range 25).map (fun k =>
    let j := (k % 5 + 3 * (k / 5)) % 5 + 5 * (k % 5)
    (lane a j).rotateLeft (keccakOffsets.getD j 0))

/-- The step that is not linear: each lane with the next two of its row. -/
def keccakChi (a : List W64) : List W64 :=
  (List.range 25).map (fun k =>
    let at_ (i : Nat) : W64 := lane a ((k + i) % 5 + 5 * (k / 5))
    lane a k ^^^ (~~~ at_ 1 &&& at_ 2))

def keccakRound (a : List W64) (rc : W64) : List W64 :=
  match keccakChi (keccakRhoPi (keccakTheta a)) with
  | [] => []
  | x :: xs => (x ^^^ rc) :: xs

/-- The permutation. -/
def keccakF (a : List W64) : List W64 := keccakConstants.foldl keccakRound a

/-- The bytes padded to whole blocks of 136. -/
def shakePad (bs : List Byte) : List Byte :=
  let q := 136 - bs.length % 136
  bs ++ (if q = 1 then [0x9F#8] else [0x1F#8] ++ List.replicate (q - 2) 0#8 ++ [0x80#8])

/-- A block taken into the lanes. -/
def shakeAbsorb (a : List W64) (block : List Byte) : List W64 :=
  let ws := bytesWords 17 block
  keccakF ((List.range 25).map (fun k => lane a k ^^^ lane ws k))

/-- The first 64 bytes of the output. -/
def shake256 (bs : List Byte) : List Byte :=
  let p := shakePad bs
  let a := (chunks 136 (p.length / 136) p).foldl shakeAbsorb (List.replicate 25 0#64)
  wordsBytes (a.take 8)

end Sys2Proof.Machine
end

