-- ==== Sys2Proof/Machine/Scalar.lean ====
section
/-!
DEFINITION. Scalar integer and floating-point arithmetic (R119 to R124).
-/
namespace Sys2Proof.Machine

open Sys2Proof

/-! ## Integer operations on n-bit elements (R119, R120) -/

def iAdd (t : Ty) (a b : Nat) : Nat := (a + b) % 2 ^ tyWidth t
def iSub (t : Ty) (a b : Nat) : Nat := wrapInt (tyWidth t) ((a : Int) - (b : Int))
def iMul (t : Ty) (a b : Nat) : Nat := a * b % 2 ^ tyWidth t
/-- Bits [2n−1:n] of the exact product. -/
def iMulh (t : Ty) (a b : Nat) : Nat := wrapInt (tyWidth t) (elemInt t a * elemInt t b / (2 ^ tyWidth t : Nat))
/-- The quotient, towards zero; all ones for b = 0 (R120). -/
def iDiv (t : Ty) (a b : Nat) : Nat :=
  if elemInt t b = 0 then 2 ^ tyWidth t - 1 else wrapInt (tyWidth t) ((elemInt t a).tdiv (elemInt t b))
/-- The remainder, with the sign of a; a for b = 0 (R120). -/
def iRem (t : Ty) (a b : Nat) : Nat :=
  if elemInt t b = 0 then a % 2 ^ tyWidth t else wrapInt (tyWidth t) ((elemInt t a).tmod (elemInt t b))
/-- DZ of a division (R120). -/
def divFlags (t : Ty) (b : Nat) : Fl := if elemInt t b = 0 then flDZ else 0#7
def iAnd (_ : Ty) (a b : Nat) : Nat := a &&& b
def iOr (_ : Ty) (a b : Nat) : Nat := a ||| b
def iXor (_ : Ty) (a b : Nat) : Nat := a ^^^ b
def iAndn (t : Ty) (a b : Nat) : Nat := a &&& (2 ^ tyWidth t - 1 - b % 2 ^ tyWidth t)
/-- Shift counts are taken mod n. -/
def iShl (t : Ty) (a b : Nat) : Nat := a * 2 ^ (b % tyWidth t) % 2 ^ tyWidth t
def iShr (t : Ty) (a b : Nat) : Nat := a / 2 ^ (b % tyWidth t)
def iSar (t : Ty) (a b : Nat) : Nat := wrapInt (tyWidth t) (toSigned (tyWidth t) a / (2 ^ (b % tyWidth t) : Nat))
def iRot (t : Ty) (a b : Nat) : Nat :=
  (a * 2 ^ (b % tyWidth t) % 2 ^ tyWidth t) ||| (a / 2 ^ (tyWidth t - b % tyWidth t))
def iMin (t : Ty) (a b : Nat) : Nat := if elemInt t a ≤ elemInt t b then a else b
def iMax (t : Ty) (a b : Nat) : Nat := if elemInt t a ≤ elemInt t b then b else a
def iClz (t : Ty) (a : Nat) : Nat := if a = 0 then tyWidth t else tyWidth t - 1 - Nat.log2 a
def iPopc (t : Ty) (a : Nat) : Nat := (List.range (tyWidth t)).foldl (fun n i => if a.testBit i then n + 1 else n) 0

/-- pos and len of R122. -/
def bitPos (b : W64) : Nat := fieldOf b 0 6
def bitLen (b : W64) : Nat := min (fieldOf b 6 7) 64
/-- `bext` (R122). -/
def extractBits (t : Ty) (a b : W64) : W64 :=
  let f := a.toNat / 2 ^ bitPos b % 2 ^ bitLen b
  if bitLen b = 0 then 0#64
  else if tySigned t then w64 (sextNat (bitLen b) 64 f) else w64 f
/-- `bins` (R122). -/
def insertBits (old a b : W64) : W64 :=
  let len := min (bitLen b) (64 - bitPos b)
  withField old (bitPos b) len (a.toNat % 2 ^ len)

/-! ## Shared shapes -/

/-- Two sources, one result of the type, with the flags it raises. -/
def scalarBin (c : Ctl) (op : Nat) (t : Ty) (d : Dst) (a b : Src) (f : Nat → Nat → Nat × Fl) (s : State) :
    Host.Outcome State Fault Refusal :=
  runScalar c (((Uses.dst op d).and (Uses.src a)).and (Uses.src b)) (do
    let x ← readSrc t a
    let y ← readSrc t b
    writeResult t d (f x y).1
    raiseA (f x y).2
    return .seq) s

/-- Two sources, no flag. -/
def scalarInt (c : Ctl) (op : Nat) (t : Ty) (d : Dst) (a b : Src) (f : Ty → Nat → Nat → Nat) (s : State) :
    Host.Outcome State Fault Refusal := scalarBin c op t d a b (fun x y => (f t x y, 0#7)) s

/-- One source. -/
def scalarUn (c : Ctl) (op : Nat) (t : Ty) (d : Dst) (a : Src) (f : Nat → Nat) (s : State) :
    Host.Outcome State Fault Refusal :=
  runScalar c ((Uses.dst op d).and (Uses.src a)) (do
    let x ← readSrc t a
    writeResult t d (f x)
    return .seq) s

/-! ## The instructions (R119) -/


/-- `add` (R119). -/
def execAdd (c : Ctl) (t : Ty) (d : Dst) (a b : Src) (s : State) : Host.Outcome State Fault Refusal :=
  scalarInt c 0x20 t d a b iAdd s

/-- `sub` (R119). -/
def execSub (c : Ctl) (t : Ty) (d : Dst) (a b : Src) (s : State) : Host.Outcome State Fault Refusal :=
  scalarInt c 0x21 t d a b iSub s

/-- `mul` (R119). -/
def execMul (c : Ctl) (t : Ty) (d : Dst) (a b : Src) (s : State) : Host.Outcome State Fault Refusal :=
  scalarInt c 0x22 t d a b iMul s

/-- `mulh` (R119). -/
def execMulh (c : Ctl) (t : Ty) (d : Dst) (a b : Src) (s : State) : Host.Outcome State Fault Refusal :=
  scalarInt c 0x23 t d a b iMulh s

/-- `div` (R120): b = 0 sets DZ. -/
def execDiv (c : Ctl) (t : Ty) (d : Dst) (a b : Src) (s : State) : Host.Outcome State Fault Refusal :=
  scalarBin c 0x24 t d a b (fun x y => (iDiv t x y, divFlags t y)) s

/-- `rem` (R120): b = 0 sets DZ. -/
def execRem (c : Ctl) (t : Ty) (d : Dst) (a b : Src) (s : State) : Host.Outcome State Fault Refusal :=
  scalarBin c 0x25 t d a b (fun x y => (iRem t x y, divFlags t y)) s

/-- `and` (R119). -/
def execAnd (c : Ctl) (t : Ty) (d : Dst) (a b : Src) (s : State) : Host.Outcome State Fault Refusal :=
  scalarInt c 0x26 t d a b iAnd s

/-- `or` (R119). -/
def execOr (c : Ctl) (t : Ty) (d : Dst) (a b : Src) (s : State) : Host.Outcome State Fault Refusal :=
  scalarInt c 0x27 t d a b iOr s

/-- `xor` (R119). -/
def execXor (c : Ctl) (t : Ty) (d : Dst) (a b : Src) (s : State) : Host.Outcome State Fault Refusal :=
  scalarInt c 0x28 t d a b iXor s

/-- `andn` (R119). -/
def execAndn (c : Ctl) (t : Ty) (d : Dst) (a b : Src) (s : State) : Host.Outcome State Fault Refusal :=
  scalarInt c 0x29 t d a b iAndn s

/-- `shl` (R119). -/
def execShl (c : Ctl) (t : Ty) (d : Dst) (a b : Src) (s : State) : Host.Outcome State Fault Refusal :=
  scalarInt c 0x2A t d a b iShl s

/-- `shr` (R119). -/
def execShr (c : Ctl) (t : Ty) (d : Dst) (a b : Src) (s : State) : Host.Outcome State Fault Refusal :=
  scalarInt c 0x2B t d a b iShr s

/-- `sar` (R119). -/
def execSar (c : Ctl) (t : Ty) (d : Dst) (a b : Src) (s : State) : Host.Outcome State Fault Refusal :=
  scalarInt c 0x2C t d a b iSar s

/-- `rot` (R119). -/
def execRot (c : Ctl) (t : Ty) (d : Dst) (a b : Src) (s : State) : Host.Outcome State Fault Refusal :=
  scalarInt c 0x2D t d a b iRot s

/-- `min` (R119). -/
def execMin (c : Ctl) (t : Ty) (d : Dst) (a b : Src) (s : State) : Host.Outcome State Fault Refusal :=
  scalarInt c 0x2E t d a b iMin s

/-- `max` (R119). -/
def execMax (c : Ctl) (t : Ty) (d : Dst) (a b : Src) (s : State) : Host.Outcome State Fault Refusal :=
  scalarInt c 0x2F t d a b iMax s

/-- `clz` (R119). -/
def execClz (c : Ctl) (t : Ty) (d : Dst) (a : Src) (s : State) : Host.Outcome State Fault Refusal :=
  scalarUn c 0x30 t d a (iClz t) s

/-- `popc` (R119). -/
def execPopc (c : Ctl) (t : Ty) (d : Dst) (a : Src) (s : State) : Host.Outcome State Fault Refusal :=
  scalarUn c 0x31 t d a (iPopc t) s

/-- `sel` (R119): both sources are read. -/
def execSel (c : Ctl) (t : Ty) (k : BitVec 4) (d : Dst) (a b : Src) (s : State) : Host.Outcome State Fault Refusal :=
  runScalar c (((Uses.dst 0x32 d).and (Uses.src a)).and (Uses.src b)) (do
    let x ← readSrc t a
    let y ← readSrc t b
    let p := (← getMe).pred k.toNat
    writeResult t d (if p.getLsbD 0 then x else y)
    return .seq) s

/-! ## Moves (R38, R119) -/

def Uses.movSrc : MovSrc → Uses
  | .src a => Uses.src a
  | .loop _ => Uses.none
def Uses.movDst : MovDst → Uses
  | .dst d => Uses.dst 0x33 d
  | .loop _ => Uses.none

def Thread.loopVal (t : Thread) : LoopReg → W64
  | .lc => t.lc | .ls => t.ls | .le => t.le
/-- A loop register written (R102): bits [1:0] of LS and LE read as 0. -/
def Thread.setLoopReg (t : Thread) (r : LoopReg) (v : W64) : Thread :=
  match r with
  | .lc => { t with lc := v }
  | .ls => { t with ls := align4 v }
  | .le => { t with le := align4 v }

def readMov (t : Ty) : MovSrc → Act Nat
  | .src a => readSrc t a
  | .loop r => do return ((← getMe).loopVal r).toNat % 2 ^ tyWidth t
def writeMov (d : MovDst) (v : W64) : Act Unit :=
  match d with
  | .dst d => writeDst d v
  | .loop r => modMeA (fun t => t.setLoopReg r v)

/-- `mov` (R119). -/
def execMov (c : Ctl) (t : Ty) (d : MovDst) (a : MovSrc) (s : State) : Host.Outcome State Fault Refusal :=
  runScalar c ((Uses.movDst d).and (Uses.movSrc a)) (do
    let x ← readMov t a
    writeMov d (result64 t x)
    return .seq) s

/-- `movi` (R38). -/
def execMovi (c : Ctl) (d : BitVec 5) (v : BitVec 36) (s : State) : Host.Outcome State Fault Refusal :=
  runScalar c (Uses.w d) (do
    setWA d (v.signExtend 64)
    return .seq) s

/-- `movi.h` (R38): bits [63:36] replaced. -/
def execMoviH (c : Ctl) (d : BitVec 5) (v : BitVec 28) (s : State) : Host.Outcome State Fault Refusal :=
  runScalar c (Uses.w d) (do
    let old := (← getMe).w d.toNat
    setWA d (v ++ old.extractLsb' 0 36)
    return .seq) s

/-- `lea`, label form (R121). -/
def execLea (c : Ctl) (d : Dst) (off : BitVec 15) (s : State) : Host.Outcome State Fault Refusal :=
  runScalar c (Uses.dst 0x35 d) (do
    writeDst d ((← getMe).ip + 4#64 * off.signExtend 64)
    return .seq) s

/-- `lea.s` (R121). -/
def execLeaScaled (c : Ctl) (sh : BitVec 2) (d : Dst) (a b : Src) (s : State) : Host.Outcome State Fault Refusal :=
  runScalar c (((Uses.dst 0x35 d).and (Uses.src a)).and (Uses.src b)) (do
    let x ← readSrc64 .i64 a
    let y ← readSrc64 .i64 b
    writeDst d (x + y <<< sh.toNat)
    return .seq) s

/-- `bext` (R122). -/
def execBext (c : Ctl) (t : Ty) (d : Dst) (a b : Src) (s : State) : Host.Outcome State Fault Refusal :=
  runScalar c (((Uses.dst 0x36 d).and (Uses.src a)).and (Uses.src b)) (do
    let x ← readSrc64 t a
    let y ← readSrc64 t b
    writeDst d (extractBits t x y)
    return .seq) s

/-- `bins` (R122). -/
def execBins (c : Ctl) (d : BitVec 5) (a b : Src) (s : State) : Host.Outcome State Fault Refusal :=
  runScalar c (((Uses.w d).and (Uses.src a)).and (Uses.src b)) (do
    let x ← readSrc64 .b64 a
    let y ← readSrc64 .b64 b
    setWA d (insertBits ((← getMe).w d.toNat) x y)
    return .seq) s


/-- `sext` (R119). -/
def execSext (c : Ctl) (t : Ty) (d : Dst) (a : Src) (s : State) : Host.Outcome State Fault Refusal :=
  scalarUn c 0x38 t d a (fun x => x) s

/-- `zext` (R119). -/
def execZext (c : Ctl) (t : Ty) (d : Dst) (a : Src) (s : State) : Host.Outcome State Fault Refusal :=
  scalarUn c 0x39 t d a (fun x => x) s

/-! ## Floating point (R123, R124) -/

/-- `fadd` (R123). -/
def execFadd (c : Ctl) (t : Ty) (d : Dst) (a b : Src) (s : State) : Host.Outcome State Fault Refusal :=
  scalarBin c 0x3A t d a b (fAdd (tyFmt t)) s

/-- `fsub` (R123). -/
def execFsub (c : Ctl) (t : Ty) (d : Dst) (a b : Src) (s : State) : Host.Outcome State Fault Refusal :=
  scalarBin c 0x3B t d a b (fSub (tyFmt t)) s

/-- `fmul` (R123). -/
def execFmul (c : Ctl) (t : Ty) (d : Dst) (a b : Src) (s : State) : Host.Outcome State Fault Refusal :=
  scalarBin c 0x3C t d a b (fMul (tyFmt t)) s

/-- `ffma` (R123): the old value of the destination is the addend. -/
def execFfma (c : Ctl) (t : Ty) (d : BitVec 5) (a b : Src) (s : State) : Host.Outcome State Fault Refusal :=
  runScalar c (((Uses.w d).and (Uses.src a)).and (Uses.src b)) (do
    let x ← readSrc t a
    let y ← readSrc t b
    let z := ((← getMe).w d.toNat).toNat % 2 ^ tyWidth t
    let r := fFma (tyFmt t) z x y
    setWA d (result64 t r.1)
    raiseA r.2
    return .seq) s

/-- `fcvt` (R124). -/
def execFcvt (c : Ctl) (dt st : Ty) (m : CvtMode) (d : Dst) (a : Src) (s : State) : Host.Outcome State Fault Refusal :=
  runScalar c ((Uses.dst 0x3E d).and (Uses.src a)) (do
    let x ← readSrc st a
    let r := convert dt st m x
    writeResult dt d r.1
    raiseA r.2
    return .seq) s

end Sys2Proof.Machine
end

