-- ==== Sys2Proof/Machine/System.lean ====
section
/-!
DEFINITION. The system registers and the system instructions (R331 to R337), with the registers of R92, R94, R96,
R102, R104, R105, R164, R203, R259, R293 and R298, and the instruction budget.
-/
namespace Sys2Proof.Machine

open Sys2Proof

/-! ## Access classes -/

/-- How `csrw` may write a register (R335): never, in trap mode only, or always. -/
inductive SysClass where
  | ro | rwT | rw
  deriving DecidableEq, Repr

/-- The class of an assigned register. -/
def sysClass (n : Nat) : SysClass :=
  if n = 0x003 ∨ n = 0x004 ∨ n = 0x010 ∨ n = 0x012 ∨ n = 0x013 ∨ n = 0x060 then .rwT
  else if n = 0x005 ∨ n = 0x007 ∨ n = 0x008 ∨ n = 0x009 ∨ n = 0x00A ∨ n = 0x011 ∨ n = 0x021 ∨ n = 0x030 then .rw
  else .ro

/-! ## Reading -/

/-- The stack entry that WACC names, where its frame is within LOW − 1 to DEPTH + 1 (R92). -/
def waccEntry (t : Thread) : Option Nat :=
  let f := fieldOf t.wacc 16 16
  if t.low ≤ f + 1 ∧ f ≤ t.depth + 1 then some (stkIndex f (fieldOf t.wacc 0 5)) else none

/-- CSTAT (R259). -/
def cstatWord (t : Thread) : W64 :=
  let err := (List.range 4).foldl (fun n g => if (t.group g).err then n + 2 ^ g else n) 0
  let outs := (List.range 4).foldl (fun n g => n + (t.group g).out % 256 * 2 ^ (16 + 8 * g)) 0
  w64 (t.oobcnt % 256 * 2 ^ 56 + err * 2 ^ 48 + outs + t.outAll % 64)

/-- BARST of barrier b (R104). -/
def barstWord (x : Bar) : W64 :=
  w64 (x.barto % 2 ^ 32 * 2 ^ 32 + x.gen.toNat * 2 ^ 16 + x.arr % 256 * 2 ^ 8 + x.count % 256)

def specWord (t : Thread) : W64 := w64 ((if t.specOn then 2 ^ 63 else 0) + t.held.length % 128)
def budgetWord (t : Thread) : W64 := w64 ((if t.budEn then 2 ^ 63 else 0) + t.budRem % 2 ^ 42)
def tstatWord (t : Thread) : W64 :=
  w64 (t.tstatG.toNat * 2 ^ 32 + (if t.ptm then 2 else 0) + (if t.tm then 1 else 0))
/-- FEAT0 (R359): the device offers bits 0 to 7. -/
def feat0 : W64 := 0xFF#64

/-- The value of a system register for the executing thread. -/
def sysRead (s : State) (n : Nat) : W64 :=
  let t := s.me
  let c := s.core (coreOf s.cur)
  if n = 0x001 then t.cause
  else if n = 0x002 then t.tval
  else if n = 0x003 then t.eip
  else if n = 0x004 then tstatWord t
  else if n = 0x005 then t.tvec
  else if n = 0x006 then t.livep.setWidth 64
  else if n = 0x007 then t.flags.setWidth 64
  else if n = 0x008 then t.lc
  else if n = 0x009 then t.ls
  else if n = 0x00A then t.le
  else if n = 0x010 then w64 (t.low % 2 ^ 16 * 2 ^ 16 + t.depth % 2 ^ 16)
  else if n = 0x011 then t.wsp
  else if n = 0x012 then t.wacc
  else if n = 0x013 then (match waccEntry t with | some e => t.readP (.stk e) | none => 0#64)
  else if n = 0x018 then c.zskip
  else if n = 0x020 then t.rver
  else if n = 0x021 then (s.prt t.part).stalecnt
  else if n = 0x030 then w64 (c.spawnOut % 256 * 2 ^ 16 + c.spawnLimit % 256)
  else if n = 0x040 then cstatWord t
  else if n = 0x050 then specWord t
  else if n = 0x051 then w64 (t.migCount.toNat * 2 ^ 32 + t.migCore % 2048)
  else if n = 0x060 then budgetWord t
  else if n = 0x070 then (s.prt t.part).accept
  else if n = 0x074 then feat0
  else if 0x100 ≤ n ∧ n < 0x180 then barstWord (c.bar (n - 0x100))
  else 0#64

/-! ## Writing -/

/-- WSTK: a write that breaks LOW ≤ DEPTH ≤ LOW + 9 is ignored as a whole (R92). -/
def writeWstk (t : Thread) (v : W64) : Thread :=
  let low := fieldOf v 16 16
  let depth := fieldOf v 0 16
  if low ≤ depth ∧ depth ≤ low + 9 then { t with low := low, depth := depth } else t

/-- The bits of WACC that hold fields. -/
def waccMask : W64 := 0x00000000FFFF001F#64

/-- A system register written with a value; its RO fields keep their values (R335). -/
def sysWrite (s : State) (n : Nat) (v : W64) : State :=
  if n = 0x003 then s.modMe (fun t => { t with eip := align4 v })
  else if n = 0x004 then s.modMe (fun t => { t with ptm := bitOf v 1 })
  else if n = 0x005 then s.modMe (fun t => { t with tvec := align4 v })
  else if n = 0x007 then s.modMe (fun t => { t with flags := v.setWidth 7 })
  else if n = 0x008 then s.modMe (fun t => t.setLoopReg .lc v)
  else if n = 0x009 then s.modMe (fun t => t.setLoopReg .ls v)
  else if n = 0x00A then s.modMe (fun t => t.setLoopReg .le v)
  else if n = 0x010 then s.modMe (fun t => writeWstk t v)
  else if n = 0x011 then s.modMe (fun t => { t with wsp := v })
  else if n = 0x012 then s.modMe (fun t => { t with wacc := v &&& waccMask })
  else if n = 0x013 then s.modMe (fun t => match waccEntry t with | some e => t.writeP (.stk e) v | none => t)
  else if n = 0x021 then s.modPart s.me.part (fun p => { p with stalecnt := v })
  else if n = 0x030 then s.modCore (coreOf s.cur) (fun c => { c with spawnLimit := fieldOf v 0 8 })
  else if n = 0x060 then s.modMe (fun t => { t with budEn := bitOf v 63, budRem := fieldOf v 0 42 })
  else s

/-! ## csrr, csrw (R335) -/

/-- Registers that an access to a system register reads or writes under no other name (R97). -/
def sysRegs (s : State) (n : Nat) : List PReg :=
  if n = 0x013 then (match waccEntry s.me with | some e => [.stk e] | none => [])
  else if n = 0x020 then [.rver]
  else []

/-- An access to FLAGS waits for every earlier matrix instruction (R240). -/
def waitMatrix (n : Nat) : Act Unit := if n = 0x007 then waitMatrixWork else return ()

/-- `csrr`. -/
def execCsrr (c : Ctl) (d : BitVec 5) (num : BitVec 15) (s : State) : Host.Outcome State Fault Refusal :=
  runScalar c ((Uses.w d).and { extra := sysRegs s num.toNat }) (do
    waitMatrix num.toNat
    setWA d (sysRead (← get) num.toNat)
    return .seq) s

/-- The forms of `csrw`: `f` gives the new value from the old one and the operand. -/
def writeSys (c : Ctl) (fn : Nat) (num : BitVec 15) (a : Src) (f : W64 → W64 → W64) (s : State) :
    Host.Outcome State Fault Refusal :=
  let n := num.toNat
  runScalar c ((Uses.src a).and { extra := sysRegs s n }) (do
    let t ← getMe
    if sysClass n = .ro ∨ (sysClass n = .rwT ∧ t.tm = false) then illegalA 0xE1 fn 2 0 0
    else do
      waitMatrix n
      let v ← readSrc64 .b64 a
      modify (fun s => sysWrite s n (f (sysRead s n) v))
      return .seq) s

/-- `csrw`. -/
def execCsrw (c : Ctl) (num : BitVec 15) (a : Src) (s : State) : Host.Outcome State Fault Refusal :=
  writeSys c 0 num a (fun _ v => v) s
/-- `csrw.set`. -/
def execCsrwSet (c : Ctl) (num : BitVec 15) (a : Src) (s : State) : Host.Outcome State Fault Refusal :=
  writeSys c 1 num a (fun old v => old ||| v) s
/-- `csrw.clr`. -/
def execCsrwClr (c : Ctl) (num : BitVec 15) (a : Src) (s : State) : Host.Outcome State Fault Refusal :=
  writeSys c 2 num a (fun old v => old &&& ~~~v) s

/-! ## Traps (R335) -/

/-- `ecall`: EIP is the address of the next instruction. -/
def execEcall (c : Ctl) (code : BitVec 15) (s : State) : Host.Outcome State Fault Refusal :=
  runWord c false false Uses.none (fun g => do
    modify (fun s => takeTrap s s.cur false causeEcall (code.setWidth 64) g (s.me.ip + 12#64))
    return .ended) s

/-- Whether the trap that a thread handles is UNWIND. -/
def causeIs (t : Thread) (code : Nat) : Bool := fieldOf t.cause 0 8 == code

/-- `eret`: an UNWIND ends its task, as `done` does with CONT ignored. -/
def execEret (c : Ctl) (s : State) : Host.Outcome State Fault Refusal :=
  runScalar c Uses.none (do
    let t ← getMe
    if t.tm = false then illegalA 0xE3 0 2 0 0
    else if causeIs t causeUnwind then
      if t.owed.isEmpty then do
        modify (fun s => endTask (discardHeld s s.cur) s.cur)
        return .ended
      else block
    else do
      modMeA (fun t => trapReturn (countRetired t))
      return .ended) s

/-- The budget is due (R331): BUDGET is raised at the boundary, before the next instruction is fetched. -/
def budgetDue (t : Thread) : Bool := t.active && t.budEn && t.budRem == 0 && !t.tm

/-- BUDGET (R208, R331). -/
def execBudget (t : Nat) (s : State) : Host.Outcome State Fault Refusal :=
  let th := s.thr t
  if budgetDue th && th.stop == 0 then
    .next (takeTrapBetween s t false causeBudget (w64 (hdrBudget th.header)) th.ip)
  else .next s

/-! ## Translations (R336) -/

/-- The DM place of a request. -/
def reqLoc : Req → Option DmLoc
  | .load (.dm l) _ => some l
  | .store (.dm l) _ => some l
  | .atomic _ (.dm l) _ _ => some l
  | .rowadd (.dm l) _ _ _ => some l
  | .rowld (.dm l) _ => some l
  | .decrement (.dm l) => some l
  | .deposit (.dm l) _ => some l
  | .setdep (.dm l) _ _ => some l
  | _ => none

/-- Whether a message is an access of a partition, translated through an entry for a page, or for any. -/
def namesPage (p : Nat) (page : Option Nat) (m : Msg) : Bool :=
  m.part == p && (match reqLoc m.req, page with
    | some l, some pg => l.va / 2 ^ 21 == pg
    | some _, none => true
    | none, _ => false)

/-- Whether such an access is still to be performed: on its way, or held by a thread in a region (R294). (DEDUCED:
assumption 97.) -/
def usesPage (s : State) (p : Nat) (page : Option Nat) : Bool :=
  s.inFlight.any (namesPage p page) ||
  s.threads.any (fun t => t.2.active && t.2.held.any (fun h => h.msgs.any (namesPage p page)))

/-- Translations of a partition removed from every buffer: for one page, or all. -/
def dropPages (s : State) (p : Nat) (page : Option Nat) : State :=
  { s with tlbs := s.tlbs.map (fun b => (b.1, b.2.filter (fun e =>
      !(e.part == p && (match page with | some pg => e.page == pg | none => true))))) }

/-- `tlbinv`. -/
def invalidate (page : Option Nat) : Act Ret := do
  let s ← get
  let p := s.me.part
  if s.pending s.me.task [.ls, .nb] then block
  else if usesPage s p page then blockWith (fun s => dropPages s p page)
  else do
    set (dropPages s p page)
    return .seq

/-- `tlbinv.page`. -/
def execTlbinvPage (c : Ctl) (a : BitVec 5) (s : State) : Host.Outcome State Fault Refusal :=
  runScalar c (Uses.w a) (do
    let v := ((← getMe).w a.toNat).toNat
    invalidate (some (v / 2 ^ 21))) s

/-- `tlbinv.all`. -/
def execTlbinvAll (c : Ctl) (s : State) : Host.Outcome State Fault Refusal := runScalar c Uses.none (invalidate none) s

/-! ## Checkpoints (R337) -/

/-- `ckpt`: the cut falls between two acceptances, at every home at once. (DEDUCED: assumption 44.) -/
def execCkpt (c : Ctl) (d : BitVec 5) (s : State) : Host.Outcome State Fault Refusal :=
  runScalar c (Uses.w d) (do
    let s ← get
    if s.pending s.me.task [.ls, .nb, .am] || s.copiesPending s.me.task then block
    else do
      let p := s.me.part
      modify (fun s => closeInterval s p false)
      let s ← get
      setWA d ((s.prt p).interval.setWidth 64)
      return .seq) s

end Sys2Proof.Machine
end

