-- ==== Sys2Proof/Machine/Preempt.lean ====
section
/-!
DEFINITION. Pre-emption (R342 to R344), the saved context (R345, R346), restore (R347) and live migration (R296 to
R298, R243, R276, R295). The bits of a context that R345 lays out stand in memory. The sections that it only measures
(copies, held messages, the core section, streams, the engine) begin with the number of the save, by which a restore finds
them in `State.saved`, and are free bytes beyond it.
-/
namespace Sys2Proof.Machine

open Sys2Proof

/-! ## Requests -/

/-- The physical core of a core index of a partition (R185): a press core of it, or a cellar core of its dies. -/
def physCore (s : State) (p i : Nat) : Option Nat :=
  let pt := s.prt p
  if i < 1024 then pt.coreAt i
  else if i < 1280 ∧ pt.dies.contains ((i - 1024) / 64) = true ∧ s.disabled.contains i = false then some i
  else none

/-- The next request of a partition's configuration logic, if it starts a pre-emption: its place and its word. -/
def preemptHead (s : State) (p : Nat) : Option (Nat × W64) :=
  match cfHead s p with
  | some (i, n, v) => if n = 0xD4 ∧ preemptStarts (s.prt p).preempt v = true then some (i, v) else none
  | none => none

def State.modPreempt (s : State) (p : Nat) (f : Preempt → Preempt) : State :=
  s.modPart p (fun q => { q with preempt := f q.preempt })

/-- No restore waits for the engine of a request's core any longer. -/
def leaveEngine (s : State) (p : Nat) : State :=
  match physCore s p (s.prt p).preempt.core with
  | some c => s.modCore c dropRestores
  | none => s

/-- A request ends with a status. -/
def endPreempt (s : State) (p status : Nat) : State :=
  (leaveEngine s p).modPreempt p (fun x => { x with go := false, status := status, todo := [], coreSlot := none })

/-- A request is in progress. -/
def beginPreempt (s : State) (p : Nat) (todo : List Nat) (cs : Option Nat) : State :=
  s.modPreempt p (fun x => { x with go := true, status := 1, todo := todo, coreSlot := cs })

/-- A request of one kind taken from the configuration logic: its fields are set, and it goes on with the core it
names; a core outside the partition gives PLACE. -/
def onRequest (s : State) (p kind : Nat) (resume : Bool) (f : State → Preempt → Nat → State) : State :=
  match preemptHead s p with
  | none => s
  | some (i, v) =>
    if bitOf v 57 = resume ∧ (resume = true ∨ fieldOf v 58 2 = kind) then
      let s1 := (inboxTake s (mbEp p) false i).modPreempt p (fun x => preemptFields x v)
      let x := (s1.prt p).preempt
      match physCore s1 p x.core with
      | none => endPreempt s1 p 4
      | some c => f s1 x c
    else s

/-- Dispatch for a partition stops on a core. -/
def stopDispatch (s : State) (c p : Nat) : State :=
  s.modCore c (fun y => { y with stopped := if y.stopped.contains p then y.stopped else p :: y.stopped })

/-- The slots of a request. -/
def slotList (x : Preempt) : List Nat := (List.range 16).filter (fun k => x.slots.testBit k)

/-- The slots of a list that hold tasks of the partition on a core. -/
def occupied (s : State) (c p : Nat) (ks : List Nat) : List Nat :=
  ks.filter (fun k => (s.thr (c * 16 + k)).active && (s.thr (c * 16 + k)).part == p)

/-- Drain (R343). -/
def execPreemptDrain (p : Nat) (s : State) : Host.Outcome State Fault Refusal :=
  .next (onRequest s p 0 false (fun s x c => beginPreempt (stopDispatch s c p) p (slotList x) none))

/-- A drain is done when every named slot is free. -/
def execDrainDone (p : Nat) (s : State) : Host.Outcome State Fault Refusal :=
  let x := (s.prt p).preempt
  match physCore s p x.core with
  | some c => if x.go && x.kind == 0 && (occupied s c p (slotList x)).isEmpty then .next (endPreempt s p 0) else .next s
  | none => .next s

/-- Stop-now (R343, R344): the named threads stop at an instruction boundary. -/
def stopNow (s : State) (p : Nat) (x : Preempt) (c : Nat) : State :=
  let ks := occupied s c p (slotList x)
  let all := (List.range (slotsOf c)).filter (fun k => (s.thr (c * 16 + k)).active)
  let s1 := ks.foldl (fun s k => s.modThr (c * 16 + k) (fun t => { t with stop := if t.stop = 0 then 1 else t.stop })) (stopDispatch s c p)
  let cs := if all.all (fun k => ks.contains k) then ks.head? else none
  if ks.isEmpty then endPreempt s1 p 0 else beginPreempt s1 p ks cs

def execPreemptStopNow (p : Nat) (s : State) : Host.Outcome State Fault Refusal :=
  .next (onRequest s p 1 false (fun s x c => stopNow s p x c))

/-- RESUME: dispatch goes on (R342, R343). -/
def execPreemptResume (p : Nat) (s : State) : Host.Outcome State Fault Refusal :=
  .next (onRequest s p 0 true (fun s _ c =>
    endPreempt (s.modCore c (fun y => { y with stopped := y.stopped.filter (· != p) })) p 0))

/-! ## The layout of a context (R345) -/

def ctxSize : Nat := 524288
/-- The address of the context of a slot (R342). -/
def ctxVa (pt : Part) (slot : Nat) : Nat := ((pt.cfReg 0xD5).toNat + ctxSize * slot) % 2 ^ 64

/-- Word 21: the barrier record. -/
def barWord (b : BarRec) : W64 :=
  w64 ((if b.valid then 2 ^ 63 else 0) + (if b.done then 2 ^ 62 else 0) + b.bar % 128 * 2 ^ 8 + b.gen.toNat)
def barOfWord (w : W64) : BarRec := ⟨bitOf w 63, fieldOf w 8 7, w.setWidth 8, bitOf w 62, 0⟩

/-- MIGRN (R298). -/
def migrnWord (t : Thread) : W64 := w64 (t.migCount.toNat * 2 ^ 32 + t.migCore % 2048)
/-- WSTK (R92). -/
def wstkWord (t : Thread) : W64 := w64 (t.low % 2 ^ 16 * 2 ^ 16 + t.depth % 2 ^ 16)

/-- The 56 words of the thread registers section. -/
def ctxRegs (t : Thread) : List W64 :=
  [t.ip, t.cause, t.tval, t.eip, tstatWord t, t.tvec, t.flags.setWidth 64, t.livep.setWidth 64, t.lc, t.ls, t.le, t.as,
   (t.ae &&& 0xFFFFFFFFFFFFFFFE#64) ||| (if t.loopOn then 1#64 else 0#64), wstkWord t, t.wsp, t.wacc, budgetWord t, t.rver,
   cstatWord t, specWord t, migrnWord t, barWord t.bar, t.header, t.cont] ++
  (List.range 16).map (fun k => t.gReg k) ++ (List.range 4).map (fun k => groupWord (t.group k)) ++ [t.closedPorts] ++
  List.replicate 11 0#64

/-- Live predicates, as pieces at their offsets. -/
def ctxPreds (t : Thread) : List (Nat × List Byte) :=
  ((List.range 15).filter (fun k => t.livep.getLsbD (k + 1))).map (fun k => (512 + 4 * k, leBytes 4 (t.pred (k + 1)).toNat))

/-- The words of the resident frames, from frame LOW's `w0`. -/
def ctxStackLen (t : Thread) : Nat := 24 * (t.depth - t.low) + 32
def ctxStack (t : Thread) : List W64 := (List.range (ctxStackLen t)).map (fun i => SMap.get 0#64 t.stk (stkIndex t.low i))

def ctxTrap (t : Thread) : List W64 := (List.range 32).map (fun i => SMap.get 0#64 t.trapWin i)

/-- The vector allotment, register by register. -/
def ctxVec (t : Thread) : List Byte := (List.range t.vCount).flatMap (fun r => lanesBytes (t.vreg r))

/-- What goes with a thread into its context. -/
structure CtxParts where
  copies : List Copy
  engine : Option Engine
  queues : Option CoreSection

/-- The sections present, in the order of the table: number, offset and length in bytes. -/
def ctxSections (t : Thread) (x : CtxParts) : List (Nat × Nat × Nat) :=
  (if t.livep = 0#16 then [] else [(0, 512, 4 * (ctxPreds t).length)]) ++
  (if t.tm || t.trapWin != [] then [(1, 576, 256)] else []) ++
  [(2, 1024, 8 * ctxStackLen t)] ++
  (if x.copies.isEmpty then [] else [(3, 3072, 64 * x.copies.length)]) ++
  (if t.held.isEmpty then [] else [(4, 5120, 160 * t.held.length)]) ++
  (if x.queues.isSome then [(5, 15360, 2176)] else []) ++
  (if t.streams.isEmpty then [] else [(6, 20480, 4160 * t.streams.length)]) ++
  (if x.engine.isSome then [(7, 57344, 34880)] else []) ++
  [(8, 94208, 8192 * t.gran)]

/-- The header: format, sections present, length; task, FEATUSED, and where it was saved. -/
def ctxHeader (pt : Part) (t : Thread) (n : Nat) (x : CtxParts) : List W64 :=
  let secs := ctxSections t x
  let mask := secs.foldl (fun a k => a + 2 ^ k.1) 0
  let len := secs.foldl (fun a k => a + k.2.2) 512
  let c := coreOf n
  [w64 (2 ^ 48 + mask * 2 ^ 32 + len), t.task, t.featUsed,
   w64 (t.part + (if isCellar c then 2 ^ 8 else 0) + pt.coreIndex c * 2 ^ 16 + slotOf n * 2 ^ 28), 0#64, 0#64, 0#64, 0#64]

/-- The pieces of a context whose bits R345 gives. -/
def ctxPieces (pt : Part) (t : Thread) (n : Nat) (x : CtxParts) : List (Nat × List Byte) :=
  [(0, wordsBytes (ctxHeader pt t n x)), (64, wordsBytes (ctxRegs t))] ++ ctxPreds t ++
  (if t.tm || t.trapWin != [] then [(576, wordsBytes (ctxTrap t))] else []) ++
  [(1024, wordsBytes (ctxStack t)), (94208, ctxVec t)]

/-- The sections whose bits it does not give. (DESIGN CHOICE: assumption 62.) -/
def ctxOpaque (t : Thread) (x : CtxParts) : List (Nat × Nat) :=
  ((ctxSections t x).filter (fun k => decide (3 ≤ k.1) && decide (k.1 < 8))).map (fun k => (k.2.1, k.2.2))

/-- The page table entry of a context, where the area translates with W and the home lets the partition use it (R343). -/
def ctxPte (s : State) (p c va : Nat) : Option (W64 × State) :=
  let bufs := engineBufs (copyEngineOf c)
  match lookupOrWalk s bufs p va with
  | none => none
  | some (l, s1) =>
    if !l.wr || !frameOk s1 p l then none
    else (heldPte s1 bufs p (va / 2 ^ 21)).map (fun e => (e, s1))

/-- Whether any of n bytes from an address of a page are uncorrectable; a line at a time, for STRIPED pages. -/
def spanSpoilt (s : State) (pte : W64) (va n : Nat) : Bool :=
  (List.range ((n + 63) / 64)).any (fun i => locBad s (.dm (pteLoc pte (va + 64 * i))) (min 64 (n - 64 * i)))

/-- Bytes written from an address of a page, 8 at a time: no write covers a whole line, so that a mark of poison stays (R182).
(DESIGN CHOICE: assumption 118.) -/
def ctxWrite (s : State) (p : Nat) (pte : W64) : Nat → List (List Byte) → State
  | _, [] => s
  | va, b :: bs => ctxWrite (writeLoc s p (.dm (pteLoc pte va)) (b.map some)) p pte (va + 8) bs

def writePiece (s : State) (p : Nat) (pte : W64) (va : Nat) (bs : List Byte) : State :=
  ctxWrite s p pte va (chunks 8 ((bs.length + 7) / 8) bs)

/-- Bytes read, 8 at a time. -/
def ctxRead (s : State) (p : Nat) (pte : W64) : Nat → Nat → List Byte
  | _, 0 => []
  | va, n + 1 => readLoc s p (.dm (pteLoc pte va)) 8 ++ ctxRead s p pte (va + 8) n
def ctxReadWords (s : State) (p : Nat) (pte : W64) (va n : Nat) : List W64 := bytesWords n (ctxRead s p pte va n)

/-- A section without a layout: the number of the save, then free bytes. (DESIGN CHOICE: assumption 62.) -/
def writeOpaque (s : State) (p : Nat) (pte : W64) (va num : Nat) (k : Nat × Nat) : State :=
  let d := drawBytes s (k.2 - 8)
  writePiece d.2 p pte (va + k.1) (wordBytes (w64 num) ++ d.1)

/-- A context written at its place, by the save of a number. -/
def writeContext (s : State) (pt : Part) (p va n num : Nat) (pte : W64) (t : Thread) (x : CtxParts) : State :=
  let s1 := (ctxPieces pt t n x).foldl (fun s k => writePiece s p pte (va + k.1) k.2) s
  (ctxOpaque t x).foldl (fun s k => writeOpaque s p pte va num k) s1

/-! ## Saving (R344) -/

/-- A wait whose instruction has already had its effect: it has to retire first. (DEDUCED: assumption 28.) -/
def Wait.landed : Wait → Bool
  | .barDone _ | .slotDone _ | .commit _ | .claimed => true
  | _ => false

/-- The copies of a thread. -/
def threadCopies (s : State) (n : Nat) : List Copy :=
  (s.engine (s.thr n).copyEng).filter (fun c => c.thr == n && c.task == (s.thr n).task && c.part == (s.thr n).part)

/-- The report of an access's flags, on its way (R64, R346). -/
def isFlags : Req → Bool
  | .flags _ => true
  | _ => false

/-- Whether accesses of a thread are still to be performed, or their flags to reach FLAGS: on their way, or at a core that
the thread has left (R297). A refusal of a posted store does not hold a save up. (DESIGN CHOICE: assumption 137.) -/
def accessesLeft (s : State) (n : Nat) : Bool :=
  let mine (m : Msg) : Bool := m.task == (s.thr n).task && m.part == (s.thr n).part
  s.inFlight.any (fun m => mine m && (isAccess m.req || isFlags m.req)) || s.cores.any (fun c => c.2.fwdIn.any mine)

/-- Steps 1, 2 and 4 of a save: everything owed has landed, the engine and the copies have come to rest, every access
has been performed. -/
def readyToSave (s : State) (n : Nat) : Bool :=
  let t := s.thr n
  let e := (s.core (coreOf n)).engine
  !t.wait.landed && t.owed.isEmpty && t.landing.isEmpty && !accessesLeft s n &&
  (threadCopies s n).all (fun c => c.atRow || c.over) &&
  (e.holder != some n || (e.jobs.isEmpty && !e.loading))

/-- The ports of a thread that a save closes, as a mask. -/
def boundPorts (t : Thread) : Nat := (List.range 8).foldl (fun a k => if t.port k = .unbound then a else a + 2 ^ k) 0

/-- What a save takes along. -/
def ctxParts (s : State) (n : Nat) (withCore : Bool) : CtxParts where
  copies := threadCopies s n
  engine := if (s.core (coreOf n)).engine.holder = some n then some (s.core (coreOf n)).engine else none
  queues := if withCore then some ⟨(s.core (coreOf n)).queues, (s.core (coreOf n)).bars, s.barSet (coreOf n)⟩ else none

/-- A save fails (R343): the threads not yet saved run on, the ports of this one closed. (DESIGN CHOICE: assumption 136.) -/
def saveFails (s : State) (p c : Nat) : State :=
  endPreempt ((s.prt p).preempt.todo.foldl (fun s k =>
    s.modThr (c * 16 + k) (fun t => { t with stop := if t.stop = 1 then 0 else t.stop })) s) p 5

/-- The request is done with a slot. -/
def doneSlot (s : State) (p k : Nat) : State :=
  let todo := (s.prt p).preempt.todo.filter (· != k)
  if todo.isEmpty then endPreempt s p 0 else s.modPreempt p (fun x => { x with todo := todo })

/-- Whether a SPARSE area cannot take a context: a block of it cannot be read to be recompressed (R155, R182).
(DEDUCED: assumption 98.) -/
def ctxStuck (s : State) (pte : W64) (va : Nat) (t : Thread) (x : CtxParts) : Bool :=
  isSparse (.dm (pteLoc pte va)) && ((0, 512) :: (ctxSections t x).map (·.2)).any (fun k => spanSpoilt s pte (va + k.1) k.2)

/-- The context of a thread is written, and its slot is free; a claim that its instruction has not used is given back
(R344). -/
def saveThread (s : State) (n : Nat) : State :=
  let p := (s.thr n).part
  let pt := s.prt p
  let c := coreOf n
  let withCore := pt.preempt.coreSlot == some (slotOf n)
  let closed := w64 (boundPorts (s.thr n))
  let s1 := (closePorts (withdraw n s) n).modThr n (fun t =>
    { t with closedPorts := closed, wait := .none, pre := [], word := none, half := none, stop := 0 })
  let va := ctxVa pt (slotOf n)
  match ctxPte s1 p c va with
  | none => saveFails s1 p c
  | some (pte, s2) =>
    let t := s2.thr n
    let x := ctxParts s2 n withCore
    if ctxStuck s2 pte va t x then saveFails s2 p c else
    let num := s2.fresh.1
    let s3 := writeContext s2.fresh.2 pt p va n num pte t x
    let s4 := { s3 with saved := ⟨num, p, slotOf n, c, t, x.copies, x.engine, x.queues, true⟩ :: s3.saved }
    let s5 := s4.setEngine t.copyEng ((s4.engine t.copyEng).filter (fun y => !(y.thr == n && y.task == t.task && y.part == p)))
    -- the barriers that the core has from now on are others
    let s6 := if withCore then s5.fresh.2.modCore c (fun y => { y with queues := [], bars := [], barSet := some (2048 + s5.fresh.1) }) else s5
    doneSlot (freeSlot s6 n) p (slotOf n)

/-- A save completes (R344); the slot that carries the core section is saved last. -/
def execContextSaveComplete (n : Nat) (s : State) : Host.Outcome State Fault Refusal :=
  let t := s.thr n
  let x := (s.prt t.part).preempt
  if !(t.active && t.stop == 1 && x.go && x.kind == 1 && readyToSave s n) then .next s
  else if x.coreSlot = some (slotOf n) ∧ x.todo ≠ [slotOf n] then .next s
  else .next (saveThread s n)

/-! ## Restore (R347) -/

/-- The words of a context's header, with its page table entry; `none` where the area cannot be read. -/
def ctxRdHeader (s : State) (p c slot : Nat) : Option (W64 × List W64 × State) :=
  match ctxPte s p c (ctxVa (s.prt p) slot) with
  | none => none
  | some (pte, s1) =>
    let va := ctxVa (s.prt p) slot
    if locBad s1 (.dm (pteLoc pte va)) 64 then none else some (pte, ctxReadWords s1 p pte va 8, s1)

/-- The words of a context's registers. -/
def ctxRegWords (s : State) (p : Nat) (pte : W64) (va : Nat) : List W64 := ctxReadWords s p pte (va + 64) 56

/-- The words of a context's stack section. -/
def ctxStackWords (w : List W64) : Nat :=
  min 248 (24 * (fieldOf (w.getD 13 0#64) 0 16 - fieldOf (w.getD 13 0#64) 16 16) + 32)

/-- Whether any of what a restore reads of a context is uncorrectable (R182). -/
def ctxBad (s : State) (pte : W64) (va : Nat) (h w : List W64) : Bool :=
  let bad (off n : Nat) : Bool := spanSpoilt s pte (va + off) n
  bad 64 448 || (bitOf (h.getD 0 0#64) 32 && bad 512 60) || (bitOf (h.getD 0 0#64) 33 && bad 576 256) ||
  bad 1024 (8 * ctxStackWords w) || bad 94208 (8192 * fieldOf (w.getD 39 0#64) 0 8) ||
  [(3, 3072, 64), (4, 5120, 160), (5, 15360, 2176), (6, 20480, 4160), (7, 57344, 34880)].any (fun k =>
    bitOf (h.getD 0 0#64) (32 + k.1) && bad k.2.1 k.2.2)

/-- Whether a core is empty for a core section: no task, and every queue empty. -/
def coreQuiet (s : State) (c : Nat) : Bool :=
  (s.coreThreads c).isEmpty && (List.range 16).all (fun k => ((s.core c).q k).isEmpty)

/-- The status that the checks of R347 give a context: 0 where it may be placed. Uncorrectable data gives FAULT.
(DEDUCED: assumption 98.) -/
def ctxStatus (s : State) (p c slot : Nat) : Nat :=
  match ctxRdHeader s p c slot with
  | none => 5
  | some (pte, h, s1) =>
    let w0 := h.getD 0 0#64
    let w3 := h.getD 3 0#64
    if fieldOf w0 48 16 ≠ 1 then 5
    else if fieldOf w3 0 6 ≠ p then 4
    else if h.getD 2 0#64 &&& ~~~(s.prt p).accept ≠ 0#64 then 3
    else if bitOf w3 8 != isCellar c || (isCellar c && fieldOf w3 16 11 != c) then 4
    else if bitOf w0 37 && !coreQuiet s c then 4
    else if ctxBad s1 pte (ctxVa (s.prt p) slot) h (ctxRegWords s1 p pte (ctxVa (s.prt p) slot)) then 5
    else 0

/-- Restore (R343, R347): the contexts are checked first, and nothing is restored where one is refused. -/
def restoreReq (s : State) (p : Nat) (x : Preempt) (c : Nat) : State :=
  let ks := (slotList x).filter (fun k => decide (k < slotsOf c))
  match (ks.map (fun k => ctxStatus s p c k)).find? (fun k => decide (k ≠ 0)) with
  | some st => endPreempt s p st
  | none => if ks.isEmpty then endPreempt s p 0 else beginPreempt s p ks none

def execPreemptRestore (p : Nat) (s : State) : Host.Outcome State Fault Refusal :=
  .next (onRequest s p 3 false (fun s x c => restoreReq s p x c))

/-- A group as words 18 and 40 to 43 give it. -/
def ctxGroup (cstat gw : W64) (k : Nat) (src : Nat) : Group :=
  ⟨fieldOf cstat (16 + 8 * k) 8, gw.setWidth 32, bitOf cstat (48 + k), fieldOf gw 52 4, fieldOf gw 32 20, src⟩

/-- The bits of CAUSE that hold fields (R105). -/
def causeMask : W64 := 0x80000000000000FF#64

/-- An arrival record as a context gives it: `kept` is the record that the device kept, which tells whose barriers it speaks
of, and that its generation has completed since the save (R103). (DEDUCED: assumption 91.) -/
def doneMeanwhile (kept r : BarRec) : BarRec :=
  { r with done := r.done || (r.valid && kept.valid && kept.bar == r.bar && kept.gen == r.gen && kept.done), set := kept.set }

/-- The thread that the words of a context describe, reserved fields and the low bits of code addresses discarded (R3,
R29); what the layout does not hold comes from the saved thread. -/
def ctxThread (base : Thread) (p core n : Nat) (w : List W64) (stack trap : List W64) (preds : SMap W32) (vec : SMap W32)
    (featUsed : W64) : Thread :=
  let x (k : Nat) : W64 := w.getD k 0#64
  let low := fieldOf (x 13) 16 16
  { base with
    active := true
    part := p
    ip := align4 (x 0)
    cause := x 1 &&& causeMask
    tval := x 2
    eip := align4 (x 3)
    tm := bitOf (x 4) 0
    ptm := bitOf (x 4) 1
    tstatG := w32 (fieldOf (x 4) 32 32)
    tvec := align4 (x 5)
    flags := (x 6).setWidth 7
    livep := (x 7).setWidth 16 &&& 0xFFFE#16
    lc := x 8
    ls := align4 (x 9)
    le := align4 (x 10)
    as := align4 (x 11)
    ae := align4 (x 12)
    loopOn := bitOf (x 12) 0
    low := low
    depth := fieldOf (x 13) 0 16
    wsp := x 14
    wacc := x 15 &&& waccMask
    budEn := bitOf (x 16) 63
    budRem := fieldOf (x 16) 0 42
    rver := x 17
    oobcnt := fieldOf (x 18) 56 8
    groups := (List.range 4).foldl (fun m k =>
      SMap.set Group.init m k (ctxGroup (x 18) (x (40 + k)) k (base.group k).src)) []
    specOn := bitOf (x 19) 63
    migCount := w32 (fieldOf (x 20) 32 32)
    migCore := core
    bar := doneMeanwhile base.bar (barOfWord (x 21))
    header := x 22
    cont := x 23
    g := (List.range 16).foldl (fun m k => SMap.set 0#64 m k (x (24 + k))) []
    gran := fieldOf (x 39) 0 8
    closedPorts := x 44
    ports := []
    stk := (List.range stack.length).foldl (fun m i => SMap.set 0#64 m (stkIndex low i) (stack.getD i 0#64)) []
    trapWin := (List.range trap.length).foldl (fun m i => SMap.set 0#64 m i (trap.getD i 0#64)) []
    p := preds
    v := vec
    copyEng := copyEngineOf (coreOf n)
    featUsed := featUsed
    owed := []
    landing := []
    wait := .none
    pre := []
    word := none
    half := none
    restarted := true
    yieldAt := []
    stop := 0 }

/-- The predicates whose LIVE bit is set. -/
def ctxRdPreds (s : State) (p : Nat) (pte : W64) (va : Nat) (livep : W64) : SMap W32 :=
  ((List.range 15).filter (fun k => bitOf livep (k + 1))).foldl (fun m k =>
    SMap.set 0#32 m (k + 1) (w32 (leNat (readLoc s p (.dm (pteLoc pte (va + 512 + 4 * k))) 4)))) []

/-- The lanes of the allotment. -/
def ctxRdVec (s : State) (p : Nat) (pte : W64) (va gran : Nat) : SMap W32 :=
  let ls := bytesLanes (2048 * gran) (ctxRead s p pte (va + 94208) (1024 * gran))
  (List.range (2048 * gran)).foldl (fun m i => SMap.set 0#32 m i (ls.getD i 0#32)) []

/-- A held message leaves from the core to which its thread has come. -/
def moveHeld (c n : Nat) (h : Held) : Held :=
  { h with msgs := h.msgs.map (fun m => { m with src := c, thr := n, req := match m.req with
      | .launch i => .launch { i with srcCore := c }
      | r => r }) }

/-- A place translated anew; one that has no translation any more keeps the old one, which its home checks. -/
def newLoc (s : State) (p : Nat) (l : DmLoc) : DmLoc :=
  match walkPage s p (l.va / 2 ^ 21) with
  | some e => pteLoc e l.va
  | none => l

/-- A request whose place is translated anew. -/
def newReq (s : State) (p : Nat) : Req → Req
  | .store (.dm l) d => .store (.dm (newLoc s p l)) d
  | .rowadd (.dm l) t m d => .rowadd (.dm (newLoc s p l)) t m d
  | .decrement (.dm l) => .decrement (.dm (newLoc s p l))
  | .deposit (.dm l) r => .deposit (.dm (newLoc s p l)) r
  | .setdep (.dm l) n r => .setdep (.dm (newLoc s p l)) n r
  | r => r

/-- A message on its way to the home of a place. -/
def goesTo (m : Msg) (l : DmLoc) : Msg :=
  if homeEp l.home = m.dst then m
  else { m with dst := homeEp l.home, path := match m.path with
    | .am => .am
    | _ => if m.src = homeEp l.home then .nb else .ls }

/-- A held entry of a restored context, which holds virtual addresses only (R347): its messages name the places that the
tables give now. (DEDUCED: assumption 97.) -/
def newHeld (s : State) (p : Nat) (h : Held) : Held :=
  let ms := h.msgs.map (fun m =>
    let m1 := { m with req := newReq s p m.req, loc := m.loc.map (newLoc s p) }
    match reqLoc m1.req, m1.loc with
    | some l, _ => goesTo m1 l
    | none, some l => goesTo m1 l
    | none, none => m1)
  { h with msgs := ms, addr := match ms with
    | [m] => (match m.req with | .store (.dm l) _ => l.key | _ => h.addr)
    | _ => h.addr }

/-- A copy of a restored context (R276): it goes on at the first row not delivered, of which a stream may have bytes, and
reads its source afresh. -/
def resumeCopy (n : Nat) (c : Copy) : Copy :=
  if c.over then { c with thr := n, via := [] }
  else
    let r := if c.ready.isEmpty then c.row else c.row - 1
    { c with thr := n, started := false, row := r, opened := r, rows := [], index := [], indexed := 8 * (r / 8),
             bad := none, ready := [], via := [], skip := if c.ready.isEmpty then c.skip else c.rowb - c.ready.length }

/-- The save that a section of a context names. -/
def sectionSave (s : State) (p : Nat) (pte : W64) (a : Nat) : Option SavedCtx :=
  let k := bytesWord (ctxRead s p pte a 1)
  s.saved.find? (fun y => y.part == p && w64 y.num == k)

/-- The words of a thread but for its arrival record, whose DONE the device sets in a saved record too. -/
def ctxKey (w : List W64) : List W64 := w.set 21 0#64

/-- The save that a context without such a section comes from: the latest of the task with these words, or else the latest of
the task. (DESIGN CHOICE: assumption 62.) -/
def wordsSave (s : State) (p : Nat) (task : W64) (w : List W64) : Option SavedCtx :=
  let mine (y : SavedCtx) : Bool := y.part == p && y.thread.task == task
  match s.saved.find? (fun y => mine y && ctxKey (ctxRegs y.thread) == ctxKey w) with
  | some y => some y
  | none => s.saved.find? mine

/-- What the sections of a context without a layout hold, each read from the save that it names; none of a section that is
absent, or names no save. A present engine section that names none gives the engine as a claim leaves it. (DESIGN CHOICE:
assumption 62.) -/
structure CtxFound where
  copies : List Copy
  held : Option SavedCtx
  streams : SMap Stream
  engine : Option Engine
  queues : Option CoreSection

def ctxFound (s : State) (p : Nat) (pte : W64) (va : Nat) (h : List W64) : CtxFound :=
  let at_ (k off : Nat) : Option SavedCtx := if bitOf (h.getD 0 0#64) (32 + k) then sectionSave s p pte (va + off) else none
  { copies := match at_ 3 3072 with | some y => y.copies | none => []
    held := at_ 4 5120
    streams := match at_ 6 20480 with | some y => y.thread.streams | none => []
    engine := if bitOf (h.getD 0 0#64) 39 then
        (match at_ 7 57344 with | some y => some (y.engine.getD Engine.free) | none => some Engine.free)
      else none
    queues := match at_ 5 15360 with | some y => y.queues | none => none }

/-- A save's thread is away no more: its held records leave OUT of the core that saved it (R203). -/
def backAgain (p : Nat) (s : State) (y : SavedCtx) : State :=
  let s1 := dropCounted p s y
  { s1 with saved := s1.saved.map (fun z => if z.num = y.num then { z with away := false } else z) }

/-- The saves of a task that are away: all of them are over once a context of the task is placed. -/
def taskBack (p : Nat) (task : W64) (s : State) : State :=
  (s.saved.filter (fun y => y.part == p && y.thread.task == task && y.away)).foldl (backAgain p) s

/-- What a context holds beside its words comes back (R276, R295, R344): the copies, the held records in OUT of the core, the
engine, the core section. Copies that come back find room beyond 256. (DESIGN CHOICE: assumption 124.) -/
def placeParts (s : State) (n : Nat) (x : CtxFound) (held : List Held) : State :=
  let c := coreOf n
  let s1 := s.modCore c (fun k => { k with spawnOut := k.spawnOut + heldRecords held })
  let s2 := s1.setEngine (copyEngineOf c) (s1.engine (copyEngineOf c) ++ x.copies.map (resumeCopy n))
  let s3 := match x.engine with
    | some e => s2.modCore c (fun k => { k with engine := { e with holder := some n, waiters := k.engine.waiters } })
    | none => s2
  match x.queues with
  | some q => s3.modCore c (fun k => { k with queues := q.queues, bars := q.bars, barSet := some q.barSet })
  | none => s3

/-- The held messages of a context, for the core to which its thread comes. -/
def ctxHeld (s : State) (p n : Nat) (x : CtxFound) : List Held :=
  match x.held with
  | some y => y.thread.held.map (fun h => newHeld s p (moveHeld (coreOf n) n h))
  | none => []

/-- A context placed on thread n. -/
def placeContext (s : State) (p n : Nat) (pte : W64) (h w : List W64) : State :=
  let c := coreOf n
  let va := ctxVa (s.prt p) (slotOf n)
  let task := h.getD 1 0#64
  let x := ctxFound s p pte va h
  let base := match wordsSave s p task w with
    | some y => y.thread
    | none => { Thread.free with bar := { BarRec.empty with set := s.barSet c } }
  let stack := ctxReadWords s p pte (va + 1024) (ctxStackWords w)
  let trap := if bitOf (h.getD 0 0#64) 33 then ctxReadWords s p pte (va + 576) 32 else []
  let gran := fieldOf (w.getD 39 0#64) 0 8
  let t := ctxThread base p ((s.prt p).coreIndex c) n w stack trap (ctxRdPreds s p pte va (w.getD 7 0#64))
    (ctxRdVec s p pte va gran) (h.getD 2 0#64)
  let held := ctxHeld s p n x
  placeParts (taskBack p task (s.setThr n { t with held := held, streams := x.streams })) n x held

/-- Whether a context carries an engine, or the core section (R345). -/
def ctxEngine (h : List W64) : Bool := bitOf (h.getD 0 0#64) 39
def ctxCoreSection (h : List W64) : Bool := bitOf (h.getD 0 0#64) 37

/-- Whether the context of a slot carries the core section. -/
def sectionAt (s : State) (p c slot : Nat) : Bool :=
  match ctxRdHeader s p c slot with
  | some (_, h, _) => ctxCoreSection h
  | none => false

/-- Whether there is room for a context but for the engine: its slot, granules, hold entries (R347). -/
def ctxRoom (s : State) (n : Nat) (w : List W64) : Bool :=
  let c := coreOf n
  s.slotFree n && decide (fieldOf (w.getD 39 0#64) 0 8 ≤ granulesLeft s c) &&
  decide (s.heldOn c + fieldOf (w.getD 19 0#64) 0 7 ≤ 64)

/-- Whether the engine of a core is free for a restore onto a slot, which waits for it as a thread does (R228, R243). -/
def engineFor (e : Engine) (slot : Nat) : Bool := e.holder == none && servedNext e.waiters (32 + slot)

/-- The waiting list of a core's engine changed. -/
def modWaiters (s : State) (c : Nat) (f : List Nat → List Nat) : State :=
  s.modCore c (fun x => { x with engine := { x.engine with waiters := f x.engine.waiters } })

/-- A slot that no restore waits for the engine on. -/
def leaveList (s : State) (n : Nat) : State := modWaiters s (coreOf n) (fun l => l.filter (· != 32 + slotOf n))

/-- A restore joins those that wait for the engine, and leaves them where it lacks anything else. -/
def awaitEngine (s : State) (n : Nat) (w : List W64) : State :=
  if ctxRoom s n w then modWaiters s (coreOf n) (fun l => joinList l (32 + slotOf n)) else leaveList s n

/-- A checked context is placed once its resources are free. The checks of R347 hold at that moment too: a core section
that finds a task, or an entry in a queue, gives PLACE, and the contexts without one let it go first. (DEDUCED:
assumption 104.) -/
def execRestorePlace (p slot : Nat) (s : State) : Host.Outcome State Fault Refusal :=
  let x := (s.prt p).preempt
  match physCore s p x.core with
  | none => .next s
  | some c =>
    let n := c * 16 + slot
    if !(x.go && x.kind == 3 && x.todo.contains slot) then .next s
    else if ctxStatus s p c slot ≠ 0 then .next (endPreempt s p (ctxStatus s p c slot))
    else match ctxRdHeader s p c slot with
      | none => .next (endPreempt s p 5)
      | some (pte, h, s1) =>
        let w := ctxRegWords s1 p pte (ctxVa (s1.prt p) slot)
        if !ctxCoreSection h && x.todo.any (fun k => sectionAt s p c k) then .next s
        else if ctxRoom s1 n w && (!ctxEngine h || engineFor (s1.core c).engine slot) then
          .next (doneSlot (placeContext (leaveList s1 n) p n pte h w) p slot)
        else if ctxEngine h then .next (awaitEngine s n w)
        else .next s

/-! ## Live migration (R296 to R298) -/

/-- What R296 refuses. -/
def migrateRefused (t : Thread) : Bool := boundPorts t != 0 || t.usedQueue || (t.bar.valid && !t.bar.done)

/-- A request for a move: one thread of a press core, and a press core of the partition. (DESIGN CHOICE: assumption 63.) -/
def migrateReq (s : State) (p : Nat) (x : Preempt) (c : Nat) : State :=
  match (s.prt p).coreAt x.dest, slotList x with
  | none, _ => endPreempt s p 4
  | some _, [k] =>
    if isCellar c || (occupied s c p [k]).isEmpty || migrateRefused (s.thr (c * 16 + k)) then endPreempt s p 2
    else beginPreempt s p [k] none
  | some _, _ => endPreempt s p 2

def execPreemptMigrate (p : Nat) (s : State) : Host.Outcome State Fault Refusal :=
  .next (onRequest s p 2 false (fun s x c => migrateReq s p x c))

/-- The slot that a move takes at its target: the lowest free one. (DESIGN CHOICE: assumption 135.) -/
def moveSlot (s : State) (c : Nat) : Option Nat :=
  ((List.range (slotsOf c)).find? (fun k => s.slotFree (c * 16 + k))).map (fun k => c * 16 + k)

/-- Whether a thread that moves leaves anything behind that it is owed: a message, or a copy's bytes and completion
(R297). -/
def owedBehind (s : State) (n : Nat) : Bool := fwdOwed s (coreOf n) (s.thr n).task || !(threadCopies s n).isEmpty

/-- Whether the target has everything a thread needs, and the old interface an entry (R296, R297). -/
def moveRoom (s : State) (n c : Nat) : Bool :=
  let t := s.thr n
  let old := s.core (coreOf n)
  decide (t.gran ≤ granulesLeft s c) && decide (s.heldOn c + t.held.length ≤ 64) &&
  (old.engine.holder != some n || ((s.core c).engine.holder == none && (s.core c).engine.waiters.isEmpty)) &&
  (!owedBehind s n || decide (old.fwd.length < 16))

/-- The thread on its new slot. -/
def movedThread (t : Thread) (idx c n : Nat) : Thread :=
  { t with migCount := t.migCount + 1#32, migCore := idx, moved := true, yieldAt := [], held := t.held.map (moveHeld c n),
           wait := .none, pre := [], word := none, half := none }

/-- Thread `old` continues as thread `new` on another core: its engine, held records and owed messages follow, and what its
copies bring comes through the core that it leaves. (DEDUCED: assumption 64.) -/
def moveThread (s : State) (p old new : Nat) : State :=
  let t := s.thr old
  let c0 := coreOf old
  let c1 := coreOf new
  let owed := owedBehind s old
  let recs := heldRecords t.held
  let e := (s.core c0).engine
  let holds := e.holder == some old
  let s1 := s.setThr new (movedThread t ((s.prt p).coreIndex c1) c1 new)
  let s2 := s1.setThr old Thread.free
  let s3 := s2.modCore c1 (fun y => { y with
    spawnOut := y.spawnOut + recs
    fwd := y.fwd.map (fun f => if f.task = t.task then { f with newThr := new } else f)
    engine := if holds then { e with holder := some new, waiters := y.engine.waiters } else y.engine })
  let s4 := s3.modCore c0 (fun y => { (dropWaiter y (slotOf old)) with
    spawnOut := y.spawnOut - recs
    engine := if holds then { Engine.free with waiters := y.engine.waiters.filter (· != slotOf old) }
      else (dropWaiter y (slotOf old)).engine
    fwd := y.fwd.filter (fun f => f.task != t.task) ++ (if owed then [⟨t.task, new⟩] else []) })
  { s4 with copies := s4.copies.map (fun x => (x.1, x.2.map (fun y =>
      if y.thr == old && y.task == t.task && y.part == p then { y with thr := new, via := c0 :: y.via } else y))) }

/-- A move happens once its resources are free, at an instruction boundary; a claim that the thread's instruction has not
used is given back (R246). A thread that has gone, or may not move any more, ends the request. (DESIGN CHOICE: assumption 127.) -/
def execLiveMigrationMove (p : Nat) (s : State) : Host.Outcome State Fault Refusal :=
  let x := (s.prt p).preempt
  match physCore s p x.core, (s.prt p).coreAt x.dest, x.todo with
  | some c0, some c1, [k] =>
    let n := c0 * 16 + k
    if !(x.go && x.kind == 2) then .next s
    else if (occupied s c0 p [k]).isEmpty || migrateRefused (s.thr n) then .next (endPreempt s p 2)
    else if (s.thr n).wait.landed || (s.thr n).stop != 0 || c0 == c1 then (if c0 == c1 then .next (endPreempt s p 2) else .next s)
    else match moveSlot s c1 with
      | some new =>
        let s1 := withdraw n (freeFwd s c0)
        if moveRoom s1 n c1 then .next (endPreempt (moveThread s1 p n new) p 0) else .next s
      | none => .next s
  | _, _, _ => .next s

end Sys2Proof.Machine
end

