-- ==== Sys2Proof/Machine/HostIf.lean ====
section
/-!
DEFINITION. The outside of the package: host windows (R353, R354, R361), ATS invalidation (R165), peers (R166, R299,
R300), the management channel and its commands (R357 to R364), and the stages of start-up (R356).
-/
namespace Sys2Proof.Machine

open Sys2Proof

/-! ## Host accesses (R361) -/

/-- The window that holds n bytes at a BAR2 offset. -/
def windowAt (s : State) (off n : Nat) : Option Window :=
  s.windows.find? (fun w => decide (w.off ≤ off) && decide (off + n ≤ w.off + w.len))

/-- A translation by a partition's page tables, as they stand (R361, R300). -/
def walkVa (s : State) (p va : Nat) : Option DmLoc :=
  if 2 ^ 48 ≤ va then none
  else match walkPage s p (va / 2 ^ 21) with
    | none => none
    | some e => if (pteLoc e va).attr = 2#2 ∧ sparseLimit ≤ (pteLoc e va).off then none else some (pteLoc e va)

/-- The pieces of n bytes from an address: each lies in one granule of 4 KiB, and so at one home. -/
def hostPieces (va n : Nat) : List (Nat × Nat) :=
  (List.range ((va % 4096 + n + 4095) / 4096)).map (fun i =>
    let a := max va (4096 * (va / 4096 + i))
    (a, min (va + n) (4096 * (va / 4096 + i + 1)) - a))

/-- The places of some pieces; `none` where one has no translation, or ends beyond a SPARSE page's blocks. -/
def hostSpans (s : State) (p : Nat) : List (Nat × Nat) → Option (List (DmLoc × Nat))
  | [] => some []
  | x :: xs =>
    match walkVa s p x.1, hostSpans s p xs with
    | some l, some ls => if l.attr = 2#2 ∧ sparseLimit < l.off + x.2 then none else some ((l, x.2) :: ls)
    | _, _ => none

/-- A host access leaves on HP. A write's `thr` is its requester (R351). -/
def hostMsg (p r : Nat) (l : DmLoc) (tok : Nat) (req : Req) : Msg :=
  ⟨hostEp, homeEp l.home, 0, .hp, p, r, 0#64, 0#32, tok, req, none, 0⟩

/-- The pieces of a write leave for their homes. -/
def hostStores (s : State) (p : Nat) : List (DmLoc × Nat) → List Byte → State
  | [], _ => s
  | x :: xs, bs => hostStores (s.inject (hostMsg p s.hostReq x.1 0 (.store (.dm x.1) ((bs.take x.2).map some)))) p xs (bs.drop x.2)

/-- The pieces of a read leave for their homes, each with a token. -/
def hostLoads (s : State) (p : Nat) : List (DmLoc × Nat) → State × List HostPart
  | [] => (s, [])
  | x :: xs =>
    let r := hostLoads (s.fresh.2.inject (hostMsg p 0 x.1 s.fresh.1 (.load (.dm x.1) x.2))) p xs
    (r.1, ⟨s.fresh.1, none⟩ :: r.2)

/-- A request that the device does not allow: it changes nothing (R353, R361). -/
def unsupported (s : State) : Host.Outcome State Fault Refusal := .next (s.complete .unsupported)

/-- A host write of up to 512 bytes through a window (R353). Outside every window it is an Unsupported Request; a
translation fault, a page without W or a read-only window drops it, and HPERR counts that. (DEDUCED: assumptions 65 and
105.) -/
def execHostDmWrite (off : Nat) (bs : List Byte) (s : State) : Host.Outcome State Fault Refusal :=
  if bs = [] ∨ 512 < bs.length then unsupported s
  else match windowAt s off bs.length with
    | none => unsupported s
    | some w =>
      match hostSpans s w.part (hostPieces (w.va + (off - w.off)) bs.length) with
      | none => .next (s.modPart w.part hperr)
      | some ls =>
        if w.wr && ls.all (fun x => x.1.wr) then .next (hostStores s w.part ls bs)
        else .next (s.modPart w.part hperr)

/-- A host read of up to 4,096 bytes through a window (R353): a translation fault completes it with all ones, and HPERR
counts it. -/
def execHostDmRead (x : BarSpan) (s : State) : Host.Outcome State Fault Refusal :=
  if x.len = 0 ∨ 4096 < x.len then unsupported s
  else match windowAt s x.off x.len with
    | none => unsupported s
    | some w =>
      match hostSpans s w.part (hostPieces (w.va + (x.off - w.off)) x.len) with
      | none => .next ((s.modPart w.part hperr).complete (.data (allOnes x.len)))
      | some ls =>
        .next { (hostLoads s w.part ls).1 with hostReads := s.hostReads ++ [(hostLoads s w.part ls).2] }

/-- An ATS invalidation removes a page's translations of a partition from the cache of every die (R165). -/
def execAtsInvalidation (p page : Nat) (s : State) : Host.Outcome State Fault Refusal :=
  .next { s with ats := s.ats.filter (fun e => !((List.range 4).any (fun d => e.1 == atsKey p d page))) }

/-! ## Peers (R166, R300) -/

/-- Whether a port of a partition is bound. -/
def portBound (s : State) (p port : Nat) : Bool := (s.prt p).present && bitOf ((s.prt p).cfReg (0x48 + port)) 63

/-- REMERR (R300). -/
def remerr : Part → Part := bumpCf 0xB0

/-- Whether a store of 8 bytes by a peer names an index (R300). -/
def isTail (s : State) (p port : Nat) (va : W64) : Bool :=
  let r := (s.prt p).cfReg (0xA8 + port)
  bitOf r 63 && fieldOf r 3 45 * 8 == va.toNat

/-- An index is taken for a pull. -/
def execRemoteEnqueueIndex (p port : Nat) (va i : W64) (s : State) : Host.Outcome State Fault Refusal :=
  if portBound s p port && decide (port < 8) && isTail s p port va then .next { s with pulls := s.pulls ++ [(p, port, i)] }
  else .next s

/-- Check 6 of R216 by a port, and the check of R176. (DEDUCED: assumption 96.) -/
def blockFor (s : State) (p : Nat) (blk : W64) : Option DmLoc :=
  match walkVa s p blk.toNat with
  | some l => if l.wr && !attrBad .atomic l && frameOk s p l then some l else none
  | none => none

/-- Checks 3 to 5 with the tables as they stand, and the check of R176: the anchor and its home. -/
def anchorFor (s : State) (p : Nat) (r : Rec) : Option (Loc × Nat) :=
  let a := Rec.abase r
  let n := Rec.alen r
  if Rec.spAnchor r then
    if crosses a.toNat n 4096 || decide (fieldOf a 32 31 ≠ 0) then none
    else (spPlace s (s.prt p) (fieldOf a 0 32)).map (fun x => (.sp (fieldOf a 0 32), x.1))
  else if crosses a.toNat n (2 ^ 21) then none
  else match walkVa s p a.toNat with
    | none => none
    | some l =>
      if (l.attr = 0#2 ∧ crosses a.toNat n 4096 = true) ∨ frameOk s p l = false then none else some (.dm l, l.home)

/-- Where a record that passes checks 2 to 6 goes. -/
def recordTarget (s : State) (p : Nat) (r : Rec) : Option Target :=
  let h := Rec.header r
  if !(nearEligible h || farEligible h) then none
  else if (Rec.dcoff r) % 256 ≠ 0 ∨ (Rec.dcoff r ≠ 0 ∧ Rec.spAnchor r = true) then none
  else match anchorFor s p r with
    | none => none
    | some g =>
      if Rec.dcoff r = 0 then some ⟨g.2, g.1, none⟩
      else (blockFor s p (blockAddr r)).map (fun l => ⟨l.home, g.1, some l⟩)

/-- A pulled record queued as a spawn of the port. -/
def portSpawn (s : State) (p port : Nat) (r : Rec) : State :=
  match recordTarget s p r with
  | none => s.modPart p remerr
  | some x =>
    let f := s.fresh
    let req : Req := match x.block with
      | none => .record r false
      | some l => .deposit (.dm l) r
    f.2.inject ⟨peerEp port, homeEp x.home, 0, .ls, p, peerEp port * 16, 0#64, hdrTag (Rec.header r), f.1, req, none, 0⟩

/-- The oldest pull of a port ends: with the record, or, where the sender's table gives none, dropped. -/
def execRemoteRecordPull (p port : Nat) (recd : Option (List W64)) (s : State) : Host.Outcome State Fault Refusal :=
  match s.pulls.find? (fun x => x.1 == p && x.2.1 == port) with
  | none => .next s
  | some x =>
    let s1 := { s with pulls := s.pulls.erase x }
    if !(s.prt p).present || port ≥ 8 then .next s1
    else match recd with
      | some r => .next (portSpawn s1 p port ((List.range 16).map (fun k => r.getD k 0#64)))
      | none => .next (s1.modPart p remerr)

/-- An answer leaves for the peer package. -/
def State.toPeer (s : State) (p port : Nat) (r : PeerReply) : State := { s with peerSent := s.peerSent ++ [(p, port, r)] }

/-- The address of record i of the table that a partition exports through a port; `none` where EXPORTn has EN clear, or i is
not below its COUNT (R300). -/
def exported (s : State) (p port : Nat) (i : W64) : Option Nat :=
  let x := (s.prt p).cfReg (0xA0 + port)
  if bitOf x 63 = true ∧ i.toNat < fieldOf x 48 15 then some (fieldOf x 7 41 * 128 + 128 * i.toNat) else none

/-- The place of n bytes for a peer's access; `none` where it is answered with PEER_ERROR (R166). -/
def peerPlace (s : State) (p va n : Nat) (write : Bool) : Option DmLoc :=
  match walkVa s p va with
  | none => none
  | some l => if va % n ≠ 0 ∨ (write = true ∧ l.wr = false) ∨ frameOk s p l = false then none else some l

/-- A peer's read. -/
def peerRead (s : State) (p va n : Nat) : PeerReply :=
  match peerPlace s p va n false with
  | none => .error
  | some l => if locBad s (.dm l) n then .poison else .bytes (readLoc s p (.dm l) n)

/-- What a peer's access does, with its answer: it is performed at once at its home. While the home discards the partition's
writes (R340), a store is acknowledged and an atomic refused. (DEDUCED: assumption 71.) -/
def peerAccess (s : State) (p port : Nat) (r : PeerReq) : State × PeerReply :=
  match r with
  | .load va n => (s, peerRead s p va.toNat n)
  | .pull i => (s, match exported s p port i with
    | none => .dropped
    | some a => peerRead s p a 128)
  | .store va data =>
    match peerPlace s p va.toNat data.length true with
    | none => (s, .error)
    | some l =>
      if (s.prt p).discard then (s, .done)
      else if isSparse (.dm l) && locBad s (.dm l) data.length then (s, .poison)
      else (writeLoc s p (.dm l) (data.map some), .done)
  | .atomic op va b cmp =>
    match peerPlace s p va.toNat (atBytes op) true with
    | none => (s, .error)
    | some l =>
      if attrBad .atomic l || (s.prt p).discard then (s, .error)
      else if locBad s (.dm l) (atBytes op) then (s, .poison)
      else
        let x := atomicStep op (readLoc s p (.dm l) (atBytes op)) b cmp
        (writeLoc s p (.dm l) (x.2.1.map some), .word x.1 x.2.2)

/-- The operations that a PM atomic has (R166). -/
def peerAtomic : AtOp → Bool
  | .addI64 | .addI32 | .casB64 | .casB32 => true
  | _ => false

/-- A peer's access arrives (R166), and its answer leaves; a store that names an index is a remote enqueue instead, and the
peer's port pulls the records that this partition exports (R300). (DEDUCED: assumption 71.) -/
def execPeerMemoryRequest (p port : Nat) (r : PeerReq) (s : State) : Host.Outcome State Fault Refusal :=
  let perform : Host.Outcome State Fault Refusal :=
    .next ((peerAccess s p port r).1.toPeer p port (peerAccess s p port r).2)
  if !portBound s p port || port ≥ 8 then .next s
  else match r with
    | .store va data =>
      if decide (data.length = 8) && isTail s p port va then
        .next ({ s with pulls := s.pulls ++ [(p, port, bytesWord data)] }.toPeer p port .done)
      else perform
    | .atomic op _ _ _ => if peerAtomic op then perform else .next s
    | .load _ _ | .pull _ => perform

/-! ## The management channel (R357) -/

/-- Request word k; word 0 is the command code. -/
def reqW (ws : List W64) (k : Nat) : W64 := ws.getD k 0#64

/-- A command's status and its result words. -/
def State.resp (s : State) (st : Nat) (result : List W64) : State := { s with mgmtResp := w64 st, mgmtResult := result }

/-- Whether the channel takes a request: a DESTROY that has not finished keeps DOORBELL at 1. -/
def mgmtFree (s : State) : Bool := !(List.range 48).any (fun p => (s.prt p).containing == .destroy)

/-- A command: ignored while another is in work; STAGE where the stage reached does not offer it (R356). -/
def command (s : State) (early recovery : Bool) (f : State) : State :=
  if !mgmtFree s then s
  else if (s.recovery && !recovery) || (!early && s.stage != 3) then s.resp 6 []
  else f

/-- ARGUMENT. -/
def argErr (s : State) : State := s.resp 7 []

/-! ### ATTEST, FWUPDATE, ZERO, STATUS -/

/-- The firmware that runs. -/
def runningFirmware (s : State) : List Byte := if s.firmware = [] then Config.shippedFirmware else s.firmware

/-- The signing key of the running firmware, derived from its measurement (R363). -/
def signingKey (s : State) : List Byte := Config.signingKey (shake256 (runningFirmware s))

/-- The measurements of a partition: its CREATE words, and its image as loaded. The device has neither, and those of its
report are free values. (DESIGN CHOICE: assumption 67.) -/
def partDigests (s : State) (p : Nat) : List Byte × State :=
  if p = 63 then drawBytes s 128
  else (shake256 (wordsBytes (s.prt p).created) ++ shake256 (s.prt p).image, s)

/-- The five measurements of a report (R363). -/
def measurements (s : State) (p : Nat) : List Byte × State :=
  let m := partDigests s p
  (shake256 Config.rom ++ shake256 (runningFirmware s) ++ shake256 (wordBytes feat0) ++ m.1, m.2)

/-- A Falcon-1024 signature of 1,280 bytes over some bytes, under the device's key. The signing draws a random number.
(DESIGN CHOICE: assumption 67.) -/
def signature (s : State) (bs : List Byte) : List Byte × State :=
  let d := drawNat s
  ((List.range 1280).map (Config.falconSign (signingKey s) bs d.1), d.2)

/-- ATTEST (R363): the measurements and the nonce, signed; header and certificate chain are free values, in their places.
(DESIGN CHOICE: assumption 67.) -/
def attestReport (s : State) (ws : List W64) : State :=
  let hdr := drawBytes s 64
  let m := measurements hdr.2 (reqW ws 5).toNat
  let body := hdr.1 ++ m.1 ++ wordsBytes ((List.range 4).map (fun k => reqW ws (1 + k)))
  let sig := signature m.2 body
  let n := drawNat sig.2
  let chain := drawBytes n.2 ((Config.freeWord n.1).toNat % 2 ^ 16)
  { chain.2 with hostMem := chain.2.hostMem.writeN (reqW ws 6).toNat (body ++ sig.1 ++ chain.1) }

def execAttest (ws : List W64) (s : State) : Host.Outcome State Fault Refusal :=
  let p := (reqW ws 5).toNat
  .next (command s true false
    (if p = 63 ∨ (p < 48 ∧ (s.prt p).present = true) then (attestReport s ws).resp 0 [] else argErr s))

/-- FWUPDATE: the image is taken from host memory, and waits for the next reset. -/
def execFwupdate (ws : List W64) (s : State) : Host.Outcome State Fault Refusal :=
  .next (command s true true ({ s with fwPending := some (s.hostMem.readN (reqW ws 1).toNat (reqW ws 2).toNat) }.resp 0 []))

/-- Whether a byte of DRAM or SRAM belongs to a partition or a shared key (R147, R153). -/
def ownedByte (s : State) (k : Nat) : Bool :=
  if k < 2 ^ 39 then
    let h := k / 2 ^ 31
    let m := k % 2 ^ 31 / 2 ^ 21
    SMap.get Owner.nobody s.blockOwner (h / 64 * 1024 + m) != .nobody || SMap.get Owner.nobody s.chanOwner (h * 1024 + m) != .nobody
  else
    let h := (k - 2 ^ 39) / 2 ^ 20
    let g := (k - 2 ^ 39) % 2 ^ 20 / 4096
    s.partitions.any (fun p =>
      let b := SMap.get 0 (s.prt p).spbase (h / 64)
      (s.spDies (s.prt p)).contains (h / 64) && decide (b ≤ g) && decide (g < b + (s.prt p).spq))

/-- ZERO: all memory outside partitions; a line written whole is poisoned no longer. -/
def zeroFree (s : State) : State :=
  { s with
    mem := s.mem.filter (fun e => ownedByte s e.1)
    homes := s.homes.map (fun h => (h.1, { h.2 with
      poisoned := h.2.poisoned.filter (fun l => ownedByte s (l * 64))
      ecc := h.2.ecc.filter (fun e => ownedByte s (e.1 * 64)) })) }

def execZero (_ : List W64) (s : State) : Host.Outcome State Fault Refusal :=
  .next (command s true false ((zeroFree s).resp 0 []))

/-- STAGE (R357). -/
def stageWord (s : State) : W64 := w64 (s.stage + (if s.recovery then 256 else 0))

/-- The result words of STATUS: STAGE, the degraded dies as a mask, the disabled units as a map by unit number, then
temperature and power, which are free values. (DESIGN CHOICE: assumption 66.) -/
def statusWords (s : State) : List W64 × State :=
  let d1 := drawNat s
  let d2 := drawNat d1.2
  let dies := (List.range 4).foldl (fun a d => if s.degraded d then a + 2 ^ d else a) 0
  let map := (List.range 41).map (fun j => w64 ((List.range 64).foldl (fun a i =>
    if s.disabled.contains (64 * j + i) then a + 2 ^ i else a) 0))
  ([stageWord s, w64 dies] ++ map ++ [Config.freeWord d1.1, Config.freeWord d2.1], d2.2)

def execStatus (_ : List W64) (s : State) : Host.Outcome State Fault Refusal :=
  .next (command s true true ((statusWords s).2.resp 0 (statusWords s).1))

/-! ### Ranges (R153, R358) -/

/-- Whether a channel's frame, or a die's block, is free. -/
def frameFree (s : State) (h m : Nat) : Bool :=
  SMap.get Owner.nobody s.chanOwner (h * 1024 + m) == .nobody && SMap.get Owner.nobody s.blockOwner (h / 64 * 1024 + m) == .nobody
def blockFree (s : State) (d m : Nat) : Bool :=
  SMap.get Owner.nobody s.blockOwner (d * 1024 + m) == .nobody &&
  (List.range 64).all (fun c => SMap.get Owner.nobody s.chanOwner ((64 * d + c) * 1024 + m) == .nobody)

/-- A channel that works: neither it nor its cellar core is disabled. -/
def channelWorks (s : State) (h : Nat) : Bool := !s.disabled.contains (unitChannel h) && !s.disabled.contains (1024 + h)

/-- The lowest n numbers below 1,024 of a kind. -/
def lowest (n : Nat) (f : Nat → Bool) : List Nat := ((List.range 1024).filter f).take n

/-- Bytes of DRAM zeroed: n from a key. -/
def zeroDram (s : State) (k n : Nat) : State :=
  let inside (a : Nat) : Bool := decide (k ≤ a) && decide (a < k + n)
  { s with
    mem := s.mem.filter (fun e => !inside e.1)
    homes := s.homes.map (fun h => (h.1, { h.2 with
      poisoned := h.2.poisoned.filter (fun l => !inside (l * 64))
      ecc := h.2.ecc.filter (fun e => !inside (e.1 * 64)) })) }

/-- A channel frame given to an owner, zeroed. -/
def giveFrame (s : State) (o : Owner) (h m : Nat) : State :=
  zeroDram { s with chanOwner := SMap.set Owner.nobody s.chanOwner (h * 1024 + m) o } (h * 2 ^ 31 + m * 2 ^ 21) (2 ^ 21)
/-- A striped block given to an owner, zeroed. -/
def giveBlock (s : State) (o : Owner) (d m : Nat) : State :=
  (List.range 64).foldl (fun s c => zeroDram s ((64 * d + c) * 2 ^ 31 + m * 2 ^ 21) (2 ^ 21))
    { s with blockOwner := SMap.set Owner.nobody s.blockOwner (d * 1024 + m) o }

/-- The owner that FRAMES names; `none` where it does not exist. -/
def framesOwner (s : State) (w : W64) : Option Owner :=
  if bitOf w 15 then
    let k := fieldOf w 8 6
    if k ≠ 0 ∧ SMap.get [] s.keys k ≠ [] then some (.key k) else none
  else if (s.prt (fieldOf w 0 6)).present then some (.part (fieldOf w 0 6)) else none

/-- Whether an owner may be given memory of a die (R12): its clusters cover it, or for a key, those of a partition that it
admits. (DEDUCED: assumption 99.) -/
def mayOwn (s : State) (o : Owner) (d : Nat) : Bool :=
  match o with
  | .part p => (s.prt p).dies.contains d
  | .key k => (SMap.get [] s.keys k).any (fun p => (s.prt p).dies.contains d)
  | .nobody => false

/-- FRAMES (R153, R358). -/
def framesCmd (s : State) (ws : List W64) : State :=
  let w1 := reqW ws 1
  let d := fieldOf (reqW ws 2) 0 2
  let h := 64 * d + fieldOf (reqW ws 2) 8 6
  let n := fieldOf (reqW ws 2) 32 8
  let blocks := bitOf w1 17
  match framesOwner s w1 with
  | none => argErr s
  | some o =>
    if n = 0 ∨ 128 ≤ n then argErr s
    else if bitOf w1 16 then
      let rs := (List.range n).map (fun k => (reqW ws (3 + k)).toNat)
      let holds (m : Nat) : Bool := decide (m < 1024) && (if blocks then SMap.get Owner.nobody s.blockOwner (d * 1024 + m) == o
        else SMap.get Owner.nobody s.chanOwner (h * 1024 + m) == o)
      if rs.all holds then
        (rs.foldl (fun s m => if blocks then { s with blockOwner := SMap.set Owner.nobody s.blockOwner (d * 1024 + m) .nobody }
          else { s with chanOwner := SMap.set Owner.nobody s.chanOwner (h * 1024 + m) .nobody }) s).resp 0 []
      else argErr s
    else if !mayOwn s o d then argErr s
    else if blocks then
      let ms := if s.degraded d then [] else lowest n (blockFree s d)
      if ms.length < n then s.resp 4 []
      else (ms.foldl (fun s m => giveBlock s o d m) s).resp 0 (w64 n :: ms.map (fun m => w64 (64 * m)))
    else
      let ms := if channelWorks s h then lowest n (frameFree s h) else []
      if ms.length < n then s.resp 4 []
      else (ms.foldl (fun s m => giveFrame s o h m) s).resp 0 (w64 n :: ms.map (fun m => w64 m))

def execFrames (ws : List W64) (s : State) : Host.Outcome State Fault Refusal := .next (command s false false (framesCmd s ws))

/-! ### CREATE (R360) -/

/-- The fields of a CREATE; `ws` numbers its words from 1. -/
structure CreateArgs where
  id : Nat
  cx : Nat
  cy : Nat
  lw : Nat
  lh : Nat
  coll : Bool
  det : Bool
  jrnl : Bool
  hgrant : Bool
  spq : Nat
  base : Nat
  size : Nat
  seed : W32
  accept : W64
  unwslot : Nat
  image : Nat
  imageLen : Nat
  load : Nat
  entry : W64
  pages : Nat
  jaddr : W64
  deriving DecidableEq, Repr

def createArgs (ws : List W64) : CreateArgs :=
  let w1 := reqW ws 1
  let w2 := reqW ws 2
  { id := fieldOf w1 0 6
    cx := fieldOf w1 8 3
    cy := fieldOf w1 12 3
    lw := fieldOf w1 16 2
    lh := fieldOf w1 20 2
    coll := bitOf w1 24
    det := bitOf w1 25
    jrnl := bitOf w1 26
    hgrant := bitOf w1 27
    spq := fieldOf w2 0 16
    base := fieldOf w2 32 11
    size := fieldOf w2 48 11
    seed := (reqW ws 3).setWidth 32
    accept := reqW ws 4
    unwslot := fieldOf (reqW ws 5) 0 11
    image := (reqW ws 6).toNat
    imageLen := (reqW ws 7).toNat
    load := (reqW ws 8).toNat
    entry := reqW ws 9
    pages := (reqW ws 10).toNat
    jaddr := reqW ws 11 }

/-- The words that a partition's measurement covers (R363): words 1 to 11. -/
def createWords (ws : List W64) : List W64 := (List.range 11).map (fun k => reqW ws (1 + k))

/-- The partition as CREATE describes it. -/
def createPart (a : CreateArgs) : Part :=
  { Part.absent with
    present := true
    cx := a.cx
    cy := a.cy
    lw := a.lw
    lh := a.lh
    coll := a.coll
    det := a.det
    jrnl := a.jrnl
    hgrant := a.hgrant
    spq := a.spq
    poolBase := a.base
    poolSize := a.size
    seed := a.seed
    accept := a.accept
    unwslot := a.unwslot
    entry := a.entry
    jaddr := a.jaddr
    keyAlive := true }

/-- Class 1: values in range. -/
def createRange (a : CreateArgs) : Bool :=
  decide (a.id < 48) && decide (1 ≤ a.pages) && decide (a.pages ≤ 8190) && decide (a.base + a.size ≤ 1280) &&
  (!a.coll || decide (a.unwslot < a.size)) && (!a.jrnl || decide (a.jaddr.toNat % 4096 = 0))

/-- Whether a cluster is taken or disabled (R11). -/
def clusterBad (s : State) (cx cy : Nat) : Bool :=
  s.partitions.any (fun p => (s.prt p).hasTile (4 * cx) (4 * cy)) ||
  (List.range 4).any (fun j => (List.range 4).any (fun i => s.disabled.contains ((4 * cy + j) * 32 + 4 * cx + i))) ||
  (List.range 4).any (fun i => s.disabled.contains (cellarAt (4 * cx + i) (4 * cy + 1)))

/-- Class 2: the rectangle (R11). -/
def createShape (s : State) (a : CreateArgs) : Bool :=
  decide (a.cx % 2 ^ a.lw = 0) && decide (a.cy % 2 ^ a.lh = 0) && decide (a.cx + 2 ^ a.lw ≤ 8) && decide (a.cy + 2 ^ a.lh ≤ 8) &&
  !(s.prt a.id).present &&
  !(List.range (2 ^ a.lh)).any (fun j => (List.range (2 ^ a.lw)).any (fun i => clusterBad s (a.cx + i) (a.cy + j)))

/-- Class 3: features (R359). -/
def createFeat (a : CreateArgs) : Bool :=
  a.accept &&& ~~~feat0 == 0#64 && (!a.det || bitOf a.accept 5) && (!a.jrnl || bitOf a.accept 6)

/-- The lowest first granule of a share that is free in every slice of a die. -/
def spBaseOn (s : State) (n d : Nat) : Option Nat :=
  (List.range 257).find? (fun b => decide (b + n ≤ 256) && s.partitions.all (fun p =>
    let x := SMap.get 0 (s.prt p).spbase d
    !(s.spDies (s.prt p)).contains d || decide (b + n ≤ x) || decide (x + (s.prt p).spq ≤ b)))

/-- What a creation takes. -/
structure CreatePlan where
  spbase : SMap Nat
  die : Nat
  blocks : List Nat
  l1 : Nat × Nat
  l2 : Nat × Nat
  deriving DecidableEq, Repr

/-- The lowest free frame of the lowest working channel of a die that has one: home and frame. -/
def tableFrame (s : State) (d : Nat) : Option (Nat × Nat) :=
  (List.range 64).findSome? (fun c =>
    if channelWorks s (64 * d + c) then ((List.range 1024).find? (fun m => frameFree s (64 * d + c) m)).map (fun m => (64 * d + c, m))
    else none)

/-- Class 4: resources. (DEDUCED: assumption 68.) -/
def createPlan (s : State) (a : CreateArgs) (pt : Part) : Option CreatePlan :=
  let dies := s.spDies pt
  let bases := dies.map (fun d => (d, spBaseOn s a.spq d))
  let poolOk := (List.range a.size).all (fun i => (s.slot (a.base + i)).part == 63 && (s.slot (a.base + i)).state != .poison) &&
    s.partitions.all (fun p => decide (a.size = 0) || decide ((s.prt p).poolSize = 0) ||
      decide (a.base + a.size ≤ (s.prt p).poolBase) || decide ((s.prt p).poolBase + (s.prt p).poolSize ≤ a.base))
  match dies with
  | [] => none
  | d :: _ =>
    if bases.any (fun b => b.2.isNone) || !poolOk then none
    else
      let need := (a.pages + 63) / 64
      let ms := lowest need (blockFree s d)
      if ms.length < need then none
      else
        let s1 := { s with blockOwner := ms.foldl (fun m k => SMap.set Owner.nobody m (d * 1024 + k) (.part a.id)) s.blockOwner }
        match tableFrame s1 d with
        | none => none
        | some f1 =>
          let s2 := { s1 with chanOwner := SMap.set Owner.nobody s1.chanOwner (f1.1 * 1024 + f1.2) (.part a.id) }
          match tableFrame s2 d with
          | none => none
          | some f2 => some ⟨bases.foldl (fun m b => SMap.set 0 m b.1 (b.2.getD 0)) [], d, ms, f1, f2⟩

/-- A page table entry (R152): attribute, W, X, die, channel, frame. -/
def mkPte (attr : Nat) (wr x : Bool) (die chan frame : Nat) : W64 :=
  w64 (2 ^ 63 + attr * 2 ^ 61 + (if wr then 2 ^ 60 else 0) + (if x then 2 ^ 59 else 0) + die * 2 ^ 51 + chan * 2 ^ 45 + frame)

/-- Where a table frame starts. -/
def frameKey (f : Nat × Nat) : Nat := f.1 * 2 ^ 31 + f.2 * 2 ^ 21
/-- An entry that names a channel frame. -/
def framePte (attr : Nat) (wr : Bool) (f : Nat × Nat) : W64 := mkPte attr wr false (f.1 / 64) (f.1 % 64) f.2

/-- The die frame of page i. -/
def pageFrame (plan : CreatePlan) (i : Nat) : Nat := 64 * plan.blocks.getD (i / 64) 0 + i % 64

/-- The initial page tables (R360, step 3). -/
def writeTables (m : Memory) (plan : CreatePlan) (pages : Nat) : Memory :=
  let m1 := m.writeN (frameKey plan.l1) (wordBytes (framePte 0 false plan.l2))
  let m2 := (List.range pages).foldl (fun m i =>
    m.writeN (frameKey plan.l2 + 8 * i) (wordBytes (mkPte 0 true true plan.die 0 (pageFrame plan i)))) m1
  let m3 := m2.writeN (frameKey plan.l2 + 8 * 8190) (wordBytes (framePte 1 true plan.l1))
  m3.writeN (frameKey plan.l2 + 8 * 8191) (wordBytes (framePte 1 true plan.l2))

/-- The image written through the initial mapping. -/
def writeImage (m : Memory) (plan : CreatePlan) (va : Nat) : List Byte → Memory
  | [] => m
  | b :: bs => writeImage (m.write (pteLoc (mkPte 0 true true plan.die 0 (pageFrame plan (va / 2 ^ 21))) va).key b) plan (va + 1) bs

/-- SRAM of a share zeroed. -/
def zeroShare (s : State) (p : Nat) : State :=
  let pt := s.prt p
  { s with mem := s.mem.filter (fun e => decide (e.1 < 2 ^ 39) ||
      (let h := (e.1 - 2 ^ 39) / 2 ^ 20
       let g := (e.1 - 2 ^ 39) % 2 ^ 20 / 4096
       let b := SMap.get 0 pt.spbase (h / 64)
       !((s.spDies pt).contains (h / 64) && decide (b ≤ g) && decide (g < b + pt.spq)))) }

/-- The pool: every slot EMPTY and the partition's, and the abort slot FULL where the partition is COLLECTIVE (R306). -/
def makePool (s : State) (a : CreateArgs) : State :=
  let s1 := (List.range a.size).foldl (fun s i => s.setSlot (a.base + i) ⟨.empty, a.id, zeroPayload, 0⟩) s
  if a.coll then s1.setSlot (a.base + a.unwslot) ⟨.full, a.id, zeroPayload, 0⟩ else s1

/-- The generator's start (R205). -/
def startX (seed : W32) (i : Nat) : W32 :=
  let x := seed ^^^ w32 (i * 0x9E3779B9)
  if x = 0#32 then 1#32 else x

/-- The generators of the partition's press cores. -/
def seedCores (s : State) (p : Nat) : State :=
  let pt := s.prt p
  ((List.range 1024).filter (fun c => pt.hasCore c)).foldl (fun s c =>
    s.modCore c (fun y => { y with genX := startX pt.seed (pt.coreIndex c) })) s

/-- PTROOT of a table frame. -/
def ptrootWord (f : Nat × Nat) : W64 := w64 (f.1 / 64 * 2 ^ 51 + f.1 % 64 * 2 ^ 45 + f.2)

/-- An image file (R373): the body and the slot numbers of its trailer; `none` where there is no trailer.
(DESIGN CHOICE: assumption 13.) -/
def splitImage (bs : List Byte) : Option (List Byte × List Nat) :=
  let n := bs.length
  let last := bytesWord (bs.drop (n - 8))
  let k := fieldOf last 0 16
  if n < 8 ∨ fieldOf last 16 16 ≠ 0x534C ∨ n < 8 * (k + 1) then none
  else some (bs.take (n - 8 * (k + 1)), (bytesWords k (bs.drop (n - 8 * (k + 1)))).map BitVec.toNat)

/-- Steps 1 to 6 of CREATE, once its resources are known. -/
def buildPart (s : State) (a : CreateArgs) (plan : CreatePlan) (pt : Part) (body : List Byte) (fulls : List Nat) : State :=
  let s1 := plan.blocks.foldl (fun s m => giveBlock s (.part a.id) plan.die m) s
  let s2 := giveFrame (giveFrame s1 (.part a.id) plan.l1.1 plan.l1.2) (.part a.id) plan.l2.1 plan.l2.2
  let s3 := s2.setPart a.id (({ pt with spbase := plan.spbase }.setCf 0x41 (ptrootWord plan.l1)).setCf 0x70 0x10101010#64)
  let s4 := makePool (zeroShare s3 a.id) a
  let s5 := { s4 with mem := writeTables s4.mem plan a.pages }
  let s6 := { s5 with mem := writeImage s5.mem plan a.load body }
  let s7 := fulls.foldl (fun s k => s.setSlot (a.base + k) ⟨.full, a.id, zeroPayload, 0⟩) s6
  startResident (seedCores s7 a.id) a.id 0#64 0#64

/-- CREATE (R360): the checks in their order, then the partition. An image that host memory does not deliver gives IMAGE,
like one that does not fit, and nothing is created. -/
def createCmd (s : State) (ws : List W64) : State :=
  let a := createArgs ws
  let pt := createPart a
  if !createRange a then argErr s
  else if !createShape s a then s.resp 2 []
  else if !createFeat a then s.resp 3 []
  else match createPlan s a pt with
    | none => s.resp 4 []
    | some plan =>
      if s.hostReadFails then { s with hostReadFails := false }.resp 5 []
      else match splitImage (s.hostMem.readN a.image a.imageLen) with
      | none => s.resp 5 []
      | some (body, fulls) =>
        if a.pages * 2 ^ 21 < a.load + body.length ∨ fulls.any (fun k => decide (a.size ≤ k)) = true then s.resp 5 []
        else (buildPart s a plan { pt with created := createWords ws, image := body } body fulls).resp 0 []

def execCreate (ws : List W64) (s : State) : Host.Outcome State Fault Refusal := .next (command s false false (createCmd s ws))

/-- DESTROY: the partition stops as a rollback does; `rollbackEnd` gives back what it held. -/
def destroyCmd (s : State) (ws : List W64) : State :=
  let p := (reqW ws 1).toNat
  if p < 48 ∧ (s.prt p).present = true then
    (stopThreads (discardWork s p) p).modPart p (fun q => { q with containing := .destroy, discard := true, keyAlive := false })
  else argErr s

def execDestroy (ws : List W64) (s : State) : Host.Outcome State Fault Refusal := .next (command s false false (destroyCmd s ws))

/-! ### GRANT, KEYSHARE, PEERBIND, PREEMPT, POWERCAP, TUNE, REPLAY -/

def page2M : Nat := 2097152

/-- GRANT (R358, R361). -/
def grantCmd (s : State) (ws : List W64) : State :=
  let w := reqW ws 1
  let p := fieldOf w 0 6
  let off := (reqW ws 2).toNat
  let len := (reqW ws 3).toNat
  let va := (reqW ws 4).toNat
  if !(s.prt p).present || decide (48 ≤ p) || decide (off % page2M ≠ 0) || decide (len % page2M ≠ 0) || decide (2 ^ 36 < off + len) then argErr s
  else if bitOf w 9 then
    { s with windows := s.windows.filter (fun x => !(x.part == p && decide (off ≤ x.off) && decide (x.off + x.len ≤ off + len))) }.resp 0 []
  else if va % page2M ≠ 0 ∨ s.windows.any (fun x => decide (off < x.off + x.len) && decide (x.off < off + len)) = true then argErr s
  else { s with windows := ⟨p, off, len, va, bitOf w 8⟩ :: s.windows }.resp 0 []

def execGrant (ws : List W64) (s : State) : Host.Outcome State Fault Refusal := .next (command s false false (grantCmd s ws))

/-- KEYSHARE (R358, R362). -/
def keyshareCmd (s : State) (ws : List W64) : State :=
  let k := fieldOf (reqW ws 1) 0 6
  let n := fieldOf (reqW ws 1) 8 4
  let ps := (List.range n).map (fun i => fieldOf (reqW ws (2 + i)) 0 6)
  let old := SMap.get [] s.keys k
  let new := ps.foldl (fun l p => if l.contains p then l else l ++ [p]) old
  if k = 0 ∨ n = 0 ∨ 8 < n ∨ ps.any (fun p => !(s.prt p).present) = true then argErr s
  else if 8 < new.length then s.resp 4 []
  else { s with keys := SMap.set [] s.keys k new }.resp 0 []

def execKeyshare (ws : List W64) (s : State) : Host.Outcome State Fault Refusal := .next (command s false false (keyshareCmd s ws))

/-- PEERBIND: PEERPARTn is written (R168, R357). A disabled port is a resource that is lacking. (DESIGN CHOICE: assumption
3.) -/
def peerbindCmd (s : State) (ws : List W64) : State :=
  let p := (reqW ws 1).toNat
  let n := (reqW ws 2).toNat
  let q := (reqW ws 3).toNat
  if p < 48 ∧ (s.prt p).present = true ∧ n < 8 ∧ q < 48 then
    if s.disabled.contains (unitPeer n) then s.resp 4 []
    else (s.modPart p (fun x => x.setCf (0x48 + n) (w64 (2 ^ 63 + q)))).resp 0 []
  else argErr s

def execPeerbind (ws : List W64) (s : State) : Host.Outcome State Fault Refusal := .next (command s false false (peerbindCmd s ws))

/-- PREEMPT: a write of the partition's PREEMPT register on the host's behalf (R342). (DEDUCED: assumption 72.) -/
def preemptCmd (s : State) (ws : List W64) : State :=
  let p := (reqW ws 1).toNat
  let v := reqW ws 2
  if !(decide (p < 48) && (s.prt p).present) then argErr s
  else if (s.prt p).preempt.go && !preemptStarts (s.prt p).preempt v then s.resp 1 []
  else (s.modHome (mbEp p) (fun h => { h with router := h.router ++
    [⟨hostEp, mbEp p, 0, .hp, p, 0, 0#64, 0#32, 0, .cfWrite 0xD4 v, none, 0⟩] })).resp 0 []

def execPreempt (ws : List W64) (s : State) : Host.Outcome State Fault Refusal := .next (command s false false (preemptCmd s ws))

/-- POWERCAP (R365). -/
def execPowercap (ws : List W64) (s : State) : Host.Outcome State Fault Refusal :=
  .next (command s false false ({ s with powerCap := (reqW ws 1).toNat }.resp 0 []))

/-- TUNE (R358): the fields named by SET, on one die. -/
def tuneCmd (s : State) (ws : List W64) : State :=
  let w := reqW ws 1
  let d := fieldOf w 0 2
  { s with
    agecap := if bitOf w 8 then SMap.set 0 s.agecap d (fieldOf (reqW ws 2) 0 32) else s.agecap
    scrubrate := if bitOf w 9 then SMap.set 0 s.scrubrate d (fieldOf (reqW ws 3) 0 20) else s.scrubrate
    imbal := if bitOf w 10 then SMap.set 0 s.imbal d (fieldOf (reqW ws 4) 0 16) else s.imbal }.resp 0 []

def execTune (ws : List W64) (s : State) : Host.Outcome State Fault Refusal := .next (command s false false (tuneCmd s ws))

/-- A journal entry as `journal` writes it. -/
def readEntryAt (s : State) (a : Nat) : JEntry :=
  let ws := bytesWords 16 (s.hostMem.readN a 128)
  ⟨ws.take 8, (ws.getD 8 0#64).toNat % 4, ws.getD 9 0#64⟩

/-- REPLAY (R364): the partition is created anew, and the journal's messages wait to be placed. -/
def replayCmd (s : State) (ws : List W64) : State :=
  let a := (reqW ws 1).toNat
  let n := (reqW ws 2).toNat
  let cws := ws.drop 2
  if a % 4096 ≠ 0 ∨ n = 0 ∨ 8192 < n ∨ (createArgs cws).det = false then argErr s
  else
    let s1 := createCmd s cws
    if s1.mgmtResp = 0#64 then
      s1.modPart (createArgs cws).id (fun q => { q with replay := (List.range n).map (fun i => readEntryAt s (a + 128 * i)) })
    else s1

def execReplay (ws : List W64) (s : State) : Host.Outcome State Fault Refusal := .next (command s false false (replayCmd s ws))

/-! ## Host requests to the BARs (R353 to R355, R357) -/

/-- MBSTAT (R355). -/
def mbstatWord (x : Mailbox) : W64 :=
  w64 ((if x.busy then 4 else 0) + (if x.overrun then 2 else 0) + (if x.ready then 1 else 0))

/-- The command of word 0, with the request words. A code that names none gives ARGUMENT. (DESIGN CHOICE: assumption
100.) -/
def runCommand (code : Nat) (ws : List W64) (s : State) : Host.Outcome State Fault Refusal :=
  match code with
  | 0x01 => execAttest ws s
  | 0x02 => execFwupdate ws s
  | 0x03 => execZero ws s
  | 0x04 => execStatus ws s
  | 0x10 => execCreate ws s
  | 0x11 => execDestroy ws s
  | 0x12 => execGrant ws s
  | 0x13 => execKeyshare ws s
  | 0x14 => execPeerbind ws s
  | 0x15 => execPreempt ws s
  | 0x16 => execPowercap ws s
  | 0x17 => execFrames ws s
  | 0x18 => execTune ws s
  | 0x20 => execReplay ws s
  | _ => .next (command s true true (argErr s))

/-- Request words 0 to 127. -/
def requestWords (s : State) : List W64 := (List.range 128).map (fun k => SMap.get 0#64 s.mgmtReq k)

/-- DOORBELL rung (R357). -/
def ringDoorbell (s : State) : Host.Outcome State Fault Refusal :=
  runCommand (SMap.get 0#64 s.mgmtReq 0).toNat (requestWords s) s

/-- What a BAR0 offset names (R354): a place of the management channel's page, or partition, mailbox and offset. -/
inductive BarPlace where
  | mgmt (off : Nat)
  | mbox (p m off : Nat)
  | nothing
  deriving DecidableEq, Repr

def barPlace (off : Nat) : BarPlace :=
  if off < 0x1000 then .mgmt off
  else if 0x100000 ≤ off ∧ off < 0x100000 + 0x1000 * 48 ∧ off % 0x1000 < 0x400 then
    .mbox ((off - 0x100000) / 0x1000) (off % 0x1000 / 0x100) (off % 0x100)
  else .nothing

/-- A word of the management channel (R357). -/
def mgmtWord (s : State) (off : Nat) : W64 :=
  if off < 0x400 then SMap.get 0#64 s.mgmtReq (off / 8)
  else if off < 0x800 then s.mgmtResult.getD ((off - 0x400) / 8) 0#64
  else if off = 0x800 then (if mgmtFree s then 0#64 else 1#64)
  else if off = 0x808 then s.mgmtResp
  else if off = 0x810 then stageWord s
  else 0#64

/-- A word of a mailbox as the host reads it: its inbound words read 0 (R354). -/
def mailWord (x : Mailbox) (off : Nat) : W64 :=
  if 0x40 ≤ off ∧ off < 0x80 then SMap.get 0#64 x.outbound ((off - 0x40) / 8)
  else if off = 0x80 then mbstatWord x
  else 0#64

/-- A word of BAR0; an offset that names nothing reads 0. (DESIGN CHOICE: assumption 100.) -/
def bar0Word (s : State) (off : Nat) : W64 :=
  match barPlace off with
  | .mgmt o => mgmtWord s o
  | .mbox p m o => mailWord ((s.prt p).mbox m) o
  | .nothing => 0#64

/-- A write of 8 bytes to BAR0; one to an offset that takes none is ignored. -/
def bar0Write (off : Nat) (v : W64) (s : State) : Host.Outcome State Fault Refusal :=
  match barPlace off with
  | .mgmt o =>
    if o < 0x400 then .next { s with mgmtReq := SMap.set 0#64 s.mgmtReq (o / 8) v }
    else if o = 0x800 ∧ v = 1#64 then ringDoorbell s
    else .next s
  | .mbox p m o =>
    if o < 0x38 then execMailboxWordWrite p m (o / 8) v s
    else if o = 0x38 then execMailboxMessageComplete p m v s
    else if o = 0x80 then execMbstatWrite p m v s
    else .next s
  | .nothing => .next s

/-- Whether BAR0 allows an access: 8 bytes, aligned, within its 4 MiB (R354). -/
def bar0Allows (off size : Nat) : Bool := size == 8 && decide (off % 8 = 0) && decide (off < 2 ^ 22)

/-- A host read of a BAR. -/
def hostRead (bar off size : Nat) (s : State) : Host.Outcome State Fault Refusal :=
  if bar = 0 ∧ bar0Allows off size = true then .next (s.complete (.data (wordBytes (bar0Word s off))))
  else if bar = 2 then execHostDmRead ⟨off, size⟩ s
  else unsupported s

/-- A write of a BAR by one requester of the host (R351). -/
def hostWrite (requester bar off : Nat) (bs : List Byte) (s : State) : Host.Outcome State Fault Refusal :=
  let s0 := { s with hostReq := requester }
  if bar = 0 ∧ bar0Allows off bs.length = true then bar0Write off (bytesWord bs) s0
  else if bar = 2 then execHostDmWrite off bs s0
  else unsupported s0

/-! ## Start-up (R356) -/

/-- Reset: Stage A again, with the image of the last FWUPDATE (R357); host and peer memory, and what the device has sent,
are not the package's. Firmware that fails its check leaves the recovery firmware of ROM. (DESIGN CHOICE: assumption
70.) -/
def execReset (firmwareGood : Bool) (s : State) : Host.Outcome State Fault Refusal :=
  .next { State.reset with
    agenda := s.agenda
    mem := s.mem
    hostMem := s.hostMem
    peerMem := s.peerMem
    recovery := !firmwareGood
    firmware := s.fwPending.getD s.firmware
    completions := s.completions
    tokensSent := s.tokensSent
    peerSent := s.peerSent
    nextId := s.nextId
    freeCtr := s.freeCtr }

/-- Stage B: the units that fail their self-test are disabled (R8). (DESIGN CHOICE: assumption 3.) -/
def execStageB (failed : List Nat) (s : State) : Host.Outcome State Fault Refusal :=
  if s.stage = 1 ∧ s.recovery = false then .next { s with stage := 2, disabled := failed.filter (fun u => decide (u < 2600)) }
  else .next s

/-- The same value for each of the four dies. -/
def everyDie (v : Nat) : SMap Nat := (List.range 4).map (fun d => (d, v))

/-- Stage C: every home, queue, generator and slot is initialised (R184, R205, R283, R306). -/
def execStageC (s : State) : Host.Outcome State Fault Refusal :=
  if s.stage = 2 then
    let clear := { State.reset with
      agenda := s.agenda
      mem := s.mem
      hostMem := s.hostMem
      peerMem := s.peerMem
      disabled := s.disabled
      nextId := s.nextId
      freeCtr := s.freeCtr
      powerCap := s.powerCap
      overCap := s.overCap
      firmware := s.firmware
      fwPending := s.fwPending
      hostReadFails := s.hostReadFails
      completions := s.completions
      tokensSent := s.tokensSent
      peerSent := s.peerSent
      mgmtReq := s.mgmtReq
      mgmtResp := s.mgmtResp
      mgmtResult := s.mgmtResult
      stage := 3
      agecap := everyDie 2048
      scrubrate := everyDie 1000
      imbal := everyDie 8 }
    .next ((List.range 256).foldl (fun s h => s.modCore (homeEp h) (fun c => { c with genX := startX 0#32 (homeEp h) })) clear)
  else .next s

end Sys2Proof.Machine
end

