-- ==== Sys2Proof/Machine/Messages.lean ====
section
/-!
DEFINITION. Active messages (R285 to R288), stream ports (R289 to R291) and speculative regions (R293 to R295), as
their instructions issue.
-/
namespace Sys2Proof.Machine

open Sys2Proof

/-! ## Active messages -/

/-- The argument words of an active message: `w24` to `w30` (R286). -/
def amArgs (t : Thread) : List W64 := (List.range 7).map (fun j => t.w (24 + j))
def Uses.amArgs : Uses := { ws := (List.range 7).map (fun j => 24 + j) }

/-- A message to the home of an address leaves, or is held; `rel` is the wait of R217. It is no access: only a move holds
it back (R281, R298). -/
def sendNamed (x : Loc × Nat) (req : Req) (rel : Bool) : Act Ret := do
  let s ← get
  let m := (s.mkMsg .ls (homeEp x.2) 0 req).at x.1
  if s.me.specOn then do
    sendOrHold m rel false spaceDm 0 []
    return .seq
  else do
    (if rel then waitRecord else return ())
    waitMove
    modify (fun s => s.post m)
    return .seq

/-- `amsg` and `amsg.rel`. -/
def sendAmsg (c : Ctl) (fn : Nat) (rel : Bool) (addr : WG) (tag : WI) (rtag : WI) (s : State) :
    Host.Outcome State Fault Refusal :=
  runScalar c ((((Uses.wg addr).and (Uses.wi tag)).and (Uses.wi rtag)).and Uses.amArgs) (do
    let a ← readWG addr
    let k ← readLimit 0xA2 fn 2 255 tag
    let r ← readWI rtag
    let x ← anchorHome a
    let t ← getMe
    sendNamed x (.amsg k (r.setWidth 32) (amArgs t ++ [a])) rel) s

/-- `amsg` (R286). -/
def execAmsg (c : Ctl) (addr : WG) (tag : WI) (rtag : WI) (s : State) : Host.Outcome State Fault Refusal :=
  sendAmsg c 0 false addr tag rtag s

/-- `amsg.rel` (R286, R288). -/
def execAmsgRel (c : Ctl) (addr : WG) (tag : WI) (rtag : WI) (s : State) : Host.Outcome State Fault Refusal :=
  sendAmsg c 1 true addr tag rtag s

/-- `bind` (R287). -/
def execBind (c : Ctl) (addr : WG) (tag : WI) (entry : WI) (s : State) : Host.Outcome State Fault Refusal :=
  runScalar c (((Uses.wg addr).and (Uses.wi tag)).and (Uses.wi entry)) (do
    let a ← readWG addr
    let k ← readLimit 0xA3 0 2 255 tag
    let e ← readEntry entry
    let x ← anchorHome a
    sendNamed x (.bind k e) false) s

/-- `unbind` (R287). -/
def execUnbind (c : Ctl) (addr : WG) (tag : WI) (s : State) : Host.Outcome State Fault Refusal :=
  runScalar c ((Uses.wg addr).and (Uses.wi tag)) (do
    let a ← readWG addr
    let k ← readLimit 0xA4 0 2 255 tag
    let x ← anchorHome a
    sendNamed x (.unbind k) false) s

/-! ## Stream ports -/

/-- Steps along one dimension of the torus (R280, R282): how many, and whether in the positive direction; the shorter
way, the positive one when they are equal. -/
def ringWay (a b : Nat) : Nat × Bool :=
  let d := (b + 32 - a) % 32
  if d ≤ 16 then (d, true) else (32 - d, false)

/-- The coordinate after k steps. -/
def ringStep (a k : Nat) (up : Bool) : Nat := if up then (a + k) % 32 else (a + 32 - k % 32) % 32

/-- A link of the torus: the router it leaves and its direction (0: +x, 1: −x, 2: +y, 3: −y). -/
def linkId (x y dir : Nat) : Nat := (y * 32 + x) * 4 + dir

/-- The links of the dimension-order path between two tiles (R282). -/
def dimPath (x0 y0 x1 y1 : Nat) : List Nat :=
  let wx := ringWay x0 x1
  let wy := ringWay y0 y1
  (List.range wx.1).map (fun k => linkId (ringStep x0 k wx.2) y0 (if wx.2 then 0 else 1)) ++
  (List.range wy.1).map (fun k => linkId x1 (ringStep y0 k wy.2) (if wy.2 then 2 else 3))

def portUses : Uses := { feats := [3] }

/-- `open.tx` (R290): the header leaves, and reserves its path link by link. It runs on
a cellar core as on a press core (R50). (DEDUCED: assumption 31.) -/
def execOpenTx (c : Ctl) (port : BitVec 3) (core : WI) (chan : WI) (s : State) : Host.Outcome State Fault Refusal :=
  runScalar c ((((Uses.wi core).and (Uses.wi chan)).and portUses).and { conflict := some 0xA5 }) (do
    let k ← readLimit 0xA5 0 2 1023 core
    let ch ← readLimit 0xA5 0 3 15 chan
    let s ← get
    if s.me.port port.toNat ≠ .unbound then trap causePortFault 1#64
    else match (s.prt s.me.part).coreAt k with
      | none => trap causePortFault 3#64
      | some dst => do
        let id ← freshA
        let src := coreOf s.cur
        let r : Route := ⟨id, src, dst, ch, false, [], dimPath (coreX src) (coreY src) (coreX dst) (coreY dst), 0, 0, 0, false, false⟩
        modify (fun s => { s with routes := s.routes ++ [r] })
        modMeA (fun t => t.setPort port.toNat (.tx id))
        return .seq) s

/-- `open.rx` (R290), on a cellar core as on a press core (R50). (DEDUCED: assumption 31.) -/
def execOpenRx (c : Ctl) (port : BitVec 3) (chan : WI) (s : State) : Host.Outcome State Fault Refusal :=
  runScalar c (((Uses.wi chan).and portUses).and { conflict := some 0xA5 }) (do
    let ch ← readLimit 0xA5 1 2 15 chan
    let s ← get
    let co := coreOf s.cur
    if s.me.port port.toNat ≠ .unbound then trap causePortFault 1#64
    else if ((s.core co).chan ch).receiver.isSome then trap causePortFault 2#64
    else do
      modify (fun s => s.modCore co (fun x => x.setChan ch { x.chan ch with receiver := some s.cur, discard := false }))
      modMeA (fun t => t.setPort port.toNat (.rx ch))
      modify (fun s => settle s co ch)
      return .seq) s

/-- `close` (R291, R301); it waits for a reply that is owed to the port. -/
def execClose (c : Ctl) (port : BitVec 3) (s : State) : Host.Outcome State Fault Refusal :=
  runScalar c (portUses.and { conflict := some 0xA6 }) (do
    let s ← get
    if s.me.port port.toNat = .unbound then trap causePortUnbound (w64 port.toNat)
    else if s.me.owed.any (fun o => decide (o.fill = .port port.toNat)) then block
    else do
      set (closePort s s.cur port.toNat)
      return .seq) s

/-! ## Speculative regions -/

/-- `spec` (R293): a region inside a region does nothing. -/
def execSpec (c : Ctl) (s : State) : Host.Outcome State Fault Refusal :=
  runScalar c { feats := [2] } (do
    modMeA (fun t => { t with specOn := true })
    return .seq) s

/-- Whether a message takes part in the order of accesses on its path (R77, R82); active messages and what binds them do
not (R281). -/
def isMsg : Req → Bool
  | .amsg _ _ _ | .bind _ _ | .unbind _ => true
  | _ => false

/-- Whether a held entry has to wait before its release: as each of its messages would have waited as it issued (R82,
R84, R298), and a `.rel` access for its path, any other release for R217. -/
def heldWaits (s : State) (h : Held) : Bool :=
  !s.moveDrained s.cur ||
  h.msgs.any (fun m => !isMsg m.req && !s.accessOpen s.cur m.path) ||
  (h.rel && (match h.msgs with
    | [] => false
    | m :: _ =>
      match m.req with
      | .store _ _ | .rowadd _ _ _ _ | .hmStore _ _ | .pmStore _ _ => s.pending s.me.task [m.path]
      | _ => s.recordWaits))

/-- A held message is sent: a record is numbered as it leaves (R192). -/
def releaseMsg (s : State) (m : Msg) : State :=
  match m.req with
  | .record _ _ | .deposit _ _ => s.fresh.2.post { m with tok := s.fresh.1 }
  | _ => s.post m

/-- Held messages released in their order, up to the first that has to wait (R295). -/
def releaseHeld : List Held → State → State
  | [], s => s.modMe (fun t => { t with held := [] })
  | h :: hs, s =>
    if heldWaits s h then s.modMe (fun t => { t with held := h :: hs })
    else releaseHeld hs (h.msgs.foldl releaseMsg s)

/-- HELD as `commit` found it. -/
def heldAtStart (t : Thread) : Nat :=
  match t.wait with
  | .commit n => n
  | _ => t.held.length

/-- `commit` (R295). -/
def execCommit (c : Ctl) (d : BitVec 5) (s : State) : Host.Outcome State Fault Refusal :=
  runScalar c ((Uses.w d).and { feats := [2] }) (do
    let s ← get
    if !s.me.specOn then do
      setWA d 0#64
      return .seq
    else
      let n := heldAtStart s.me
      let s1 := releaseHeld s.me.held s
      if s1.me.held.isEmpty then do
        set (s1.modMe (fun t => { t with specOn := false }))
        setWA d (w64 n)
        return .seq
      else blockWith (fun s => (releaseHeld s.me.held s).modMe (fun t => { t with wait := .commit n }))) s

/-- `abort` (R295). -/
def execAbort (c : Ctl) (d : BitVec 5) (s : State) : Host.Outcome State Fault Refusal :=
  runScalar c ((Uses.w d).and { feats := [2] }) (do
    let s ← get
    if !s.me.specOn then do
      setWA d 0#64
      return .seq
    else do
      set ((discardHeld s s.cur).modMe (fun t => { t with specOn := false }))
      setWA d (w64 s.me.held.length)
      return .seq) s

end Sys2Proof.Machine
end

