-- ==== Sys2Proof/Machine/Predicate.lean ====
section
/-!
DEFINITION. Compares, predicate logic, moves and counts (R113 to R118).
-/
namespace Sys2Proof.Machine

open Sys2Proof

/-! ## Compares (R114) -/

/-- Both predicates of a pair written: `yes` to pt and `no` to pf; their LIVE bits are set (R44). -/
def setPair (t : Thread) (d : Pair) (yes no : W32) : Thread :=
  let t1 := (t.setPred d.pt.toNat yes).setPred d.pf.toNat no
  (t1.markLive d.pt.toNat).markLive d.pf.toNat

/-- One broadcast condition (R114). -/
def broadcast (b : Bool) : W32 := if b then 0xFFFFFFFF#32 else 0#32

/-- A mask from 32 conditions. -/
def maskOf (i : Nat) : List Bool → W32
  | [] => 0#32
  | b :: bs => (if b then 1#32 <<< i else 0#32) ||| maskOf (i + 1) bs

/-- A scalar compare: suppressed, it writes zeros (R23). -/
def scalarCompare (c : Ctl) (cond : Nat → Nat → Bool) (t : Ty) (d : Pair) (a b : Src) (s : State) :
    Host.Outcome State Fault Refusal :=
  runWord c false true ((Uses.src a).and (Uses.src b)) (fun g =>
    if g.getLsbD 0 then do
      let x ← readSrc t a
      let y ← readSrc t b
      modMeA (fun th => setPair th d (broadcast (cond x y)) (broadcast (!cond x y)))
      return .seq
    else do
      modMeA (fun th => setPair th d 0#32 0#32)
      return .seq) s

/-- A vector compare (R114). -/
def laneCompare (c : Ctl) (cond : Nat → Nat → Bool) (t : Ty) (d : Pair) (a b : VSrc) (s : State) :
    Host.Outcome State Fault Refusal :=
  runWord c true true ((Uses.vsrc a).and (Uses.vsrc b)) (fun g =>
    if g != 0#32 then do
      let x ← readLanes t a
      let y ← readLanes t b
      let m := maskOf 0 (List.zipWith cond x y)
      modMeA (fun th => setPair th d (g &&& m) (g &&& ~~~m))
      return .seq
    else do
      modMeA (fun th => setPair th d 0#32 0#32)
      return .seq) s

/-- `cmp` (R113). -/
def execCmp (c : Ctl) (k : ICond) (t : Ty) (d : Pair) (a b : Src) (s : State) : Host.Outcome State Fault Refusal :=
  scalarCompare c (iCond k t) t d a b s

/-- `cmpf` (R113). -/
def execCmpf (c : Ctl) (k : FCond) (t : Ty) (d : Pair) (a b : Src) (s : State) : Host.Outcome State Fault Refusal :=
  scalarCompare c (fCond k t) t d a b s

/-- `vcmp` (R113). -/
def execVcmp (c : Ctl) (k : ICond) (t : Ty) (d : Pair) (a b : VSrc) (s : State) : Host.Outcome State Fault Refusal :=
  laneCompare c (iCond k t) t d a b s

/-- `vcmpf` (R113). -/
def execVcmpf (c : Ctl) (k : FCond) (t : Ty) (d : Pair) (a b : VSrc) (s : State) : Host.Outcome State Fault Refusal :=
  laneCompare c (fCond k t) t d a b s

/-! ## Logic and moves (R115, R116, R118) -/

/-- The lanes of a mask taken from `x`, the others from `old`. -/
def mixLanes (g old x : W32) : W32 := (g &&& x) ||| (~~~g &&& old)

/-- A predicate written in the lanes of a mask. -/
def setPredLanes (t : Thread) (d : Nat) (g x : W32) : Thread :=
  (t.setPred d (mixLanes g (t.pred d) x)).markLive d

/-- R115: the table of `plog` over three inputs. -/
def plogTable (tt : BitVec 8) (a b d : W32) : W32 :=
  (List.range 8).foldl (fun acc i => if tt.getLsbD i then acc ||| guardTerm a b d i else acc) 0#32

/-- `plog` (R115). -/
def execPlog (c : Ctl) (tt : BitVec 8) (d a b : BitVec 4) (s : State) : Host.Outcome State Fault Refusal :=
  runLane c Uses.none (fun g => do
    modMeA (fun t => setPredLanes t d.toNat g (plogTable tt (t.pred a.toNat) (t.pred b.toNat) (t.pred d.toNat)))
    return .seq) s

/-- `pmov pd, pa` (R116). -/
def execPmov (c : Ctl) (d a : BitVec 4) (s : State) : Host.Outcome State Fault Refusal :=
  runLane c Uses.none (fun g => do
    modMeA (fun t => setPredLanes t d.toNat g (t.pred a.toNat))
    return .seq) s

/-- `pmov pd, wa` (R116). -/
def execPmovFromW (c : Ctl) (d : BitVec 4) (a : BitVec 5) (s : State) : Host.Outcome State Fault Refusal :=
  runLane c (Uses.w a) (fun g => do
    modMeA (fun t => setPredLanes t d.toNat g ((t.w a.toNat).setWidth 32))
    return .seq) s

/-- `pmov wd, pa` (R116). -/
def execPmovToW (c : Ctl) (d : BitVec 5) (a : BitVec 4) (s : State) : Host.Outcome State Fault Refusal :=
  runLane c (Uses.w d) (fun g => do
    let old := (← getMe).w d.toNat
    let p := (← getMe).pred a.toNat
    setWA d (old.extractLsb' 32 32 ++ mixLanes g (old.setWidth 32) p)
    return .seq) s

/-! ## Counts (R117) -/

def popCount32 (p : W32) : Nat := (List.range 32).foldl (fun n i => if p.getLsbD i then n + 1 else n) 0
/-- The lowest set bit from bit i on, `n` bits to look at; 32 when there is none. -/
def firstSet (p : W32) : Nat → Nat → Nat
  | 0, _ => 32
  | n + 1, i => if p.getLsbD i then i else firstSet p n (i + 1)

/-- `pcnt` (R117). -/
def execPcnt (c : Ctl) (d : Dst) (a : BitVec 4) (s : State) : Host.Outcome State Fault Refusal :=
  runScalar c (Uses.dst 0x16 d) (do
    writeDst d (w64 (popCount32 ((← getMe).pred a.toNat)))
    return .seq) s

/-- `pfirst` (R117). -/
def execPfirst (c : Ctl) (d : Dst) (a : BitVec 4) (s : State) : Host.Outcome State Fault Refusal :=
  runScalar c (Uses.dst 0x17 d) (do
    writeDst d (w64 (firstSet ((← getMe).pred a.toNat) 32 0))
    return .seq) s

/-- `pset pd, imm` (R118). -/
def execPset (c : Ctl) (d : BitVec 4) (m : BitVec 15) (s : State) : Host.Outcome State Fault Refusal :=
  runLane c Uses.none (fun g => do
    modMeA (fun t => setPredLanes t d.toNat g (m.signExtend 32))
    return .seq) s

/-- Bits 0 to n − 1 set; above 32, all of them (R118). -/
def lowMask (n : Nat) : W32 := w32 (2 ^ (min n 32) - 1)

/-- `pset.first` (R118). -/
def execPsetFirst (c : Ctl) (d : BitVec 4) (n : WI) (s : State) : Host.Outcome State Fault Refusal :=
  runLane c (Uses.wi n) (fun g => do
    let k ← readWI n
    modMeA (fun t => setPredLanes t d.toNat g (lowMask k.toNat))
    return .seq) s

end Sys2Proof.Machine
end

