-- ==== Sys2Proof/Machine/Vector.lean ====
section
/-!
DEFINITION. The vector and permute group (R127 to R141).
-/
namespace Sys2Proof.Machine

open Sys2Proof

/-! ## Shared shapes -/

/-- Two lane sources and one result each lane, with its flags. Where both sources stop the instruction, A does.
(DESIGN CHOICE: assumption 128.) -/
def laneBin (c : Ctl) (t : Ty) (d : VReg) (a b : VSrc) (f : Nat → Nat → Nat × Fl) (s : State) :
    Host.Outcome State Fault Refusal :=
  runLane c (((Uses.vr d).and (Uses.vsrc a)).and (Uses.vsrc b)) (fun g => do
    let x ← readLanes t a
    let y ← readLanes t b
    writeLanesFl t d g (List.zipWith f x y)
    return .seq) s

/-- The same without flags. -/
def laneInt (c : Ctl) (t : Ty) (d : VReg) (a b : VSrc) (f : Ty → Nat → Nat → Nat) (s : State) :
    Host.Outcome State Fault Refusal := laneBin c t d a b (fun x y => (f t x y, 0#7)) s

/-- One lane source read at one type, one result of another. -/
def laneUn (c : Ctl) (dt st : Ty) (d : VReg) (a : VSrc) (f : Nat → Nat × Fl) (s : State) :
    Host.Outcome State Fault Refusal :=
  runLane c ((Uses.vr d).and (Uses.vsrc a)) (fun g => do
    let x ← readLanes st a
    writeLanesFl dt d g (x.map f)
    return .seq) s

/-! ## Lane arithmetic (R130 to R132) -/

/-- An exact result clamped to the range of the type, OF where it clamps (R130). -/
def clampInt (t : Ty) (x : Int) : Nat × Fl :=
  let r := intRange t
  if x < r.1 then (wrapInt (tyWidth t) r.1, flOF)
  else if r.2 < x then (wrapInt (tyWidth t) r.2, flOF)
  else (wrapInt (tyWidth t) x, 0#7)

def vaddOp (sat : Bool) (t : Ty) (a b : Nat) : Nat × Fl :=
  if sat then clampInt t (elemInt t a + elemInt t b) else (iAdd t a b, 0#7)
def vsubOp (sat : Bool) (t : Ty) (a b : Nat) : Nat × Fl :=
  if sat then clampInt t (elemInt t a - elemInt t b) else (iSub t a b, 0#7)
/-- `vabs`: |a| modulo 2^n, or the sign bit cleared (R130, R131). -/
def vabsOp (t : Ty) (a : Nat) : Nat :=
  if tyFloat t then a % 2 ^ (tyWidth t - 1) else wrapInt (tyWidth t) (elemInt t a).natAbs
/-- `vneg`: −a modulo 2^n, or the sign bit inverted. -/
def vnegOp (t : Ty) (a : Nat) : Nat :=
  if tyFloat t then a ^^^ 2 ^ (tyWidth t - 1) else wrapInt (tyWidth t) (-(elemInt t a))

/-- `vadd` (R130). -/
def execVadd (c : Ctl) (sat : Bool) (t : Ty) (d : VReg) (a b : VSrc) (s : State) : Host.Outcome State Fault Refusal :=
  laneBin c t d a b (vaddOp sat t) s

/-- `vsub` (R130). -/
def execVsub (c : Ctl) (sat : Bool) (t : Ty) (d : VReg) (a b : VSrc) (s : State) : Host.Outcome State Fault Refusal :=
  laneBin c t d a b (vsubOp sat t) s

/-- `vmul` (R130). -/
def execVmul (c : Ctl) (t : Ty) (d : VReg) (a b : VSrc) (s : State) : Host.Outcome State Fault Refusal :=
  laneInt c t d a b iMul s

/-- `vmulh` (R130). -/
def execVmulh (c : Ctl) (t : Ty) (d : VReg) (a b : VSrc) (s : State) : Host.Outcome State Fault Refusal :=
  laneInt c t d a b iMulh s

/-- `vmin` (R130). -/
def execVmin (c : Ctl) (t : Ty) (d : VReg) (a b : VSrc) (s : State) : Host.Outcome State Fault Refusal :=
  laneInt c t d a b iMin s

/-- `vmax` (R130). -/
def execVmax (c : Ctl) (t : Ty) (d : VReg) (a b : VSrc) (s : State) : Host.Outcome State Fault Refusal :=
  laneInt c t d a b iMax s

/-- `vabs` (R130, R131). -/
def execVabs (c : Ctl) (t : Ty) (d : VReg) (a : VSrc) (s : State) : Host.Outcome State Fault Refusal :=
  laneUn c t t d a (fun x => (vabsOp t x, 0#7)) s

/-- `vneg` (R130, R131). -/
def execVneg (c : Ctl) (t : Ty) (d : VReg) (a : VSrc) (s : State) : Host.Outcome State Fault Refusal :=
  laneUn c t t d a (fun x => (vnegOp t x, 0#7)) s

/-- `vand` (R130). -/
def execVand (c : Ctl) (t : Ty) (d : VReg) (a b : VSrc) (s : State) : Host.Outcome State Fault Refusal :=
  laneInt c t d a b iAnd s

/-- `vor` (R130). -/
def execVor (c : Ctl) (t : Ty) (d : VReg) (a b : VSrc) (s : State) : Host.Outcome State Fault Refusal :=
  laneInt c t d a b iOr s

/-- `vxor` (R130). -/
def execVxor (c : Ctl) (t : Ty) (d : VReg) (a b : VSrc) (s : State) : Host.Outcome State Fault Refusal :=
  laneInt c t d a b iXor s

/-- `vshl` (R130). -/
def execVshl (c : Ctl) (t : Ty) (d : VReg) (a b : VSrc) (s : State) : Host.Outcome State Fault Refusal :=
  laneInt c t d a b iShl s

/-- `vshr` (R130). -/
def execVshr (c : Ctl) (t : Ty) (d : VReg) (a b : VSrc) (s : State) : Host.Outcome State Fault Refusal :=
  laneInt c t d a b iShr s

/-- `vsar` (R130). -/
def execVsar (c : Ctl) (t : Ty) (d : VReg) (a b : VSrc) (s : State) : Host.Outcome State Fault Refusal :=
  laneInt c t d a b iSar s

/-- `vfadd` (R131). -/
def execVfadd (c : Ctl) (t : Ty) (d : VReg) (a b : VSrc) (s : State) : Host.Outcome State Fault Refusal :=
  laneBin c t d a b (fAdd (tyFmt t)) s

/-- `vfsub` (R131). -/
def execVfsub (c : Ctl) (t : Ty) (d : VReg) (a b : VSrc) (s : State) : Host.Outcome State Fault Refusal :=
  laneBin c t d a b (fSub (tyFmt t)) s

/-- `vfmul` (R131). -/
def execVfmul (c : Ctl) (t : Ty) (d : VReg) (a b : VSrc) (s : State) : Host.Outcome State Fault Refusal :=
  laneBin c t d a b (fMul (tyFmt t)) s

/-- Three lists combined. -/
def zip3 (f : Nat → Nat → Nat → Nat × Fl) : List Nat → List Nat → List Nat → List (Nat × Fl)
  | x :: xs, y :: ys, z :: zs => f x y z :: zip3 f xs ys zs
  | _, _, _ => []

/-- `vfma` (R131): the old destination lane is the addend. -/
def execVfma (c : Ctl) (t : Ty) (d : VReg) (a b : VSrc) (s : State) : Host.Outcome State Fault Refusal :=
  runLane c (((Uses.vr d).and (Uses.vsrc a)).and (Uses.vsrc b)) (fun g => do
    let x ← readLanes t a
    let y ← readLanes t b
    let z ← readLanes t (.reg d)
    writeLanesFl t d g (zip3 (fFma (tyFmt t)) z x y)
    return .seq) s

/-- `vfmin` (R131): no flag. -/
def execVfmin (c : Ctl) (t : Ty) (d : VReg) (a b : VSrc) (s : State) : Host.Outcome State Fault Refusal :=
  laneBin c t d a b (fun x y => (fMinMax false (tyFmt t) x y, 0#7)) s

/-- `vfmax` (R131): no flag. -/
def execVfmax (c : Ctl) (t : Ty) (d : VReg) (a b : VSrc) (s : State) : Host.Outcome State Fault Refusal :=
  laneBin c t d a b (fun x y => (fMinMax true (tyFmt t) x y, 0#7)) s

/-- `vrcp` (R132). -/
def execVrcp (c : Ctl) (t : Ty) (d : VReg) (a : VSrc) (s : State) : Host.Outcome State Fault Refusal :=
  laneUn c t t d a (fRcp (tyFmt t)) s

/-- `vrsq` (R132). -/
def execVrsq (c : Ctl) (t : Ty) (d : VReg) (a : VSrc) (s : State) : Host.Outcome State Fault Refusal :=
  laneUn c t t d a (fRsq (tyFmt t)) s

/-- `vexp2` (R132). -/
def execVexp2 (c : Ctl) (t : Ty) (d : VReg) (a : VSrc) (s : State) : Host.Outcome State Fault Refusal :=
  laneUn c t t d a (fExp2 (tyFmt t)) s

/-- `vlog2` (R132). -/
def execVlog2 (c : Ctl) (t : Ty) (d : VReg) (a : VSrc) (s : State) : Host.Outcome State Fault Refusal :=
  laneUn c t t d a (fLog2 (tyFmt t)) s

/-- `vcvt` (R133). -/
def execVcvt (c : Ctl) (dt st : Ty) (m : CvtMode) (d : VReg) (a : VSrc) (s : State) : Host.Outcome State Fault Refusal :=
  laneUn c dt st d a (convert dt st m) s

/-! ## Moves, selects and index vectors (R134) -/

/-- Lane by lane, from lane i on: the first list where the mask is set, else the second. -/
def pickLanes (m : W32) : Nat → List Nat → List Nat → List Nat
  | i, x :: xs, y :: ys => (if m.getLsbD i then x else y) :: pickLanes m (i + 1) xs ys
  | _, _, _ => []

/-- `vsel` (R134). -/
def execVsel (c : Ctl) (t : Ty) (k : BitVec 4) (d : VReg) (a b : VSrc) (s : State) : Host.Outcome State Fault Refusal :=
  runLane c (((Uses.vr d).and (Uses.vsrc a)).and (Uses.vsrc b)) (fun g => do
    let x ← readLanes t a
    let y ← readLanes t b
    writeLanes t d g (pickLanes ((← getMe).pred k.toNat) 0 x y)
    return .seq) s

/-- `vmov` (R134). -/
def execVmov (c : Ctl) (t : Ty) (d : VReg) (a : VSrc) (s : State) : Host.Outcome State Fault Refusal :=
  laneUn c t t d a (fun x => (x, 0#7)) s

/-- `vbcast`, scalar source (R134). -/
def execVbcast (c : Ctl) (t : Ty) (d : VReg) (a : Src) (s : State) : Host.Outcome State Fault Refusal :=
  laneUn c t t d (.sc a) (fun x => (x, 0#7)) s

/-- A lane number from an immediate, or from bits [4:0] of a register (R134, R136). -/
def laneNum (j : WI) : Act Nat := do return (← readWI j).toNat % 32

/-- `vbcast`, one lane (R134). -/
def execVbcastLane (c : Ctl) (t : Ty) (d : VReg) (a : VV) (j : WI) (s : State) : Host.Outcome State Fault Refusal :=
  runLane c (((Uses.vr d).and (Uses.vv a)).and (Uses.wi j)) (fun g => do
    let x ← readVV a
    let k ← laneNum j
    writeLanes t d g (List.replicate 32 ((x.getD k 0#32).toNat % 2 ^ tyWidth t))
    return .seq) s

/-- `vidx` (R134). -/
def execVidx (c : Ctl) (t : Ty) (d : VReg) (s : State) : Host.Outcome State Fault Refusal :=
  runLane c (Uses.vr d) (fun g => do
    writeLanes t d g (List.range 32)
    return .seq) s

/-- `vidx`, base and step (R134). -/
def execVidxStep (c : Ctl) (t : Ty) (d : VReg) (base step : Src) (s : State) : Host.Outcome State Fault Refusal :=
  runLane c (((Uses.vr d).and (Uses.src base)).and (Uses.src step)) (fun g => do
    let x ← readScLanes t base
    let y ← readScLanes t step
    writeLanes t d g ((List.range 32).map (fun i => (x.getD i 0 + i * y.getD i 0) % 2 ^ tyWidth t))
    return .seq) s

/-! ## The permute network (R135, R136) -/

/-- A lane word by number; 0 beyond lane 31. -/
def laneOr0 (x : Lanes) (k : Nat) : W32 := if k < 32 then x.getD k 0#32 else 0#32

/-- `vperm` (R135). -/
def execVperm (c : Ctl) (d : VReg) (a b : VV) (s : State) : Host.Outcome State Fault Refusal :=
  runLane c (((Uses.vr d).and (Uses.vv a)).and (Uses.vv b)) (fun g => do
    let x ← readVV a
    let y ← readVV b
    writeVReg d g (y.map (fun k => laneOr0 x (k.toNat % 256)))
    return .seq) s

/-- src(i) of R136; 32 stands for zero. -/
def shufSrc (pat : Shuf) (k i : Nat) : Nat :=
  match pat with
  | .rev => 31 - i
  | .rot _ => (i + k) % 32
  | .shd _ => if 32 ≤ i + k then 32 else i + k
  | .shu _ => if i < k then 32 else i - k
  | .xor _ => i ^^^ k
  | .unzip => 2 * i % 32 + (if 16 ≤ i then 1 else 0)
  | .zip => i / 2 + 16 * (i % 2)

/-- The k of a pattern. -/
def shufK : Shuf → Option WI
  | .rot k | .shd k | .shu k | .xor k => some k
  | .rev | .unzip | .zip => none

/-- `vshuf` (R136). -/
def execVshuf (c : Ctl) (pat : Shuf) (d : VReg) (a : VV) (s : State) : Host.Outcome State Fault Refusal :=
  runLane c (((Uses.vr d).and (Uses.vv a)).and (match shufK pat with | some k => Uses.wi k | none => Uses.none)) (fun g => do
    let x ← readVV a
    let k ← (match shufK pat with | some k => laneNum k | none => return 0)
    writeVReg d g ((List.range 32).map (fun i => laneOr0 x (shufSrc pat k i)))
    return .seq) s

/-! ## Reductions and scans (R137) -/

/-- The elements of a source, with the identity in suppressed lanes (R72). -/
def redElems (op : RedOp) (t : Ty) (g : W32) (x : Lanes) : List Nat :=
  pickLanes g 0 (x.map (fun w => w.toNat % 2 ^ tyWidth t)) (List.replicate 32 (redIdentity op t))

/-- `vred` (R137). -/
def execVred (c : Ctl) (op : RedOp) (t : Ty) (d : BitVec 5) (a : VV) (s : State) : Host.Outcome State Fault Refusal :=
  runLane c ((Uses.w d).and (Uses.vv a)) (fun g => do
    let x ← readVV a
    let r := redTree op t 5 (redElems op t g x)
    setWA d (result64 t (r.1.headD 0))
    raiseA r.2
    return .seq) s

/-- `vscan` (R137): a combination at a suppressed lane raises nothing (R64). (DEDUCED: assumption 25.) -/
def execVscan (c : Ctl) (op : RedOp) (t : Ty) (d : VReg) (a : VV) (s : State) : Host.Outcome State Fault Refusal :=
  runLane c ((Uses.vr d).and (Uses.vv a)) (fun g => do
    let x ← readVV a
    writeLanesFl t d g (scanAll op t [1, 2, 4, 8, 16] (redElems op t g x))
    return .seq) s

/-! ## Packing (R138, R139) -/

/-- Elements in a lane word. -/
def packF (t : Ty) : Nat := 32 / tyWidth t

/-- Lane i of a packed result: f elements of the group, lowest first. -/
def packLane (t : Ty) (src : List Lanes) (i : Nat) : W32 :=
  w32 ((List.range (packF t)).foldl (fun acc m =>
    let e := packF t * i + m
    acc + ((src.getD (e / 32) []).getD (e % 32) 0#32).toNat % 2 ^ tyWidth t * 2 ^ (tyWidth t * m)) 0)

/-- `vpack` (R138). -/
def execVpack (c : Ctl) (t : Ty) (d : VReg) (a : VReg) (s : State) : Host.Outcome State Fault Refusal :=
  runLane c (((Uses.ty t).and (Uses.vr d)).and (Uses.group a (packF t))) (fun g => do
    let src ← readGroup ((← getMe).vIdx a) (packF t)
    writeVReg d g ((List.range 32).map (packLane t src))
    return .seq) s

/-- Element e of a packed source, as the lane word that R139 writes, with its flag. -/
def unpackElem (t : Ty) (x : Lanes) (e : Nat) : W32 × Fl :=
  let raw := (x.getD (e / packF t) 0#32).toNat / 2 ^ (tyWidth t * (e % packF t)) % 2 ^ tyWidth t
  match t with
  | .int4s => (w32 (wrapInt 32 (int4sVal raw).1), if (int4sVal raw).2 then flRC else 0#7)
  | .int4x =>
    let byte := (x.getD (e / 8) 0#32).toNat / 2 ^ (8 * (e % 8 / 2)) % 256
    (w32 (roundVal fmtF32 (int4xVal byte (e % 2 == 1))).1, 0#7)
  | _ => (laneWord t raw, 0#7)

/-- The register with number j of an unpacked result. -/
def unpackReg (t : Ty) (x : Lanes) (j : Nat) : List (W32 × Fl) :=
  (List.range 32).map (fun i => unpackElem t x (32 * j + i))

/-- `vunpack` (R139). -/
def execVunpack (c : Ctl) (t : Ty) (d : VReg) (a : VV) (s : State) : Host.Outcome State Fault Refusal :=
  runLane c (((Uses.ty t).and (Uses.group d (packF t))).and (Uses.vv a)) (fun g => do
    let x ← readVV a
    let rs := (List.range (packF t)).map (unpackReg t x)
    writeGroup ((← getMe).vIdx d) g (rs.map (fun r => r.map (·.1)))
    raiseA (rs.foldl (fun f r => f ||| maskFlags g 0 (r.map (·.2))) 0#7)
    return .seq) s

/-! ## Gather and scatter in the register file (R140) -/

/-- Lane i of a gather: the word, with OOB where the index is outside the table. -/
def gatherLane (tab : List Lanes) (idx : Lanes) (i : Nat) : W32 × Fl :=
  let k := (idx.getD i 0#32).toNat
  if k < tab.length then ((tab.getD k []).getD i 0#32, 0#7) else (0#32, flOOB)

/-- `vgath` (R140): FN is L − 1. -/
def execVgath (c : Ctl) (l : BitVec 8) (d : VReg) (tab : VReg) (idx : VV) (s : State) : Host.Outcome State Fault Refusal :=
  runLane c (((Uses.vr d).and (Uses.group tab (l.toNat + 1))).and (Uses.vv idx)) (fun g => do
    let ts ← readGroup ((← getMe).vIdx tab) (l.toNat + 1)
    let x ← readVV idx
    let r := (List.range 32).map (gatherLane ts x)
    writeVReg d g (r.map (·.1))
    raiseA (maskFlags g 0 (r.map (·.2)))
    return .seq) s

/-- One register of a scatter's table: the executing lanes whose index names it. -/
def scatMask (g : W32) (idx : Lanes) (k : Nat) : W32 :=
  (List.range 32).foldl (fun m i =>
    if g.getLsbD i && (idx.getD i 0#32).toNat == k then m ||| (1#32 <<< i) else m) 0#32

/-- Every register of a scatter's table, written in the lanes that name it. -/
def scatter (base : Nat) (g : W32) (idx a : Lanes) : Nat → Act Unit
  | 0 => return ()
  | k + 1 => do
    scatter base g idx a k
    writeVNum (base + k) (scatMask g idx k) a

/-- `vscat` (R140). -/
def execVscat (c : Ctl) (l : BitVec 8) (tab : VReg) (idx : VV) (a : VSrc) (s : State) : Host.Outcome State Fault Refusal :=
  runLane c (((Uses.group tab (l.toNat + 1)).and (Uses.vv idx)).and (Uses.vsrc a)) (fun g => do
    let x ← readVV idx
    let y ← readLanes .b32 a
    scatter ((← getMe).vIdx tab) g x (y.map w32) (l.toNat + 1)
    raiseA (maskFlags g 0 (x.map (fun k => if k.toNat < l.toNat + 1 then 0#7 else flOOB)))
    return .seq) s

end Sys2Proof.Machine
end

