-- ==== Sys2Proof/Machine/Dispatch.lean ====
section
/-!
DEFINITION. One arm for each constructor of `Instr`, each a call of its meaning.
-/
namespace Sys2Proof.Machine

open Sys2Proof

/-- The effect of an instruction word for the thread `s.cur`, or of a step of the device. -/
def exec (i : Instr) (s : State) : Host.Outcome State Fault Refusal :=
  match i with
  | .nop c => Sys2Proof.Machine.execNop c s
  | .br c off => Sys2Proof.Machine.execBr c off s
  | .brLong c off => Sys2Proof.Machine.execBrLong c off s
  | .brx c a => Sys2Proof.Machine.execBrx c a s
  | .call c off => Sys2Proof.Machine.execCall c off s
  | .callLong c off => Sys2Proof.Machine.execCallLong c off s
  | .callx c a => Sys2Proof.Machine.execCallx c a s
  | .ret c a => Sys2Proof.Machine.execRet c a s
  | .loop c count off => Sys2Proof.Machine.execLoop c count off s
  | .done c => Sys2Proof.Machine.execDone c s
  | .doneJ c a => Sys2Proof.Machine.execDoneJ c a s
  | .yield c => Sys2Proof.Machine.execYield c s
  | .brk c code => Sys2Proof.Machine.execBrk c code s
  | .cmp c k t d a b => Sys2Proof.Machine.execCmp c k t d a b s
  | .cmpf c k t d a b => Sys2Proof.Machine.execCmpf c k t d a b s
  | .vcmp c k t d a b => Sys2Proof.Machine.execVcmp c k t d a b s
  | .vcmpf c k t d a b => Sys2Proof.Machine.execVcmpf c k t d a b s
  | .plog c tt d a b => Sys2Proof.Machine.execPlog c tt d a b s
  | .pmov c d a => Sys2Proof.Machine.execPmov c d a s
  | .pmovFromW c d a => Sys2Proof.Machine.execPmovFromW c d a s
  | .pmovToW c d a => Sys2Proof.Machine.execPmovToW c d a s
  | .pcnt c d a => Sys2Proof.Machine.execPcnt c d a s
  | .pfirst c d a => Sys2Proof.Machine.execPfirst c d a s
  | .pset c d m => Sys2Proof.Machine.execPset c d m s
  | .psetFirst c d n => Sys2Proof.Machine.execPsetFirst c d n s
  | .add c t d a b => Sys2Proof.Machine.execAdd c t d a b s
  | .sub c t d a b => Sys2Proof.Machine.execSub c t d a b s
  | .mul c t d a b => Sys2Proof.Machine.execMul c t d a b s
  | .mulh c t d a b => Sys2Proof.Machine.execMulh c t d a b s
  | .div c t d a b => Sys2Proof.Machine.execDiv c t d a b s
  | .rem c t d a b => Sys2Proof.Machine.execRem c t d a b s
  | .and c t d a b => Sys2Proof.Machine.execAnd c t d a b s
  | .or c t d a b => Sys2Proof.Machine.execOr c t d a b s
  | .xor c t d a b => Sys2Proof.Machine.execXor c t d a b s
  | .andn c t d a b => Sys2Proof.Machine.execAndn c t d a b s
  | .shl c t d a b => Sys2Proof.Machine.execShl c t d a b s
  | .shr c t d a b => Sys2Proof.Machine.execShr c t d a b s
  | .sar c t d a b => Sys2Proof.Machine.execSar c t d a b s
  | .rot c t d a b => Sys2Proof.Machine.execRot c t d a b s
  | .min c t d a b => Sys2Proof.Machine.execMin c t d a b s
  | .max c t d a b => Sys2Proof.Machine.execMax c t d a b s
  | .clz c t d a => Sys2Proof.Machine.execClz c t d a s
  | .popc c t d a => Sys2Proof.Machine.execPopc c t d a s
  | .sel c t k d a b => Sys2Proof.Machine.execSel c t k d a b s
  | .mov c t d a => Sys2Proof.Machine.execMov c t d a s
  | .movi c d v => Sys2Proof.Machine.execMovi c d v s
  | .moviH c d v => Sys2Proof.Machine.execMoviH c d v s
  | .lea c d off => Sys2Proof.Machine.execLea c d off s
  | .leaScaled c sh d a b => Sys2Proof.Machine.execLeaScaled c sh d a b s
  | .bext c t d a b => Sys2Proof.Machine.execBext c t d a b s
  | .bins c d a b => Sys2Proof.Machine.execBins c d a b s
  | .sext c t d a => Sys2Proof.Machine.execSext c t d a s
  | .zext c t d a => Sys2Proof.Machine.execZext c t d a s
  | .fadd c t d a b => Sys2Proof.Machine.execFadd c t d a b s
  | .fsub c t d a b => Sys2Proof.Machine.execFsub c t d a b s
  | .fmul c t d a b => Sys2Proof.Machine.execFmul c t d a b s
  | .ffma c t d a b => Sys2Proof.Machine.execFfma c t d a b s
  | .fcvt c dt st m d a => Sys2Proof.Machine.execFcvt c dt st m d a s
  | .vadd c sat t d a b => Sys2Proof.Machine.execVadd c sat t d a b s
  | .vsub c sat t d a b => Sys2Proof.Machine.execVsub c sat t d a b s
  | .vmul c t d a b => Sys2Proof.Machine.execVmul c t d a b s
  | .vmulh c t d a b => Sys2Proof.Machine.execVmulh c t d a b s
  | .vmin c t d a b => Sys2Proof.Machine.execVmin c t d a b s
  | .vmax c t d a b => Sys2Proof.Machine.execVmax c t d a b s
  | .vabs c t d a => Sys2Proof.Machine.execVabs c t d a s
  | .vneg c t d a => Sys2Proof.Machine.execVneg c t d a s
  | .vand c t d a b => Sys2Proof.Machine.execVand c t d a b s
  | .vor c t d a b => Sys2Proof.Machine.execVor c t d a b s
  | .vxor c t d a b => Sys2Proof.Machine.execVxor c t d a b s
  | .vshl c t d a b => Sys2Proof.Machine.execVshl c t d a b s
  | .vshr c t d a b => Sys2Proof.Machine.execVshr c t d a b s
  | .vsar c t d a b => Sys2Proof.Machine.execVsar c t d a b s
  | .vfadd c t d a b => Sys2Proof.Machine.execVfadd c t d a b s
  | .vfsub c t d a b => Sys2Proof.Machine.execVfsub c t d a b s
  | .vfmul c t d a b => Sys2Proof.Machine.execVfmul c t d a b s
  | .vfma c t d a b => Sys2Proof.Machine.execVfma c t d a b s
  | .vfmin c t d a b => Sys2Proof.Machine.execVfmin c t d a b s
  | .vfmax c t d a b => Sys2Proof.Machine.execVfmax c t d a b s
  | .vrcp c t d a => Sys2Proof.Machine.execVrcp c t d a s
  | .vrsq c t d a => Sys2Proof.Machine.execVrsq c t d a s
  | .vexp2 c t d a => Sys2Proof.Machine.execVexp2 c t d a s
  | .vlog2 c t d a => Sys2Proof.Machine.execVlog2 c t d a s
  | .vcvt c dt st m d a => Sys2Proof.Machine.execVcvt c dt st m d a s
  | .vsel c t k d a b => Sys2Proof.Machine.execVsel c t k d a b s
  | .vmov c t d a => Sys2Proof.Machine.execVmov c t d a s
  | .vbcast c t d a => Sys2Proof.Machine.execVbcast c t d a s
  | .vbcastLane c t d a j => Sys2Proof.Machine.execVbcastLane c t d a j s
  | .vidx c t d => Sys2Proof.Machine.execVidx c t d s
  | .vidxStep c t d base step => Sys2Proof.Machine.execVidxStep c t d base step s
  | .vperm c d a b => Sys2Proof.Machine.execVperm c d a b s
  | .vshuf c pat d a => Sys2Proof.Machine.execVshuf c pat d a s
  | .vred c op t d a => Sys2Proof.Machine.execVred c op t d a s
  | .vscan c op t d a => Sys2Proof.Machine.execVscan c op t d a s
  | .vpack c t d a => Sys2Proof.Machine.execVpack c t d a s
  | .vunpack c t d a => Sys2Proof.Machine.execVunpack c t d a s
  | .vgath c l d tab idx => Sys2Proof.Machine.execVgath c l d tab idx s
  | .vscat c l tab idx a => Sys2Proof.Machine.execVscat c l tab idx a s
  | .ldsp c o d base off => Sys2Proof.Machine.execLdsp c o d base off s
  | .stsp c o base off a => Sys2Proof.Machine.execStsp c o base off a s
  | .atsp c o op d base b => Sys2Proof.Machine.execAtsp c o op d base b s
  | .ldd c o d base off => Sys2Proof.Machine.execLdd c o d base off s
  | .std c o base off a => Sys2Proof.Machine.execStd c o base off a s
  | .atd c o op d base b => Sys2Proof.Machine.execAtd c o op d base b s
  | .rowadd c o t row a => Sys2Proof.Machine.execRowadd c o t row a s
  | .rowld c o t d row minv => Sys2Proof.Machine.execRowld c o t d row minv s
  | .ldh c o d base off => Sys2Proof.Machine.execLdh c o d base off s
  | .sth c o base off a => Sys2Proof.Machine.execSth c o base off a s
  | .ath c o op d base b => Sys2Proof.Machine.execAth c o op d base b s
  | .ldp c port o d base off => Sys2Proof.Machine.execLdp c port o d base off s
  | .stp c port o base off a => Sys2Proof.Machine.execStp c port o base off a s
  | .atp c port o op d base b => Sys2Proof.Machine.execAtp c port o op d base b s
  | .ldmb c d mb word => Sys2Proof.Machine.execLdmb c d mb word s
  | .ldmbOut c d mb word => Sys2Proof.Machine.execLdmbOut c d mb word s
  | .stmb c mb word a => Sys2Proof.Machine.execStmb c mb word a s
  | .ldcf c d num => Sys2Proof.Machine.execLdcf c d num s
  | .stcf c num a => Sys2Proof.Machine.execStcf c num a s
  | .fence c scope classes => Sys2Proof.Machine.execFence c scope classes s
  | .spawn c desc base len => Sys2Proof.Machine.execSpawn c desc base len s
  | .spawnRec c src => Sys2Proof.Machine.execSpawnRec c src s
  | .spawnr c desc origin shape => Sys2Proof.Machine.execSpawnr c desc origin shape s
  | .spawnd c desc map shape => Sys2Proof.Machine.execSpawnd c desc map shape s
  | .fork c entry => Sys2Proof.Machine.execFork c entry s
  | .forkAnchored c entry base len => Sys2Proof.Machine.execForkAnchored c entry base len s
  | .migrate c entry base len => Sys2Proof.Machine.execMigrate c entry base len s
  | .setdep c blk count => Sys2Proof.Machine.execSetdep c blk count s
  | .setdepHeld c blk count rec => Sys2Proof.Machine.execSetdepHeld c blk count rec s
  | .decr c blk => Sys2Proof.Machine.execDecr c blk s
  | .qcfgThresh c addr q v => Sys2Proof.Machine.execQcfgThresh c addr q v s
  | .qcfgTickets c addr q v => Sys2Proof.Machine.execQcfgTickets c addr q v s
  | .qcfgSpbase c addr q v => Sys2Proof.Machine.execQcfgSpbase c addr q v s
  | .qcfgSpsize c addr q v => Sys2Proof.Machine.execQcfgSpsize c addr q v s
  | .qstat c d addr q => Sys2Proof.Machine.execQstat c d addr q s
  | .steal c d addr q => Sys2Proof.Machine.execSteal c d addr q s
  | .stealAny c d addr q => Sys2Proof.Machine.execStealAny c d addr q s
  | .barArr c b => Sys2Proof.Machine.execBarArr c b s
  | .barWait c b => Sys2Proof.Machine.execBarWait c b s
  | .barSync c b => Sys2Proof.Machine.execBarSync c b s
  | .barcfg c b count barto => Sys2Proof.Machine.execBarcfg c b count barto s
  | .barrierTimeout t => Sys2Proof.Machine.execBarrierTimeout t s
  | .amsg c addr tag rtag => Sys2Proof.Machine.execAmsg c addr tag rtag s
  | .amsgRel c addr tag rtag => Sys2Proof.Machine.execAmsgRel c addr tag rtag s
  | .bind c addr tag entry => Sys2Proof.Machine.execBind c addr tag entry s
  | .unbind c addr tag => Sys2Proof.Machine.execUnbind c addr tag s
  | .openTx c port core chan => Sys2Proof.Machine.execOpenTx c port core chan s
  | .openRx c port chan => Sys2Proof.Machine.execOpenRx c port chan s
  | .close c port => Sys2Proof.Machine.execClose c port s
  | .spec c => Sys2Proof.Machine.execSpec c s
  | .commit c d => Sys2Proof.Machine.execCommit c d s
  | .abort c d => Sys2Proof.Machine.execAbort c d s
  | .slrd c j d sl p => Sys2Proof.Machine.execSlrd c j d sl p s
  | .slcas c j t d sl b => Sys2Proof.Machine.execSlcas c j t d sl b s
  | .sladd c j t d sl b => Sys2Proof.Machine.execSladd c j t d sl b s
  | .slswap c j t d sl b => Sys2Proof.Machine.execSlswap c j t d sl b s
  | .slboard c j d a p => Sys2Proof.Machine.execSlboard c j d a p s
  | .slalight c j d sl p => Sys2Proof.Machine.execSlalight c j d sl p s
  | .slwait c j t d sl b => Sys2Proof.Machine.execSlwait c j t d sl b s
  | .slwaitRev c d sl b => Sys2Proof.Machine.execSlwaitRev c d sl b s
  | .slinfoPool c d => Sys2Proof.Machine.execSlinfoPool c d s
  | .slinfoStn c d => Sys2Proof.Machine.execSlinfoStn c d s
  | .slinfoHdr c d sl => Sys2Proof.Machine.execSlinfoHdr c d sl s
  | .ldwC c f v => Sys2Proof.Machine.execLdwC c f v s
  | .ldwK c f v => Sys2Proof.Machine.execLdwK c f v s
  | .ldwg c f z => Sys2Proof.Machine.execLdwg c f z s
  | .ldws c v => Sys2Proof.Machine.execLdws c v s
  | .swpw c => Sys2Proof.Machine.execSwpw c s
  | .mma c f acc a m => Sys2Proof.Machine.execMma c f acc a m s
  | .mmaSc c f acc a m => Sys2Proof.Machine.execMmaSc c f acc a m s
  | .mmag c f acc z m => Sys2Proof.Machine.execMmag c f acc z m s
  | .accz c acc m => Sys2Proof.Machine.execAccz c acc m s
  | .accrd c t m d acc => Sys2Proof.Machine.execAccrd c t m d acc s
  | .accwr c t acc v => Sys2Proof.Machine.execAccwr c t acc v s
  | .mstat c d n => Sys2Proof.Machine.execMstat c d n s
  | .engineClaim core => Sys2Proof.Machine.execEngineClaim core s
  | .weightLoadComplete core => Sys2Proof.Machine.execWeightLoadComplete core s
  | .mmaRowEnter core => Sys2Proof.Machine.execMmaRowEnter core s
  | .mmaAccumulationComplete core => Sys2Proof.Machine.execMmaAccumulationComplete core s
  | .cpy c grp spc d a len => Sys2Proof.Machine.execCpy c grp spc d a len s
  | .cpyg c strict grp spc d desc => Sys2Proof.Machine.execCpyg c strict grp spc d desc s
  | .cpyx c keep grp d desc => Sys2Proof.Machine.execCpyx c keep grp d desc s
  | .cpys c grp spc d desc => Sys2Proof.Machine.execCpys c grp spc d desc s
  | .cbind c grp spc k_ a len => Sys2Proof.Machine.execCbind c grp spc k_ a len s
  | .cwait c grp n => Sys2Proof.Machine.execCwait c grp n s
  | .ccancel c grp => Sys2Proof.Machine.execCcancel c grp s
  | .cstat c grp d => Sys2Proof.Machine.execCstat c grp d s
  | .copyStart engine index => Sys2Proof.Machine.execCopyStart engine index s
  | .copyFinish engine index => Sys2Proof.Machine.execCopyFinish engine index s
  | .copySourceFault engine index => Sys2Proof.Machine.execCopySourceFault engine index s
  | .streamBytesArrive engine index => Sys2Proof.Machine.execStreamBytesArrive engine index s
  | .csrr c d num => Sys2Proof.Machine.execCsrr c d num s
  | .csrw c num a => Sys2Proof.Machine.execCsrw c num a s
  | .csrwSet c num a => Sys2Proof.Machine.execCsrwSet c num a s
  | .csrwClr c num a => Sys2Proof.Machine.execCsrwClr c num a s
  | .ecall c code => Sys2Proof.Machine.execEcall c code s
  | .eret c => Sys2Proof.Machine.execEret c s
  | .tlbinvPage c a => Sys2Proof.Machine.execTlbinvPage c a s
  | .tlbinvAll c => Sys2Proof.Machine.execTlbinvAll c s
  | .ckpt c d => Sys2Proof.Machine.execCkpt c d s
  | .budget t => Sys2Proof.Machine.execBudget t s
  | .replyLand t => Sys2Proof.Machine.execReplyLand t s
  | .tableWalkComplete t => Sys2Proof.Machine.execTableWalkComplete t s
  | .homeAccept src => Sys2Proof.Machine.execHomeAccept src s
  | .ckptcfgWrite p => Sys2Proof.Machine.execCkptcfgWrite p s
  | .dramBankSchedule home bank => Sys2Proof.Machine.execDramBankSchedule home bank s
  | .scrubVisit home => Sys2Proof.Machine.execScrubVisit home s
  | .recordArrival home loc => Sys2Proof.Machine.execRecordArrival home loc s
  | .recordResend core index => Sys2Proof.Machine.execRecordResend core index s
  | .queueDecide home p q => Sys2Proof.Machine.execQueueDecide home p q s
  | .queuePublication home => Sys2Proof.Machine.execQueuePublication home s
  | .stealDecision t => Sys2Proof.Machine.execStealDecision t s
  | .dispatch t => Sys2Proof.Machine.execDispatch t s
  | .cellarSlotDraw t => Sys2Proof.Machine.execCellarSlotDraw t s
  | .taskStart t => Sys2Proof.Machine.execTaskStart t s
  | .counterDecrement home loc => Sys2Proof.Machine.execCounterDecrement home loc s
  | .counterDeposit home loc => Sys2Proof.Machine.execCounterDeposit home loc s
  | .setdepArrival home loc => Sys2Proof.Machine.execSetdepArrival home loc s
  | .launchInstanceArrival core => Sys2Proof.Machine.execLaunchInstanceArrival core s
  | .runlistAdmit core => Sys2Proof.Machine.execRunlistAdmit core s
  | .amArrival home loc => Sys2Proof.Machine.execAmArrival home loc s
  | .bindArrival home loc => Sys2Proof.Machine.execBindArrival home loc s
  | .unbindArrival home loc => Sys2Proof.Machine.execUnbindArrival home loc s
  | .handlerStart t => Sys2Proof.Machine.execHandlerStart t s
  | .messageDelivery index => Sys2Proof.Machine.execMessageDelivery index s
  | .routeComplete index => Sys2Proof.Machine.execRouteComplete index s
  | .slotPassage k station => Sys2Proof.Machine.execSlotPassage k station s
  | .slboardPoolFull t => Sys2Proof.Machine.execSlboardPoolFull t s
  | .rollbackEnd p => Sys2Proof.Machine.execRollbackEnd p s
  | .unwindEnd p => Sys2Proof.Machine.execUnwindEnd p s
  | .preemptDrain p => Sys2Proof.Machine.execPreemptDrain p s
  | .preemptStopNow p => Sys2Proof.Machine.execPreemptStopNow p s
  | .preemptMigrate p => Sys2Proof.Machine.execPreemptMigrate p s
  | .preemptRestore p => Sys2Proof.Machine.execPreemptRestore p s
  | .preemptResume p => Sys2Proof.Machine.execPreemptResume p s
  | .drainDone p => Sys2Proof.Machine.execDrainDone p s
  | .contextSaveComplete t => Sys2Proof.Machine.execContextSaveComplete t s
  | .restorePlace p slot => Sys2Proof.Machine.execRestorePlace p slot s
  | .liveMigrationMove p => Sys2Proof.Machine.execLiveMigrationMove p s
  | .forwardMessage core index => Sys2Proof.Machine.execForwardMessage core index s
  | .mailboxTaskPlace p m => Sys2Proof.Machine.execMailboxTaskPlace p m s
  | .replayMessagePlace p => Sys2Proof.Machine.execReplayMessagePlace p s
  | .mailboxBind p => Sys2Proof.Machine.execMailboxBind p s
  | .spRegionWrite p => Sys2Proof.Machine.execSpRegionWrite p s
  | .ptrootWrite p => Sys2Proof.Machine.execPtrootWrite p s
  | .stageB failed => Sys2Proof.Machine.execStageB failed s
  | .stageC => Sys2Proof.Machine.execStageC s
  | .unitFailureReport p => Sys2Proof.Machine.execUnitFailureReport p s
  | .mailboxWordWrite p m j v => Sys2Proof.Machine.execMailboxWordWrite p m j v s
  | .mailboxMessageComplete p m v => Sys2Proof.Machine.execMailboxMessageComplete p m v s
  | .mbstatWrite p m v => Sys2Proof.Machine.execMbstatWrite p m v s
  | .hostDmWrite off bs => Sys2Proof.Machine.execHostDmWrite off bs s
  | .hostDmRead x => Sys2Proof.Machine.execHostDmRead x s
  | .atsInvalidation p page => Sys2Proof.Machine.execAtsInvalidation p page s
  | .remoteEnqueueIndex p port va ix => Sys2Proof.Machine.execRemoteEnqueueIndex p port va ix s
  | .remoteRecordPull p port recd => Sys2Proof.Machine.execRemoteRecordPull p port recd s
  | .peerFlitFailure index => Sys2Proof.Machine.execPeerFlitFailure index s
  | .attest ws => Sys2Proof.Machine.execAttest ws s
  | .fwupdate ws => Sys2Proof.Machine.execFwupdate ws s
  | .zero ws => Sys2Proof.Machine.execZero ws s
  | .status ws => Sys2Proof.Machine.execStatus ws s
  | .create ws => Sys2Proof.Machine.execCreate ws s
  | .destroy ws => Sys2Proof.Machine.execDestroy ws s
  | .grant ws => Sys2Proof.Machine.execGrant ws s
  | .keyshare ws => Sys2Proof.Machine.execKeyshare ws s
  | .peerbind ws => Sys2Proof.Machine.execPeerbind ws s
  | .preempt ws => Sys2Proof.Machine.execPreempt ws s
  | .powercap ws => Sys2Proof.Machine.execPowercap ws s
  | .frames ws => Sys2Proof.Machine.execFrames ws s
  | .tune ws => Sys2Proof.Machine.execTune ws s
  | .replay ws => Sys2Proof.Machine.execReplay ws s
  | .reset firmwareGood => Sys2Proof.Machine.execReset firmwareGood s
  | .powerOverCap => Sys2Proof.Machine.execPowerOverCap s
  | .thermalTrip => Sys2Proof.Machine.execThermalTrip s
  | .peerUnwindToken port => Sys2Proof.Machine.execPeerUnwindToken port s
  | .peerMemoryRequest p port r => Sys2Proof.Machine.execPeerMemoryRequest p port r s
  | .atsTranslationComplete t ok hpage => Sys2Proof.Machine.execAtsTranslationComplete t ok hpage s
  | .powerBelowCap => Sys2Proof.Machine.execPowerBelowCap s

end Sys2Proof.Machine
end

