-- ==== Sys2Proof/Machine/Issue.lean ====
section
/-!
DEFINITION. The issue of one instruction by one thread: what the boundary before it holds (asynchronous traps and
BUDGET: R208, R329, R331), its fetch (R29, R30, R157, R158), the checks of R46 on its word, and its execution.
-/
namespace Sys2Proof.Machine

open Sys2Proof

/-! ## The fetch -/

/-- What a fetch comes to. -/
inductive Fetched where
  | word (w : BitVec 96)
  /-- One of the two parts of a word, the second or the first, which is read by itself (R30). -/
  | half (second : Bool) (bs : List Byte)
  /-- A table walk is needed first (R157). -/
  | walk (page : Nat)
  /-- A precise fault, at the first faulting byte address. -/
  | fault (code : Nat) (va : W64)
  /-- The word lies on a poisoned line (R182). -/
  | poison (va : W64)
  deriving DecidableEq, Repr

/-- What a fetch of some bytes comes to. -/
inductive FetchedPart where
  | bytes (bs : List Byte)
  | stop (f : Fetched)
  deriving DecidableEq, Repr

/-- The bit of a page table entry that allows instruction fetch (R152). -/
def pteX (pte : W64) : Bool := bitOf pte 59

/-- A translated part of a word: X, the home's check of the frame, and the bytes. -/
def fetchAt (s : State) (p va n : Nat) (pte : W64) : FetchedPart :=
  let l := pteLoc pte va
  if l.attr = 2#2 ∧ sparseLimit < l.off + n then .stop (.fault causePageFaultDm (w64 (va + (sparseLimit - l.off))))
  else if !pteX pte || !frameOk s p l then .stop (.fault causeAccess (w64 va))
  else if locBad s (.dm l) n then .stop (.poison (w64 va))
  else .bytes (readLoc s p (.dm l) n)

/-- n bytes of a word, which lie in one home unit. (DEDUCED: assumption 9.) -/
def fetchPart (s : State) (t va n : Nat) : FetchedPart :=
  let th := s.thr t
  if 2 ^ 48 ≤ va then .stop (.fault causePageFaultDm (w64 va))
  else match heldPte s (coreBufs (coreOf t)) th.part (va / 2 ^ 21) with
    | some pte => fetchAt s th.part va n pte
    | none =>
      if th.wait = .walkFault (va / 2 ^ 21) then .stop (.fault causePageFaultDm (w64 va))
      else if th.wait = .walkPoison (va / 2 ^ 21) then .stop (.poison (w64 va))
      else .stop (.walk (va / 2 ^ 21))

/-- The home unit of an address (R154): a granule of a STRIPED page, any other page whole. -/
def unitSize (s : State) (t va : Nat) : Nat :=
  match heldPte s (coreBufs (coreOf t)) (s.thr t).part (va / 2 ^ 21) with
  | some pte => if (pteLoc pte va).attr = 0#2 then 4096 else 2 ^ 21
  | none => 2 ^ 21

/-- How many bytes of the word at an address lie in the home unit of its first byte. -/
def firstPart (s : State) (t ip : Nat) : Nat := min 12 (unitSize s t ip - ip % unitSize s t ip)

/-- What one step of the fetch at a thread's IP comes to (R30): a word in one home unit is read whole; of a word in two,
each part is read by itself, in an order that a free value chooses. Both parts are checked before either is read, the
first of them first, so that TVAL names the first byte that faults (R29). (DEDUCED: assumption 8.) -/
def fetchWord (s : State) (t : Nat) : Fetched :=
  let ip := (s.thr t).ip.toNat
  match (s.thr t).half with
  | some (false, a) => (match fetchPart s t (ip + a.length) (12 - a.length) with
    | .stop f => f
    | .bytes b => .word (wordOfBytes (a ++ b)))
  | some (true, b) => (match fetchPart s t ip (12 - b.length) with
    | .stop f => f
    | .bytes a => .word (wordOfBytes (a ++ b)))
  | none =>
    let n := firstPart s t ip
    match fetchPart s t ip n with
    | .stop f => f
    | .bytes a =>
      if n = 12 then .word (wordOfBytes a)
      else match fetchPart s t (ip + n) (12 - n) with
        | .stop f => f
        | .bytes b => if bitOf (Config.freeWord (drawNat s).1) 0 then .half true b else .half false a

/-! ## Execution -/

/-- A fetched word: checks 2 to 6 of R46, and the instruction. (DEDUCED: assumption 11.) -/
def runFetched (t : Nat) (w : BitVec 96) (s : State) : Host.Outcome State Fault Refusal :=
  let th := s.thr t
  match decodeWord (s.prt th.part).accept w with
  | .ok i => exec i s
  | .error e => .next (takeTrap s t false causeIllegal (e.tval (Raw.unpack w)) (guardOf th (Raw.unpack w).ctl) th.ip)

/-- Whether an instance of a launch by the thread has been refused and not yet accepted: the launching thread stalls
(R201). (DEDUCED: assumption 22.) -/
def launchStalls (s : State) (t : Nat) : Bool :=
  let th := s.thr t
  s.cores.any (fun c => c.2.launchWait.any (fun i => i.part == th.part && i.srcTask == th.task))

/-- Whether a thread issues at all: it holds a task that is not being stopped. One whose wait is over completes its
instruction first (R344). -/
def mayIssue (s : State) (t : Nat) : Bool :=
  let th := s.thr t
  th.active && (th.stop == 0 || (th.stop == 1 && th.wait.landed)) && !launchStalls s t

/-- The fetch of the next instruction, and its execution. (DEDUCED: assumption 8.) -/
def fetchAndRun (t : Nat) (s : State) : Host.Outcome State Fault Refusal :=
  match (s.thr t).word with
  | some w => runFetched t w s
  | none =>
    match fetchWord s t with
    | .word w => runFetched t w (s.modThr t (fun x => { x with wait := .none, word := some w, half := none }))
    | .half second bs => .next ((drawNat s).2.modThr t (fun x => { x with wait := .none, half := some (second, bs) }))
    | .walk page => .next (s.modThr t (fun x => { x with wait := .walk page }))
    | .fault code va => .next (takeTrapBetween s t false code va (s.thr t).ip)
    | .poison va => .next (takeTrapBetween s t true causeMemPoison va (s.thr t).ip)

/-- What an issue by one thread does: a pending asynchronous trap is taken at the boundary, then a BUDGET that is due, then the next
instruction is fetched and executes. An instruction whose wait is over retires before the boundary. -/
def issueOnce (t : Nat) (s0 : State) : Host.Outcome State Fault Refusal :=
  let s := { s0 with cur := t }
  let th := s.thr t
  if !mayIssue s t then .next s
  else if th.wait.landed then fetchAndRun t s
  else match th.async with
    | (code, tval) :: rest =>
      .next (takeTrapBetween (s.modThr t (fun x => { x with async := rest })) t true code tval th.ip)
    | [] => if budgetDue th then exec (.budget t) s else fetchAndRun t s

/-! ## The turn of the other slots after a `yield` (R112) -/

/-- Whether a thread has issued between two states: an instruction has retired, or a trap has been taken. -/
def hasIssued (a b : Thread) : Bool :=
  b.retired != a.retired || b.ip != a.ip || b.tm != a.tm || b.active != a.active || b.stop != a.stop

/-- Whether an outcome is that a thread has issued since a state. -/
def issuedBy (s : State) (t : Nat) : Host.Outcome State Fault Refusal → Bool
  | .next s' => hasIssued (s.thr t) (s'.thr t)
  | _ => false

/-- Whether a thread is ready: its next instruction would issue, and not merely begin to wait. Its fetch may still have a
second part to read (R30). -/
def ready (s : State) (t : Nat) : Bool :=
  match issueOnce t s with
  | .next s' => hasIssued (s.thr t) (s'.thr t) || ((s'.thr t).half != (s.thr t).half && issuedBy s t (issueOnce t s'))
  | _ => false

/-- The instruction that a thread issues next. -/
def nextInstr (s : State) (t : Nat) : Option Instr :=
  let w : Option (BitVec 96) := match (s.thr t).word with
    | some w => some w
    | none => match fetchWord s t with
      | .word w => some w
      | _ => none
  match w with
  | some w => (decodeWord (s.prt (s.thr t).part).accept w).toOption
  | none => none

/-- Whether an issue from state s0 to state s1 was that of a `yield` which its guard lets act. -/
def yielded (s0 s1 : State) (t : Nat) : Bool :=
  (s1.thr t).retired == (s0.thr t).retired + 1 &&
  (match nextInstr s0 t with
   | some (.yield c) => (guardOf (s0.thr t) c).getLsbD 0
   | _ => false)

/-- The other slots of a thread's core that are ready, each with its task. -/
def readySlots (s : State) (t : Nat) : List (Nat × W64) :=
  ((s.coreThreads (coreOf t)).filter (fun u => u != t && ready s u)).map (fun u => (slotOf u, (s.thr u).task))

/-- A slot that has issued is waited for no longer. -/
def yieldPast (k : Nat) (t : Thread) : Thread := { t with yieldAt := t.yieldAt.filter (fun x => x.1 != k) }

/-- Thread t has had its turn: the threads of its core that have yielded to it wait for it no longer. -/
def turnTakenBy (s : State) (t : Nat) : State :=
  ((s.coreThreads (coreOf t)).filter (fun u => u != t && !(s.thr u).yieldAt.isEmpty)).foldl
    (fun s u => s.modThr u (yieldPast (slotOf t))) s

/-- What an issue leaves: the slots that go first after a `yield`, and no turn that is still awaited of this one. -/
def afterIssue (s0 : State) (t : Nat) : Host.Outcome State Fault Refusal → Host.Outcome State Fault Refusal
  | .next s1 =>
    let s2 := if yielded s0 s1 t then s1.modThr t (fun x => { x with yieldAt := readySlots s1 t }) else s1
    .next (if hasIssued (s0.thr t) (s1.thr t) then turnTakenBy s2 t else s2)
  | r => r

/-- Whether a slot that was ready at a thread's `yield` has still to issue: one that has come to be blocked is waited for,
one that is being saved, moved or unwound, or whose task has gone, is not. (DEDUCED: assumption 33.) -/
def yieldHolds (s : State) (t : Nat) : Bool :=
  (s.thr t).yieldAt.any (fun x =>
    let u := s.thr (coreOf t * 16 + x.1)
    u.active && u.task == x.2 && u.stop == 0)

/-- One thread issues. -/
def issueThread (t : Nat) (s : State) : Host.Outcome State Fault Refusal :=
  if yieldHolds s t then .next { s with cur := t } else afterIssue s t (issueOnce t s)

/-! ## A word placed for the next step -/

/-- A page table entry of a LOCAL page in frame 0 of channel 0 of die 0, readable, writable and executable. -/
def tablePte : W64 := 0xB800000000000000#64

/-- A state in which thread 0 is about to issue the word `w`: a task of partition 0 on press core 0, its code at
address 0 of a page of its own. It stands for the start of a program that a host has loaded. (DEDUCED: assumption 2.) -/
def tableState (s : State) (w : Nat) : State :=
  let pt := { s.prt 0 with present := true, accept := acceptAll, containing := .none, discard := false }
  let s1 := (s.setPart 0 pt).setThr 0 { Thread.free with active := true, gran := 2 }
  let s2 := s1.modHome 1024 (fun h => { h with ecc := SMap.set 0 h.ecc 0 0, poisoned := h.poisoned.filter (· != 0) })
  { s2 with
    stage := 3
    tlbs := SMap.set [] s2.tlbs 0 (⟨0, 0, tablePte⟩ :: SMap.get [] s2.tlbs 0)
    chanOwner := SMap.set Owner.nobody s2.chanOwner 0 (.part 0)
    mem := s2.mem.writeN 0 (leBytes 12 w)
    cores := s2.cores.map (fun c => (c.1, { c.2 with launchWait := c.2.launchWait.filter (fun i => i.part != 0) }))
    agenda := .issue 0 :: s2.agenda }

end Sys2Proof.Machine
end

