-- ==== Sys2Proof/Machine/Auto.lean ====
section
/-!
DEFINITION. The order in which the machine takes its turns when the agenda is empty. spec/ gives no times, and any
order of the steps that are possible is one of the device's; this is one such order. Steps of the device that need
nobody's decision go first. Threads, dispatch, publications and the ring then take turns in a rotating order. Time
passes, for a watchdog, when nothing else can happen. What comes from outside the package (host accesses,
management commands, a peer's requests, failures) is never chosen here: it comes through the agenda.
-/
namespace Sys2Proof.Machine

open Sys2Proof

/-- What a step of the device changes; `none` where it is not possible. -/
def changeOf (s : State) (i : Instr) : Option State :=
  match exec i s with
  | .next s' => if s' = s then none else some s'
  | _ => none

/-- What an issue changes. -/
def issueChange (s : State) (t : Nat) : Option State :=
  match issueThread t s with
  | .next s' => if { s' with cur := s.cur } = s then none else some s'
  | _ => none

/-- The first possible step of a list. -/
def firstChange (s : State) : List Instr → Option State
  | [] => none
  | i :: is =>
    match changeOf s i with
    | some s' => some s'
    | none => firstChange s is

/-! ## Steps that go first -/

/-- What may happen at the request ports of an endpoint. -/
def inboxSteps (e : Nat) : List Instr :=
  [.homeAccept (.router e), .homeAccept (.localPort e), .launchInstanceArrival e] ++
  (if isCellar e && decide (e < 1280) then
    [false, true].flatMap (fun l => [.recordArrival (e - 1024) l, .counterDecrement (e - 1024) l,
      .counterDeposit (e - 1024) l, .setdepArrival (e - 1024) l, .amArrival (e - 1024) l,
      .bindArrival (e - 1024) l, .unbindArrival (e - 1024) l])
   else [])

/-- What may happen to a partition. -/
def partSteps (p : Nat) : List Instr :=
  [.mailboxBind p, .ptrootWrite p, .spRegionWrite p, .ckptcfgWrite p, .preemptDrain p, .preemptStopNow p,
   .preemptMigrate p, .preemptRestore p, .preemptResume p, .drainDone p, .liveMigrationMove p, .rollbackEnd p,
   .unwindEnd p, .replayMessagePlace p] ++
  (List.range 4).map (fun m => .mailboxTaskPlace p m) ++ (List.range 16).map (fun k => .restorePlace p k)

/-- What may happen to an engine's copies. A fault is a step only where the copy cannot go on. -/
def copySteps (s : State) (e : Nat) : List Instr :=
  (List.range (s.engine e).length).flatMap (fun i =>
    [.copyStart e i, .streamBytesArrive e i] ++
    (match (s.engine e)[i]? with
     | some c => (match copyNext s e c with
       | .fault _ => [.copySourceFault e i]
       | _ => [.homeAccept (.copy e i)])
     | none => []) ++ [.copyFinish e i])

/-- What may happen in a core. -/
def coreSteps (s : State) (c : Nat) : List Instr :=
  let x := s.core c
  [.engineClaim c, .weightLoadComplete c, .mmaRowEnter c, .mmaAccumulationComplete c, .runlistAdmit c] ++
  (List.range x.fwdIn.length).map (fun i => .forwardMessage c i) ++
  x.starting.map (fun y => .taskStart (c * 16 + y.1)) ++ x.granted.map (fun y => .taskStart (c * 16 + y.1))

/-- What may happen in a thread. -/
def threadSteps (t : Nat) : List Instr := [.replyLand t, .tableWalkComplete t, .contextSaveComplete t]

/-- What may happen at a home beside its request ports. -/
def homeSteps (s : State) (e : Nat) : List Instr :=
  let h := s.home e
  (if h.amq.isEmpty then [] else (List.range 8).map (fun k => .handlerStart (e * 16 + k))) ++
  h.queues.filterMap (fun q =>
    if q.2.takes.isEmpty && q.2.steals.isEmpty then none else some (.queueDecide (e - 1024) (q.1 / 16) (q.1 % 16))) ++
  h.dram.map (fun r => .dramBankSchedule (e - 1024) r.bank)

/-- The steps that go first. -/
def promptSteps (s : State) : List Instr :=
  [.stageC, .stageB []] ++
  (List.range s.net.length).map (fun i => .messageDelivery i) ++
  s.activeThreads.flatMap threadSteps ++
  s.homes.flatMap (fun h => inboxSteps h.1) ++
  s.copies.flatMap (fun e => copySteps s e.1) ++
  s.cores.flatMap (fun c => coreSteps s c.1) ++
  (List.range s.routes.length).map (fun i => .routeComplete i) ++
  s.homes.flatMap (fun h => homeSteps s h.1) ++
  s.partitions.flatMap partSteps

/-! ## Steps that take turns -/

/-- The slots of a core that may choose: there is a record to draw, a queue to ask, or a decision to end. -/
def dispatchTurns (s : State) (c : Nat) : List (Nat × Turn) :=
  (List.range 16).flatMap (fun k =>
    let t := c * 16 + k
    match mayChoose s t with
    | some p =>
      if (s.core c).runCount ≠ 0 ∨ (nextCand s c p ((s.core c).decision k)).isSome = true ∨
          (s.core c).decision k ≠ Decision.init then
        [(100000 + t, .event (.dispatch t)), (120000 + t, .event (.stealDecision t))]
      else []
    | none => [])

/-- Near slots, publications and patrols. -/
def homeTurns (e : Nat) : List (Nat × Turn) :=
  (List.range 6).map (fun k => (140000 + e * 16 + k, .event (.cellarSlotDraw (e * 16 + k)))) ++
  [(170000 + e, .event (.queuePublication (e - 1024))), (180000 + e, .event (.scrubVisit (e - 1024)))]

/-- The time of the next passage that matters. -/
def nextRingTime (s : State) : Option Nat :=
  (slTimes s).foldl (fun a t => match a with | none => some t | some b => some (min b t)) none

/-- The passages that matter at a time: those where a waiting thread meets a slot, an unwind its slot, and an error a
station. -/
def ringTurns (s : State) : List (Nat × Turn) :=
  match nextRingTime s with
  | none => []
  | some time =>
    let here (k : Nat) : Nat × Turn := (200000 + k, .event (.slotPassage k ((k + time) % ringSize)))
    let meets (t : Nat) : List Nat :=
      let pt := s.prt (s.thr t).part
      match (s.thr t).wait with
      | .slot r => (if slIsBoard r.kind then (List.range pt.poolSize).map (poolSlot pt) else [poolSlot pt r.slot]).filter
          (fun k => decide (passTime s k (ringPos (coreOf t)) = time))
      | _ => []
    s.activeThreads.flatMap (fun t => (meets t).map here) ++
    (s.partitions.filter (fun p => (s.prt p).containing != .none)).map (fun p => here (poolSlot (s.prt p) (s.prt p).unwslot)) ++
    (s.slots.filter (fun x => decide (x.2.err ≠ 0))).map (fun x => here x.1) ++
    s.activeThreads.map (fun t => (210000 + t, .event (.slboardPoolFull t)))

/-- Everything that takes turns, by a number that orders it. -/
def turns (s : State) : List (Nat × Turn) :=
  s.activeThreads.map (fun t => (t, .issue t)) ++
  (s.partitions.flatMap (fun p => (List.range 1024).filter (fun c => (s.prt p).hasCore c))).flatMap (dispatchTurns s) ++
  (s.homes.filter (fun h => isCellar h.1 && decide (h.1 < 1280))).flatMap (fun h => homeTurns h.1) ++
  s.cores.flatMap (fun c => (List.range c.2.resend.length).map (fun i => (190000 + c.1, Turn.event (.recordResend c.1 i)))) ++
  ringTurns s

/-- The first turn of a list that changes anything. -/
def firstTurn (s : State) : List (Nat × Turn) → Option (Nat × State)
  | [] => none
  | (k, .issue t) :: l =>
    match issueChange s t with
    | some s' => some (k, s')
    | none => firstTurn s l
  | (k, .event i) :: l =>
    match changeOf s i with
    | some s' => some (k, s')
    | none => firstTurn s l
  | _ :: l => firstTurn s l

/-- The next turn in rotating order: from `lastIssued` upwards, then from the beginning. -/
def nextTurn (s : State) : Option (Nat × State) :=
  let l := turns s
  firstTurn s (l.filter (fun x => decide (s.lastIssued ≤ x.1)) ++ l.filter (fun x => decide (x.1 < s.lastIssued)))

/-- What the machine does of itself. With nothing to do it stands still. (DESIGN CHOICE: assumption 1.) -/
def auto (s : State) : State :=
  match firstChange s (promptSteps s) with
  | some s' => s'
  | none =>
    match nextTurn s with
    | some (k, s') => { s' with lastIssued := k + 1 }
    | none => (firstChange s (s.activeThreads.map (fun t => .barrierTimeout t))).getD s

end Sys2Proof.Machine
end

