-- ==== Sys2Proof/Machine/Step.lean ====
section
/-!
DEFINITION. One step of the machine: the next turn of the agenda, or one that the machine chooses for itself; and
the state in which the next step runs one given word.
-/
namespace Sys2Proof.Machine

open Sys2Proof

/-- One step. An instruction word is no turn: words execute when a thread issues them. -/
def step (s : State) : Host.Outcome State Fault Refusal :=
  match s.agenda with
  | [] => .next (auto s)
  | .issue t :: rest => issueThread t { s with agenda := rest }
  | .event i :: rest =>
    if (encode i).isNone then exec i { s with agenda := rest } else .next { s with agenda := rest }
  | .hostRead bar off size :: rest => hostRead bar off size { s with agenda := rest }
  | .hostWrite r bar off bs :: rest => hostWrite r bar off bs { s with agenda := rest }
  | .hostReadFailure :: rest => .next { s with agenda := rest, hostReadFails := true }

/-- The state in which the next step fetches and runs an instruction on thread 0: `tableState` of Machine/Issue.lean. -/
def State.withFetchWord (s : State) (_nbits w : Nat) : State := tableState s w

end Sys2Proof.Machine
end

