-- ==== Sys2Proof/WellFormed.lean ====
section
/-!
DEFINITION. Which terms of `Instr` an encoding exists for: the type lists and the limits of the encoding tables
(R108 to R334), constructor by constructor. A step of the device has no encoding, and every such term is well
formed.
-/
namespace Sys2Proof

def immIn (lo hi : Int) (v : BitVec 15) : Bool := decide (lo ≤ v.toInt) && decide (v.toInt ≤ hi)
def wiIn (lo hi : Int) : WI → Bool
  | .w _ => true
  | .imm v => immIn lo hi v
/-- R114, R313: pt = pf only when both are p0. -/
def pairOk (p : Pair) : Bool := p.pt != p.pf || p.pf == 0#4
def shufOk : Shuf → Bool
  | .rot k | .shd k | .shu k | .xor k => wiIn 0 31 k
  | .rev | .unzip | .zip => true
def ldOk : LdDst → Bool
  | .w t _ => tySize t
  | .v _ => true
def stOk : StSrc → Bool
  | .s t _ => tySize t
  | .v _ => true
/-- R146: a load takes none or `.acq`. -/
def loadOrd (o : Ord) : Bool := o.rel == none && !o.row
/-- R146: a store takes none or `.rel`. -/
def storeOrd (o : Ord) : Bool := o.acq == none && !o.row
/-- R146: an atomic takes none, one, or both at one scope. -/
def atomOrd (o : Ord) : Bool := !o.row && (o.acq == none || o.rel == none || o.acq == o.rel)
/-- R162. -/
def rowaddOrd (o : Ord) : Bool := if o.row then o.acq == none && o.rel == none else o.acq == none
def rowldOrd (o : Ord) : Bool := if o.row then o.acq == none && o.rel == none else o.rel == none
def slotOk : SlotOp → Bool
  | .sl k => decide (k.toNat < 1280)
  | .w _ => true
/-- R314: J is 0 with `.v`. -/
def slLdOk (j : BitVec 3) : LdDst → Bool
  | .w t _ => tyW64 t
  | .v _ => j == 0#3
def slStOk (j : BitVec 3) : SlSrc → Bool
  | .s t _ => tyW64 t
  | .v _ => j == 0#3
def genOk (ones : Int) : GenMat → Bool
  | .shift s => wiIn 0 511 s
  | .ones s => wiIn 0 ones s
  | .ident | .perm _ => true

/-- Whether an encoding exists for the operands of an instruction. -/
def Instr.wellFormed : Instr → Bool
  | .nop _ => true
  | .br _ _ => true
  | .brLong _ _ => true
  | .brx _ _ => true
  | .call _ _ => true
  | .callLong _ _ => true
  | .callx _ _ => true
  | .ret _ _ => true
  | .loop _ n off => wiIn 0 16383 n && immIn 3 16383 off
  | .done _ => true
  | .doneJ _ _ => true
  | .yield _ => true
  | .brk _ v => immIn 0 16383 v
  | .cmp _ k t d _ _ => iCondTy k t && pairOk d
  | .cmpf _ _ t d _ _ => tyF3 t && pairOk d
  | .vcmp _ k t d _ _ => iCondTy k t && tyInt t && pairOk d
  | .vcmpf _ _ t d _ _ => tyF2 t && pairOk d
  | .plog _ _ _ _ _ => true
  | .pmov _ _ _ => true
  | .pmovFromW _ _ _ => true
  | .pmovToW _ _ _ => true
  | .pcnt _ _ _ => true
  | .pfirst _ _ _ => true
  | .pset _ _ _ => true
  | .psetFirst _ _ n => wiIn 0 32 n
  | .add _ t _ _ _ => tyIB t
  | .sub _ t _ _ _ => tyIB t
  | .mul _ t _ _ _ => tyIB t
  | .mulh _ t _ _ _ => tyIB t
  | .div _ t _ _ _ => tyIB t
  | .rem _ t _ _ _ => tyIB t
  | .and _ t _ _ _ => tyB t
  | .or _ t _ _ _ => tyB t
  | .xor _ t _ _ _ => tyB t
  | .andn _ t _ _ _ => tyB t
  | .shl _ t _ _ _ => tyIB t
  | .shr _ t _ _ _ => tyB t
  | .sar _ t _ _ _ => tyI t
  | .rot _ t _ _ _ => tyB t
  | .min _ t _ _ _ => tyIB t
  | .max _ t _ _ _ => tyIB t
  | .clz _ t _ _ => tyB t
  | .popc _ t _ _ => tyB t
  | .sel _ t _ _ _ _ => tyIB t
  | .mov _ t _ _ => tyIB t
  | .movi _ _ _ => true
  | .moviH _ _ _ => true
  | .lea _ _ _ => true
  | .leaScaled _ _ _ _ _ => true
  | .bext _ t _ _ _ => tyW64 t
  | .bins _ _ _ _ => true
  | .sext _ t _ _ => tyI3 t
  | .zext _ t _ _ => tyB3 t
  | .fadd _ t _ _ _ => tyF3 t
  | .fsub _ t _ _ _ => tyF3 t
  | .fmul _ t _ _ _ => tyF3 t
  | .ffma _ t _ _ _ => tyF3 t
  | .fcvt _ dt st _ _ _ => tyCvt dt && tyCvt st
  | .vadd _ _ t _ _ _ => tyInt t
  | .vsub _ _ t _ _ _ => tyInt t
  | .vmul _ t _ _ _ => tyInt t
  | .vmulh _ t _ _ _ => tyInt t
  | .vmin _ t _ _ _ => tyInt t
  | .vmax _ t _ _ _ => tyInt t
  | .vabs _ t _ _ => tyAbs t
  | .vneg _ t _ _ => tyAbs t
  | .vand _ t _ _ _ => tyB3 t
  | .vor _ t _ _ _ => tyB3 t
  | .vxor _ t _ _ _ => tyB3 t
  | .vshl _ t _ _ _ => tyInt t
  | .vshr _ t _ _ _ => tyB3 t
  | .vsar _ t _ _ _ => tyI3 t
  | .vfadd _ t _ _ _ => tyF2 t
  | .vfsub _ t _ _ _ => tyF2 t
  | .vfmul _ t _ _ _ => tyF2 t
  | .vfma _ t _ _ _ => tyF2 t
  | .vfmin _ t _ _ _ => tyF2 t
  | .vfmax _ t _ _ _ => tyF2 t
  | .vrcp _ t _ _ => tyF2 t
  | .vrsq _ t _ _ => tyF2 t
  | .vexp2 _ t _ _ => tyF2 t
  | .vlog2 _ t _ _ => tyF2 t
  | .vcvt _ dt st _ _ _ => tyLane4 dt && tyLane4 st
  | .vsel _ t _ _ _ _ => tyLane t
  | .vmov _ t _ _ => tyLane t
  | .vbcast _ t _ _ => tyLane t
  | .vbcastLane _ t _ _ j => tyLane t && wiIn 0 31 j
  | .vidx _ t _ => tyInt t
  | .vidxStep _ t _ _ _ => tyInt t
  | .vperm _ _ _ _ => true
  | .vshuf _ p _ _ => shufOk p
  | .vred _ _ t _ _ => tyLane t
  | .vscan _ _ t _ _ => tyLane t
  | .vpack _ t _ _ => tyPack t
  | .vunpack _ t _ _ => tyPack t
  | .vgath _ _ _ _ _ => true
  | .vscat _ _ _ _ _ => true
  | .ldsp _ o d _ _ => loadOrd o && ldOk d
  | .stsp _ o _ _ a => storeOrd o && stOk a
  | .atsp _ o _ _ _ _ => atomOrd o
  | .ldd _ o d _ _ => loadOrd o && ldOk d
  | .std _ o _ _ a => storeOrd o && stOk a
  | .atd _ o _ _ _ _ => atomOrd o
  | .rowadd _ o t _ _ => rowaddOrd o && tyRowadd t
  | .rowld _ o t _ _ v => rowldOrd o && tyRowld t && wiIn 0 16383 v
  | .ldh _ o d _ _ => loadOrd o && ldOk d
  | .sth _ o _ _ a => storeOrd o && stOk a
  | .ath _ o k _ _ _ => atomOrd o && atRemote k
  | .ldp _ _ _ d _ _ => ldOk d
  | .stp _ _ _ _ _ a => stOk a
  | .atp _ _ _ k _ _ _ => atRemote k
  | .ldmb _ _ mb w => immIn 0 3 mb && immIn 0 7 w
  | .ldmbOut _ _ mb w => immIn 0 3 mb && immIn 0 7 w
  | .stmb _ mb w _ => immIn 0 3 mb && immIn 0 7 w
  | .ldcf _ _ _ => true
  | .stcf _ _ _ => true
  | .fence _ sc m => decide (sc.toNat ≤ 5) && m != 0#6
  | .spawn _ _ _ len => wiIn 0 16383 len
  | .spawnRec _ _ => true
  | .spawnr _ _ o sh => wiIn 0 1023 o && wiIn 0 63 sh
  | .spawnd _ _ _ sh => wiIn 0 63 sh
  | .fork _ _ => true
  | .forkAnchored _ _ _ len => wiIn 0 16383 len
  | .migrate _ _ _ len => wiIn 0 16383 len
  | .setdep _ _ _ => true
  | .setdepHeld _ _ _ _ => true
  | .decr _ _ => true
  | .qcfgThresh _ _ q _ => wiIn 0 15 q
  | .qcfgTickets _ _ q _ => wiIn 0 15 q
  | .qcfgSpbase _ _ q _ => wiIn 0 15 q
  | .qcfgSpsize _ _ q _ => wiIn 0 15 q
  | .qstat _ _ _ q => wiIn 0 15 q
  | .steal _ _ _ q => wiIn 0 15 q
  | .stealAny _ _ _ q => wiIn 0 15 q
  | .barArr _ b => wiIn 0 127 b
  | .barWait _ b => wiIn 0 127 b
  | .barSync _ b => wiIn 0 127 b
  | .barcfg _ b n t => wiIn 0 127 b && wiIn 0 255 n && wiIn 0 16383 t
  | .barrierTimeout _ => true
  | .amsg _ _ t r => wiIn 0 255 t && wiIn 0 16383 r
  | .amsgRel _ _ t r => wiIn 0 255 t && wiIn 0 16383 r
  | .bind _ _ t _ => wiIn 0 255 t
  | .unbind _ _ t => wiIn 0 255 t
  | .openTx _ _ core ch => wiIn 0 1023 core && wiIn 0 15 ch
  | .openRx _ _ ch => wiIn 0 15 ch
  | .close _ _ => true
  | .spec _ => true
  | .commit _ _ => true
  | .abort _ _ => true
  | .slrd _ j d sl p => slLdOk j d && slotOk sl && pairOk p
  | .slcas _ _ t _ sl _ => tyW64 t && slotOk sl
  | .sladd _ _ t _ sl _ => tySladd t && slotOk sl
  | .slswap _ _ t _ sl _ => tyW64 t && slotOk sl
  | .slboard _ j _ a p => slStOk j a && pairOk p
  | .slalight _ j d sl p => slLdOk j d && slotOk sl && pairOk p
  | .slwait _ _ t _ sl _ => tyW64 t && slotOk sl
  | .slwaitRev _ _ sl _ => slotOk sl
  | .slinfoPool _ _ => true
  | .slinfoStn _ _ => true
  | .slinfoHdr _ _ sl => slotOk sl
  | .ldwC _ f _ => tyMat f
  | .ldwK _ f _ => tyMat f
  | .ldwg _ f z => tyMat f && genOk 31 z
  | .ldws _ _ => true
  | .swpw _ => true
  | .mma _ f acc _ m => tyMat f && wiIn 0 63 m && rowsFit acc m
  | .mmaSc _ f acc _ m => tyMat f && rowsFit acc m
  | .mmag _ f acc z m => tyMat f && genOk 63 z && wiIn 0 63 m && rowsFit acc m
  | .accz _ acc m => wiIn 0 63 m && rowsFit acc m
  | .accrd _ t _ _ _ => tyAccrd t
  | .accwr _ t _ _ => tyAccwr t
  | .mstat _ _ n => wiIn 0 2 n
  | .engineClaim _ => true
  | .weightLoadComplete _ => true
  | .mmaRowEnter _ => true
  | .mmaAccumulationComplete _ => true
  | .cpy _ _ _ _ _ l => wiIn 0 16383 l
  | .cpyg _ _ _ _ _ _ => true
  | .cpyx _ _ _ _ _ => true
  | .cpys _ _ _ _ _ => true
  | .cbind _ _ _ _ _ l => wiIn 0 16383 l
  | .cwait _ _ n => wiIn 0 32 n
  | .ccancel _ _ => true
  | .cstat _ _ _ => true
  | .copyStart _ _ => true
  | .copyFinish _ _ => true
  | .copySourceFault _ _ => true
  | .streamBytesArrive _ _ => true
  | .csrr _ _ n => sysAssigned n.toNat
  | .csrw _ n _ => sysAssigned n.toNat
  | .csrwSet _ n _ => sysAssigned n.toNat
  | .csrwClr _ n _ => sysAssigned n.toNat
  | .ecall _ v => immIn 0 16383 v
  | .eret _ => true
  | .tlbinvPage _ _ => true
  | .tlbinvAll _ => true
  | .ckpt _ _ => true
  | .budget _ => true
  | .replyLand _ => true
  | .tableWalkComplete _ => true
  | .homeAccept _ => true
  | .ckptcfgWrite _ => true
  | .dramBankSchedule _ _ => true
  | .scrubVisit _ => true
  | .recordArrival _ _ => true
  | .recordResend _ _ => true
  | .queueDecide _ _ _ => true
  | .queuePublication _ => true
  | .stealDecision _ => true
  | .dispatch _ => true
  | .cellarSlotDraw _ => true
  | .taskStart _ => true
  | .counterDecrement _ _ => true
  | .counterDeposit _ _ => true
  | .setdepArrival _ _ => true
  | .launchInstanceArrival _ => true
  | .runlistAdmit _ => true
  | .amArrival _ _ => true
  | .bindArrival _ _ => true
  | .unbindArrival _ _ => true
  | .handlerStart _ => true
  | .messageDelivery _ => true
  | .routeComplete _ => true
  | .slotPassage _ _ => true
  | .slboardPoolFull _ => true
  | .unitFailureReport _ => true
  | .rollbackEnd _ => true
  | .unwindEnd _ => true
  | .preemptDrain _ => true
  | .preemptStopNow _ => true
  | .preemptMigrate _ => true
  | .preemptRestore _ => true
  | .preemptResume _ => true
  | .drainDone _ => true
  | .contextSaveComplete _ => true
  | .restorePlace _ _ => true
  | .liveMigrationMove _ => true
  | .forwardMessage _ _ => true
  | .mailboxWordWrite _ _ _ _ => true
  | .mailboxMessageComplete _ _ _ => true
  | .mailboxTaskPlace _ _ => true
  | .replayMessagePlace _ => true
  | .mailboxBind _ => true
  | .mbstatWrite _ _ _ => true
  | .spRegionWrite _ => true
  | .ptrootWrite _ => true
  | .hostDmWrite _ _ => true
  | .hostDmRead _ => true
  | .atsInvalidation _ _ => true
  | .remoteEnqueueIndex _ _ _ _ => true
  | .remoteRecordPull _ _ _ => true
  | .peerFlitFailure _ => true
  | .attest _ => true
  | .fwupdate _ => true
  | .zero _ => true
  | .status _ => true
  | .create _ => true
  | .destroy _ => true
  | .grant _ => true
  | .keyshare _ => true
  | .peerbind _ => true
  | .preempt _ => true
  | .powercap _ => true
  | .frames _ => true
  | .tune _ => true
  | .replay _ => true
  | .reset _ => true
  | .stageB _ => true
  | .stageC => true
  | .powerOverCap => true
  | .thermalTrip => true
  | .peerUnwindToken _ => true
  | .peerMemoryRequest _ _ _ => true
  | .atsTranslationComplete _ _ _ => true
  | .powerBelowCap => true

/-- Whether a term of `Instr` is an instruction word, and not a step of the device. -/
def Instr.isWord (i : Instr) : Bool := (encode i).isSome

end Sys2Proof
end

