-- ==== Sys2Proof/Safety.lean ====
section
/-!
DEFINITION. What claims speak of: the form that every step keeps, when an instruction word completes with its own
effect, and the instructions of one shape, listed with what each computes.
-/
namespace Sys2Proof.Machine

open Sys2Proof

/-- The three memories are in canonical form. -/
def State.memOk (s : State) : Bool := Memory.wf s.mem && Memory.wf s.hostMem && Memory.wf s.peerMem

/-- A step is safe: the machine goes on. -/
def safeStep (s : State) : Prop := ∃ s', step s = .next s'

/-! ## When an instruction word completes -/

/-- A part of a meaning goes through in `s`, with the value `x`, and leaves `s'`. -/
abbrev Reads {α : Type} (a : Act α) (s : State) (x : α) (s' : State) : Prop := a s = .ok (x, s')

/-- An instruction word with the guard fields of `c`, which names `u`, executes (R39, R46, R97, R294): the slot holds a
task, a matrix instruction is on a press core, every vector register lies in the allotment, the guard passes, no
register named is owed a reply, and no open region refuses it. `lane` tells a lane instruction. -/
structure Ready (c : Ctl) (lane : Bool) (u : Uses) (s : State) : Prop where
  active : s.me.active = true
  press : u.matrix = true → isCellar (coreOf s.cur) = false
  allotted : vregCheck s.me u.groups = none
  guard : if lane then guardOf s.me c ≠ 0#32 else (guardOf s.me c).getLsbD 0 = true
  landed : s.me.owes (u.regs s.me) = false
  allowed : s.me.specOn = true → u.conflict = none

/-- Taking a precise trap, as an instruction of the executing thread does (R330). -/
def State.trapped (s : State) (c : Ctl) (code : Nat) (tval : W64) : State :=
  takeTrap s s.cur false code tval (guardOf s.me c) s.me.ip

/-- A trap of the executing thread is handled: TVEC is not 0, and the thread is not in trap mode (R330). -/
def State.handled (s : State) : Prop := s.me.tvec ≠ 0#64 ∧ s.me.tm = false

/-- The turn of a thread at an ordinary boundary (R329, R331): it may issue, no asynchronous trap and no BUDGET is due,
and no wait of a blocked instruction is over. -/
def State.atBoundary (s : State) (t : Nat) : Prop :=
  mayIssue s t = true ∧ (s.thr t).wait.landed = false ∧ (s.thr t).async = [] ∧ budgetDue (s.thr t) = false

/-! ## Values of operands that no read can stop -/

def wiVal (t : Thread) : WI → W64
  | .w r => t.w r.toNat
  | .imm v => v.signExtend 64
def wgVal (t : Thread) : WG → W64
  | .w r => t.w r.toNat
  | .g r => t.gReg r.toNat
/-- A code address (R213): 4 times an immediate from the instruction, or a register. -/
def entryVal (t : Thread) : WI → W64
  | .w r => t.w r.toNat
  | .imm v => t.ip + 4#64 * v.signExtend 64
/-- An operand whose immediate is unsigned (R47): its value, which must not exceed the limit. -/
def wiNat (t : Thread) : WI → Nat
  | .w r => (t.w r.toNat).toNat
  | .imm v => v.toNat
/-- An operand is within a limit; an immediate's limit is checked by its encoding. -/
def wiWithin (t : Thread) (lim : Nat) : WI → Prop
  | .w r => (t.w r.toNat).toNat ≤ lim
  | .imm _ => True

/-! ## Registers of a thread that an instruction leaves alone -/

/-- The special registers, the trap registers, the global registers and the records of a thread, `ip` and what counts
retired instructions apart, are the same. -/
def Thread.sameSpecial (t t' : Thread) : Prop :=
  t'.g = t.g ∧ t'.depth = t.depth ∧ t'.low = t.low ∧ t'.wsp = t.wsp ∧ t'.wacc = t.wacc ∧ t'.cause = t.cause ∧
  t'.tval = t.tval ∧ t'.eip = t.eip ∧ t'.tm = t.tm ∧ t'.ptm = t.ptm ∧ t'.tstatG = t.tstatG ∧ t'.tvec = t.tvec ∧
  t'.bar = t.bar ∧ t'.specOn = t.specOn ∧ t'.held = t.held ∧ t'.groups = t.groups ∧ t'.budEn = t.budEn ∧
  t'.header = t.header ∧ t'.cont = t.cont ∧ t'.owed = t.owed

/-- The registers and predicates of a thread outside a set are the same; `f` are flags it may have raised besides. -/
def Thread.sameRegs (t t' : Thread) (other : PReg → Prop) (f : Fl) : Prop :=
  (∀ r, other r → t'.readP r = t.readP r) ∧ t'.v = t.v ∧ t'.p = t.p ∧ t'.livep = t.livep ∧ t'.flags = t.flags ||| f

/-- Whether a reply can be written to a place as a word: a lane register takes lanes, a queue or port a place in it. -/
def PReg.holds : PReg → Bool
  | .stk _ | .trapW _ | .rver => true
  | .v _ | .q _ | .n _ => false

/-! ## Rounding (R57) -/

/-- `n` is the number of quanta 2^q that the exact value ±m · 2^e rounds to in a mode: 0 nearest with ties to even, 1 towards
zero, 2 towards +∞, 3 towards −∞. -/
def Quanta (mode : BitVec 2) (neg : Bool) (m : Nat) (e q : Int) (n : Nat) : Prop :=
  -- the exact number of quanta is a / d
  let a := m * 2 ^ (e - min e q).toNat
  let d := 2 ^ (q - min e q).toNat
  let down : Prop := n * d ≤ a ∧ a < (n + 1) * d
  let up : Prop := a ≤ n * d ∧ n * d < a + d
  match mode with
  | 0#2 => 2 * n * d ≤ 2 * a + d ∧ 2 * a ≤ 2 * n * d + d ∧ (2 * n * d = 2 * a + d ∨ 2 * a = 2 * n * d + d → n % 2 = 0)
  | 1#2 => down
  | 2#2 => if neg then down else up
  | _ => if neg then up else down

/-- `n` quanta 2^q are the value m · 2^e. -/
abbrev QuantaExact (m : Nat) (e q : Int) (n : Nat) : Prop :=
  n * 2 ^ (q - min e q).toNat = m * 2 ^ (e - min e q).toNat

/-! ## Scalar instructions of one shape (R119, R120, R123) -/

/-- Two sources, one result: OP, the constructor, and the result with its flags. -/
abbrev ScalarRow := Nat × (Ctl → Ty → Dst → Src → Src → Instr) × (Ty → Nat → Nat → Nat × Fl)

def intRow (f : Ty → Nat → Nat → Nat) : Ty → Nat → Nat → Nat × Fl := fun t x y => (f t x y, 0#7)

def scalarTwo : List ScalarRow :=
  [(0x20, Instr.add, intRow iAdd), (0x21, Instr.sub, intRow iSub), (0x22, Instr.mul, intRow iMul),
   (0x23, Instr.mulh, intRow iMulh),
   (0x24, Instr.div, fun t x y => (iDiv t x y, if elemInt t y = 0 then flDZ else 0#7)),
   (0x25, Instr.rem, fun t x y => (iRem t x y, if elemInt t y = 0 then flDZ else 0#7)),
   (0x26, Instr.and, intRow iAnd), (0x27, Instr.or, intRow iOr), (0x28, Instr.xor, intRow iXor),
   (0x29, Instr.andn, intRow iAndn), (0x2A, Instr.shl, intRow iShl), (0x2B, Instr.shr, intRow iShr),
   (0x2C, Instr.sar, intRow iSar), (0x2D, Instr.rot, intRow iRot), (0x2E, Instr.min, intRow iMin),
   (0x2F, Instr.max, intRow iMax),
   (0x3A, Instr.fadd, fun t => fAdd (tyFmt t)), (0x3B, Instr.fsub, fun t => fSub (tyFmt t)),
   (0x3C, Instr.fmul, fun t => fMul (tyFmt t))]

/-- One source, one result. -/
def scalarOne : List (Nat × (Ctl → Ty → Dst → Src → Instr) × (Ty → Nat → Nat)) :=
  [(0x30, Instr.clz, iClz), (0x31, Instr.popc, iPopc), (0x38, Instr.sext, fun _ x => x), (0x39, Instr.zext, fun _ x => x)]

/-- What a scalar instruction with a destination and two sources names. -/
def twoUses (op : Nat) (d : Dst) (a b : Src) : Uses := ((Uses.dst op d).and (Uses.src a)).and (Uses.src b)
def oneUses (op : Nat) (d : Dst) (a : Src) : Uses := (Uses.dst op d).and (Uses.src a)

/-- Sources and destinations that change nothing but a register when they are read or written. -/
def plainSrc : Src → Bool
  | .w _ | .imm _ | .g _ => true
  | .q _ | .s _ | .n _ => false
/-- The value of such a source (R34, R106). -/
def plainVal (t : Thread) (ty : Ty) : Src → W64
  | .w r => t.w r.toNat
  | .imm v => w64 (immVal ty v)
  | .g r => t.gReg r.toNat
  | .q _ | .s _ | .n _ => 0#64

/-! ## Lane instructions of one shape (R129 to R134) -/

/-- Two lane sources: the constructor, and the result of a lane with its flags. -/
abbrev LaneRow := (Ctl → Ty → VReg → VSrc → VSrc → Instr) × (Ty → Nat → Nat → Nat × Fl)

def laneTwo : List LaneRow :=
  [(fun c => Instr.vadd c false, intRow iAdd), (fun c => Instr.vsub c false, intRow iSub),
   (fun c => Instr.vadd c true, fun t x y => clampInt t (elemInt t x + elemInt t y)),
   (fun c => Instr.vsub c true, fun t x y => clampInt t (elemInt t x - elemInt t y)),
   (Instr.vmul, intRow iMul), (Instr.vmulh, intRow iMulh), (Instr.vmin, intRow iMin), (Instr.vmax, intRow iMax),
   (Instr.vand, intRow iAnd), (Instr.vor, intRow iOr), (Instr.vxor, intRow iXor), (Instr.vshl, intRow iShl),
   (Instr.vshr, intRow iShr), (Instr.vsar, intRow iSar),
   (Instr.vfadd, fun t => fAdd (tyFmt t)), (Instr.vfsub, fun t => fSub (tyFmt t)), (Instr.vfmul, fun t => fMul (tyFmt t)),
   (Instr.vfmin, fun t x y => (fMinMax false (tyFmt t) x y, 0#7)),
   (Instr.vfmax, fun t x y => (fMinMax true (tyFmt t) x y, 0#7))]

/-- One lane source. -/
def laneOne : List ((Ctl → Ty → VReg → VSrc → Instr) × (Ty → Nat → Nat × Fl)) :=
  [(Instr.vabs, fun t x => (vabsOp t x, 0#7)), (Instr.vneg, fun t x => (vnegOp t x, 0#7)),
   (Instr.vrcp, fun t => fRcp (tyFmt t)), (Instr.vrsq, fun t => fRsq (tyFmt t)), (Instr.vexp2, fun t => fExp2 (tyFmt t)),
   (Instr.vlog2, fun t => fLog2 (tyFmt t)), (Instr.vmov, fun _ x => (x, 0#7))]

def laneUses (d : VReg) (a b : VSrc) : Uses := ((Uses.vr d).and (Uses.vsrc a)).and (Uses.vsrc b)
def lane1Uses (d : VReg) (a : VSrc) : Uses := (Uses.vr d).and (Uses.vsrc a)

/-- The lanes of a mask of register number r written, their zeros counted by ZSKIP (R96). -/
def State.putLanes (s : State) (r : Nat) (g : W32) (ls : Lanes) : State :=
  (countSkips s (coreOf s.cur) (zerosIn g 0 ls)).modMe (fun t => setLanes t r g 0 ls)

/-- Typed results with their flags written to a lane destination (R41, R127). -/
def State.putResults (s : State) (t : Ty) (d : VReg) (g : W32) (xs : List (Nat × Fl)) : State :=
  (s.putLanes (s.me.vIdx d) g (xs.map (fun x => laneWord t x.1))).modMe (fun th => th.raise (maskFlags g 0 (xs.map (·.2))))

/-! ## What an instruction word names -/

/-- What stands between an instruction word and its effect: its guard fields, whether it is a lane instruction (R39), whether
its failed guard writes a predicate pair all the same (R114), and the registers, regions and features it names. -/
structure WordForm where
  ctl : Ctl
  lane : Bool
  always : Bool
  uses : Uses

/-- The form of an instruction; what a unit does of itself has none. -/
def wordForm (s : State) : Instr → Option WordForm
  | .nop c | .br c _ | .brLong c _ | .yield c | .brk c _ | .ecall c _ | .eret c | .tlbinvAll c =>
    some ⟨c, false, false, Uses.none⟩
  | .brx c a | .ret c a | .tlbinvPage c a => some ⟨c, false, false, Uses.w a⟩
  | .call c _ | .callLong c _ => some ⟨c, false, false, { extra := callRegs s.me }⟩
  | .callx c a => some ⟨c, false, false, { ws := [a.toNat], extra := callRegs s.me }⟩
  | .loop c n _ | .cwait c _ n => some ⟨c, false, false, Uses.wi n⟩
  | .done c => some ⟨c, false, false, { conflict := some 0x08 }⟩
  | .doneJ c a => some ⟨c, false, false, (Uses.w a).and { conflict := some 0x08 }⟩
  | .cmp c _ _ _ a b | .cmpf c _ _ _ a b => some ⟨c, false, true, (Uses.src a).and (Uses.src b)⟩
  | .vcmp c _ _ _ a b | .vcmpf c _ _ _ a b => some ⟨c, true, true, (Uses.vsrc a).and (Uses.vsrc b)⟩
  | .plog c .. | .pmov c .. | .pset c .. => some ⟨c, true, false, Uses.none⟩
  | .pmovFromW c _ a | .pmovToW c a _ => some ⟨c, true, false, Uses.w a⟩
  | .psetFirst c _ n => some ⟨c, true, false, Uses.wi n⟩
  | .pcnt c d _ => some ⟨c, false, false, Uses.dst 0x16 d⟩
  | .pfirst c d _ => some ⟨c, false, false, Uses.dst 0x17 d⟩
  | .add c _ d a b => some ⟨c, false, false, twoUses 0x20 d a b⟩
  | .sub c _ d a b => some ⟨c, false, false, twoUses 0x21 d a b⟩
  | .mul c _ d a b => some ⟨c, false, false, twoUses 0x22 d a b⟩
  | .mulh c _ d a b => some ⟨c, false, false, twoUses 0x23 d a b⟩
  | .div c _ d a b => some ⟨c, false, false, twoUses 0x24 d a b⟩
  | .rem c _ d a b => some ⟨c, false, false, twoUses 0x25 d a b⟩
  | .and c _ d a b => some ⟨c, false, false, twoUses 0x26 d a b⟩
  | .or c _ d a b => some ⟨c, false, false, twoUses 0x27 d a b⟩
  | .xor c _ d a b => some ⟨c, false, false, twoUses 0x28 d a b⟩
  | .andn c _ d a b => some ⟨c, false, false, twoUses 0x29 d a b⟩
  | .shl c _ d a b => some ⟨c, false, false, twoUses 0x2A d a b⟩
  | .shr c _ d a b => some ⟨c, false, false, twoUses 0x2B d a b⟩
  | .sar c _ d a b => some ⟨c, false, false, twoUses 0x2C d a b⟩
  | .rot c _ d a b => some ⟨c, false, false, twoUses 0x2D d a b⟩
  | .min c _ d a b => some ⟨c, false, false, twoUses 0x2E d a b⟩
  | .max c _ d a b => some ⟨c, false, false, twoUses 0x2F d a b⟩
  | .fadd c _ d a b => some ⟨c, false, false, twoUses 0x3A d a b⟩
  | .fsub c _ d a b => some ⟨c, false, false, twoUses 0x3B d a b⟩
  | .fmul c _ d a b => some ⟨c, false, false, twoUses 0x3C d a b⟩
  | .sel c _ _ d a b => some ⟨c, false, false, twoUses 0x32 d a b⟩
  | .leaScaled c _ d a b => some ⟨c, false, false, twoUses 0x35 d a b⟩
  | .bext c _ d a b => some ⟨c, false, false, twoUses 0x36 d a b⟩
  | .clz c _ d a => some ⟨c, false, false, oneUses 0x30 d a⟩
  | .popc c _ d a => some ⟨c, false, false, oneUses 0x31 d a⟩
  | .sext c _ d a => some ⟨c, false, false, oneUses 0x38 d a⟩
  | .zext c _ d a => some ⟨c, false, false, oneUses 0x39 d a⟩
  | .fcvt c _ _ _ d a => some ⟨c, false, false, oneUses 0x3E d a⟩
  | .mov c _ d a => some ⟨c, false, false, (Uses.movDst d).and (Uses.movSrc a)⟩
  | .movi c d _ | .moviH c d _ | .ldmb c d _ _ | .ldmbOut c d _ _ | .cstat c _ d | .ckpt c d =>
    some ⟨c, false, false, Uses.w d⟩
  | .lea c d _ => some ⟨c, false, false, Uses.dst 0x35 d⟩
  | .bins c d a b | .ffma c _ d a b => some ⟨c, false, false, ((Uses.w d).and (Uses.src a)).and (Uses.src b)⟩
  | .vadd c _ _ d a b | .vsub c _ _ d a b => some ⟨c, true, false, laneUses d a b⟩
  | .vmul c _ d a b | .vmulh c _ d a b | .vmin c _ d a b | .vmax c _ d a b | .vand c _ d a b |
    .vor c _ d a b | .vxor c _ d a b | .vshl c _ d a b => some ⟨c, true, false, laneUses d a b⟩
  | .vshr c _ d a b | .vsar c _ d a b | .vfadd c _ d a b | .vfsub c _ d a b | .vfmul c _ d a b |
    .vfma c _ d a b | .vfmin c _ d a b | .vfmax c _ d a b => some ⟨c, true, false, laneUses d a b⟩
  | .vsel c _ _ d a b => some ⟨c, true, false, laneUses d a b⟩
  | .vabs c _ d a | .vneg c _ d a | .vrcp c _ d a | .vrsq c _ d a | .vexp2 c _ d a | .vlog2 c _ d a |
    .vmov c _ d a | .vcvt c _ _ _ d a => some ⟨c, true, false, lane1Uses d a⟩
  | .vbcast c _ d a => some ⟨c, true, false, lane1Uses d (.sc a)⟩
  | .vbcastLane c _ d a j => some ⟨c, true, false, ((Uses.vr d).and (Uses.vv a)).and (Uses.wi j)⟩
  | .vidx c _ d => some ⟨c, true, false, Uses.vr d⟩
  | .vidxStep c _ d a b => some ⟨c, true, false, ((Uses.vr d).and (Uses.src a)).and (Uses.src b)⟩
  | .vperm c d a b => some ⟨c, true, false, ((Uses.vr d).and (Uses.vv a)).and (Uses.vv b)⟩
  | .vshuf c pat d a =>
    some ⟨c, true, false, ((Uses.vr d).and (Uses.vv a)).and (match shufK pat with | some k => Uses.wi k | none => Uses.none)⟩
  | .vred c _ _ d a => some ⟨c, true, false, (Uses.w d).and (Uses.vv a)⟩
  | .vscan c _ _ d a => some ⟨c, true, false, (Uses.vr d).and (Uses.vv a)⟩
  | .vpack c t d a => some ⟨c, true, false, ((Uses.ty t).and (Uses.vr d)).and (Uses.group a (packF t))⟩
  | .vunpack c t d a => some ⟨c, true, false, ((Uses.ty t).and (Uses.group d (packF t))).and (Uses.vv a)⟩
  | .vgath c l d tab idx => some ⟨c, true, false, ((Uses.vr d).and (Uses.group tab (l.toNat + 1))).and (Uses.vv idx)⟩
  | .vscat c l tab idx a => some ⟨c, true, false, ((Uses.group tab (l.toNat + 1)).and (Uses.vv idx)).and (Uses.vsrc a)⟩
  | .ldsp c _ d base off | .ldd c _ d base off | .ldh c _ d base off => some ⟨c, (ldLane d), false, ldUses d base off⟩
  | .stsp c _ base off a | .std c _ base off a | .sth c _ base off a => some ⟨c, (stLane a), false, stUses base off a⟩
  | .atsp c _ _ d base b => some ⟨c, false, false, atUses 0x72 d base b⟩
  | .atd c _ _ d base b => some ⟨c, false, false, atUses 0x75 d base b⟩
  | .ath c _ _ d base b => some ⟨c, false, false, atUses 0x7A d base b⟩
  | .ldp c _ _ d base off => some ⟨c, (ldLane d), false, (ldUses d base off).and pmFeat⟩
  | .stp c _ _ base off a => some ⟨c, (stLane a), false, (stUses base off a).and pmFeat⟩
  | .atp c _ _ _ d base b => some ⟨c, false, false, (atUses 0x7D d base b).and pmFeat⟩
  | .rowadd c _ _ row a => some ⟨c, true, false, ((Uses.w row).and (Uses.group a 2)).and { feats := [0] }⟩
  | .rowld c _ _ d row minv =>
    some ⟨c, true, false, ((((Uses.group d 2).and (Uses.w row)).and (Uses.wi minv)).and { feats := [0] }).and
    { extra := [.rver], conflict := some 0x77 }⟩
  | .stmb c _ _ a => some ⟨c, false, false, (Uses.src a).and { conflict := some 0x7F }⟩
  | .ldcf c d n => some ⟨c, false, false, (Uses.w d).and (Uses.wi n)⟩
  | .stcf c n a => some ⟨c, false, false, ((Uses.wi n).and (Uses.src a)).and { conflict := some 0x81 }⟩
  | .fence c _ _ => some ⟨c, false, false, { conflict := some 0x82 }⟩
  | .spawn c desc base len =>
    some ⟨c, false, false, (((Uses.wi desc).and (Uses.wg base)).and (Uses.wi len)).and (Uses.args 24)⟩
  | .spawnRec c x => some ⟨c, false, false, Uses.recSrc x⟩
  | .spawnr c desc o x => some ⟨c, false, false, (((Uses.wi desc).and (Uses.wi o)).and (Uses.wi x)).and (Uses.args 24)⟩
  | .spawnd c desc m x => some ⟨c, false, false, (((Uses.wi desc).and (Uses.w m)).and (Uses.wi x)).and (Uses.args 24)⟩
  | .fork c e => some ⟨c, false, false, (Uses.wi e).and (Uses.args 24)⟩
  | .forkAnchored c e base len =>
    some ⟨c, false, false, (((Uses.wi e).and (Uses.wg base)).and (Uses.wi len)).and (Uses.args 24)⟩
  | .migrate c e base len =>
    some ⟨c, false, false, ((((Uses.wi e).and (Uses.wg base)).and (Uses.wi len)).and (Uses.args 0)).and { conflict := some 0x94 }⟩
  | .setdep c blk n => some ⟨c, false, false, (Uses.w blk).and (Uses.wi n)⟩
  | .setdepHeld c blk n rec => some ⟨c, false, false, ((Uses.w blk).and (Uses.wi n)).and (Uses.w rec)⟩
  | .decr c blk => some ⟨c, false, false, Uses.w blk⟩
  | .qcfgThresh c addr q v | .qcfgTickets c addr q v | .qcfgSpbase c addr q v | .qcfgSpsize c addr q v =>
    some ⟨c, false, false, ((Uses.wg addr).and (Uses.wi q)).and (Uses.wi v)⟩
  | .qstat c d addr q =>
    some ⟨c, false, false, (((Uses.dst 0x98 d).and (Uses.w addr)).and (Uses.wi q)).and { conflict := some 0x98 }⟩
  | .steal c d addr q | .stealAny c d addr q =>
    some ⟨c, false, false, (((Uses.vr d).and (Uses.w addr)).and (Uses.wi q)).and { conflict := some 0x99 }⟩
  | .barArr c b | .barWait c b | .barSync c b => some ⟨c, false, false, Uses.wi b⟩
  | .barcfg c b n x => some ⟨c, false, false, ((Uses.wi b).and (Uses.wi n)).and (Uses.wi x)⟩
  | .amsg c addr tag r | .amsgRel c addr tag r =>
    some ⟨c, false, false, (((Uses.wg addr).and (Uses.wi tag)).and (Uses.wi r)).and Uses.amArgs⟩
  | .bind c addr tag e => some ⟨c, false, false, ((Uses.wg addr).and (Uses.wi tag)).and (Uses.wi e)⟩
  | .unbind c addr tag => some ⟨c, false, false, (Uses.wg addr).and (Uses.wi tag)⟩
  | .openTx c _ core chan =>
    some ⟨c, false, false, (((Uses.wi core).and (Uses.wi chan)).and portUses).and { conflict := some 0xA5 }⟩
  | .openRx c _ chan => some ⟨c, false, false, ((Uses.wi chan).and portUses).and { conflict := some 0xA5 }⟩
  | .close c _ => some ⟨c, false, false, portUses.and { conflict := some 0xA6 }⟩
  | .spec c => some ⟨c, false, false, { feats := [2] }⟩
  | .commit c d | .abort c d => some ⟨c, false, false, (Uses.w d).and { feats := [2] }⟩
  | .slrd c _ d sl _ => some ⟨c, false, false, ((Uses.ldDst d).and (Uses.slotOp sl)).and (slUses 0xB0)⟩
  | .slalight c _ d sl _ => some ⟨c, false, false, ((Uses.ldDst d).and (Uses.slotOp sl)).and (slUses 0xB5)⟩
  | .slcas c _ _ d sl b =>
    some ⟨c, false, false, (((Uses.w d).and (Uses.slotOp sl)).and (Uses.src b)).and (slUses 0xB1)⟩
  | .sladd c _ _ d sl b =>
    some ⟨c, false, false, (((Uses.w d).and (Uses.slotOp sl)).and (Uses.src b)).and (slUses 0xB2)⟩
  | .slswap c _ _ d sl b =>
    some ⟨c, false, false, (((Uses.w d).and (Uses.slotOp sl)).and (Uses.src b)).and (slUses 0xB3)⟩
  | .slwait c _ _ d sl b =>
    some ⟨c, false, false, (((Uses.w d).and (Uses.slotOp sl)).and (Uses.src b)).and (slUses 0xB6)⟩
  | .slwaitRev c d sl b =>
    some ⟨c, false, false, (((Uses.w d).and (Uses.slotOp sl)).and (Uses.src b)).and (slUses 0xB6)⟩
  | .slboard c _ d a _ =>
    some ⟨c, false, false, ((Uses.w d).and (match a with | .s _ x => Uses.src x | .v r => Uses.vr r)).and (slUses 0xB4)⟩
  | .slinfoPool c d | .slinfoStn c d => some ⟨c, false, false, (Uses.w d).and (slUses 0xB7)⟩
  | .slinfoHdr c d sl => some ⟨c, false, false, ((Uses.w d).and (Uses.slotOp sl)).and (slUses 0xB7)⟩
  | .ldwC c f v | .ldwK c f v => some ⟨c, false, false, matUses ((Uses.group v 64).and (Uses.ty f))⟩
  | .ldwg c f z => some ⟨c, false, false, matUses ((Uses.genMat z).and (Uses.ty f))⟩
  | .ldws c v => some ⟨c, false, false, matUses (Uses.group v 8)⟩
  | .swpw c => some ⟨c, false, false, matUses Uses.none⟩
  | .mma c f _ a m | .mmaSc c f _ a m => some ⟨c, false, false, matUses ((mmaUses a m).and (Uses.ty f))⟩
  | .mmag c f _ z m => some ⟨c, false, false, matUses (((Uses.genMat z).and (Uses.wi m)).and (Uses.ty f))⟩
  | .accz c _ m => some ⟨c, false, false, matUses (Uses.wi m)⟩
  | .accrd c t _ v _ | .accwr c t _ v => some ⟨c, false, false, matUses (Uses.group v (if accWide t then 2 else 1))⟩
  | .mstat c d n => some ⟨c, false, false, matUses ((Uses.w d).and (Uses.wi n))⟩
  | .cpy c _ _ d a len =>
    some ⟨c, false, false, (((Uses.wg d).and (Uses.wg a)).and (Uses.wi len)).and { conflict := some 0xD0 }⟩
  | .cpyg c _ _ _ d x => some ⟨c, false, false, ((Uses.cpyDst d).and (Uses.vr x)).and { conflict := some 0xD1 }⟩
  | .cpyx c _ _ d x => some ⟨c, false, false, ((Uses.cpyDst d).and (Uses.vr x)).and { conflict := some 0xD2 }⟩
  | .cpys c _ _ d x => some ⟨c, false, false, ((Uses.cpyDst d).and (Uses.vr x)).and { conflict := some 0xD3 }⟩
  | .cbind c _ _ _ a len => some ⟨c, false, false, ((Uses.wg a).and (Uses.wi len)).and { conflict := some 0xD4 }⟩
  | .ccancel c _ => some ⟨c, false, false, { conflict := some 0xD6 }⟩
  | .csrr c d n => some ⟨c, false, false, (Uses.w d).and { extra := sysRegs s n.toNat }⟩
  | .csrw c n a | .csrwSet c n a | .csrwClr c n a =>
    some ⟨c, false, false, (Uses.src a).and { extra := sysRegs s n.toNat }⟩
  | .barrierTimeout .. | .engineClaim .. | .weightLoadComplete .. | .mmaRowEnter .. |
    .mmaAccumulationComplete .. | .copyStart .. | .copyFinish .. | .copySourceFault .. |
    .streamBytesArrive .. | .budget .. | .replyLand .. | .tableWalkComplete .. | .homeAccept .. |
    .ckptcfgWrite .. | .dramBankSchedule .. | .scrubVisit .. | .recordArrival .. | .recordResend .. |
    .queueDecide .. | .queuePublication .. | .stealDecision .. | .dispatch .. | .cellarSlotDraw .. |
    .taskStart .. | .counterDecrement .. | .counterDeposit .. | .setdepArrival .. |
    .launchInstanceArrival .. | .runlistAdmit .. | .amArrival .. | .bindArrival .. | .unbindArrival .. |
    .handlerStart .. | .messageDelivery .. | .routeComplete .. | .slotPassage .. | .slboardPoolFull .. |
    .rollbackEnd .. | .unwindEnd .. | .preemptDrain .. | .preemptStopNow .. | .preemptMigrate .. |
    .preemptRestore .. | .preemptResume .. | .drainDone .. | .contextSaveComplete .. | .restorePlace .. |
    .liveMigrationMove .. | .forwardMessage .. | .mailboxTaskPlace .. | .replayMessagePlace .. |
    .mailboxBind .. | .spRegionWrite .. | .ptrootWrite .. | .stageB .. | .stageC .. | .unitFailureReport .. |
    .mailboxWordWrite .. | .mailboxMessageComplete .. | .mbstatWrite .. | .hostDmWrite .. | .hostDmRead .. |
    .atsInvalidation .. | .remoteEnqueueIndex .. | .remoteRecordPull .. | .peerFlitFailure .. | .attest .. |
    .fwupdate .. | .zero .. | .status .. | .create .. | .destroy .. | .grant .. | .keyshare .. |
    .peerbind .. | .preempt .. | .powercap .. | .frames .. | .tune .. | .replay .. | .reset .. |
    .powerOverCap .. | .thermalTrip .. | .peerUnwindToken .. | .peerMemoryRequest .. |
    .atsTranslationComplete .. | .powerBelowCap .. => none

/-! ## What leaves the core -/

/-- A load has left (R97, R144): its reply is owed, with the bytes of held stores, and its message is on its way. -/
def State.sentLoad (s : State) (p : Path) (dst : Nat) (req : Req) (d : LdDst) (g : W32) (acq : Bool) (space a : Nat) : State :=
  let s1 := { s with nextId := s.nextId + 1 }
  let s2 := s1.modMe (fun t => { t with owed := t.owed ++
    [⟨s.nextId, loadRegs d t, loadFill d g t, heldBytes t space a (ldBytes d), acq, none, p⟩] })
  s2.post (s2.mkMsg p dst s.nextId req)

/-- A read of a word has left: how its reply lands in `wd` is said by `fill`. -/
def State.sentReg (s : State) (p : Path) (dst : Nat) (req : Req) (d : BitVec 5) (fill : PReg → Fill) (acq : Bool) : State :=
  let s1 := { s with nextId := s.nextId + 1 }
  let s2 := s1.modMe (fun t => { t with owed := t.owed ++
    [⟨s.nextId, [t.preg d.toNat], fill (t.preg d.toNat), [], acq, none, p⟩] })
  s2.post (s2.mkMsg p dst s.nextId req)

/-- An atomic, or a read of a word, has left: its reply lands in `wd`. -/
def State.sentWord (s : State) (p : Path) (dst : Nat) (req : Req) (d : BitVec 5) (acq : Bool) : State :=
  s.sentReg p dst req d .word acq

/-- A message without a reply has left, or is held in an open region (R294). -/
def State.sentOrHeld (s : State) (h : Held) : State :=
  if s.me.specOn then s.modMe (fun t => { t with held := t.held ++ [h] }) else h.msgs.foldl (fun s m => s.post m) s

/-- An access may leave now (R82, R294, R298): the path is open, a release finds nothing pending, and an open region
that holds it has room. -/
def State.maySend (s : State) (p : Path) (rel : Bool) : Prop :=
  s.pathOpen s.cur p = true ∧ (rel = true → s.pending s.me.task [p] = false)
def State.maySendOrHold (s : State) (p : Path) (rel : Bool) : Prop :=
  if s.me.specOn = true then s.heldOn (coreOf s.cur) < 64 else s.maySend p rel

/-- A whole-row load has left (R164): two registers and RVER are interlocked; `.row` holds back the row's others (R85). -/
def State.sentRow (s : State) (p : Path) (l : DmLoc) (minv : W64) (d : VReg) (g : W32) (o : Ord) : State :=
  let s1 := { s with nextId := s.nextId + 1 }
  let r := s.me.vIdx d
  let s2 := s1.modMe (fun t => { t with owed := t.owed ++
    [⟨s.nextId, [.v r, .v (r + 1), .rver], .row r g, [], o.acq.isSome, if o.row then some l.key else none, p⟩] })
  s2.post (s2.mkMsg p (homeEp l.home) s.nextId (.rowld (.dm l) minv))

/-- A record about to leave: it counts in OUT of its core (R203, R214), and is numbered. -/
def State.counted (s : State) : State :=
  { s.takeOut.modMe (fun t => { t with outTaken := false }) with nextId := s.nextId + 1 }

/-- A record has left its core, or is held (R203, R217, R294). -/
def State.sentRecord (s : State) (r : Rec) (x : Target) : State :=
  let s1 := s.counted
  s1.sentOrHeld ⟨[recordMsg s1 r x s.nextId], true, true, spaceDm, 0, []⟩

/-- The waits of R217 and R82 find nothing. -/
def State.maySendRecord (s : State) (p : Path) : Prop :=
  s.recordWaits = false ∧ s.pathOpen s.cur p = true

/-- A launch has left its core (R201, R218): one instance to each core of the rectangle, one record in OUT. -/
def State.sentLaunch (s : State) (r : Rec) (x y w h : Nat) : State :=
  let s1 := s.counted
  s1.sentOrHeld ⟨launchMsgs s1 (s1.prt s1.me.part) r s.nextId x y w h, true, true, spaceDm, 0, []⟩

/-- A message without a reply that `.rel` or R217 may hold up, sent or held (R222, R286). -/
def State.sentPlain (s : State) (p : Path) (dst : Nat) (req : Req) (rel : Bool) : State :=
  s.sentOrHeld ⟨[s.mkMsg p dst 0 req], rel, false, spaceDm, 0, []⟩
def State.maySendPlain (s : State) (p : Path) (rel : Bool) : Prop :=
  if s.me.specOn = true then s.heldOn (coreOf s.cur) < 64
  else s.pathOpen s.cur p = true ∧ (rel = true → s.recordWaits = false)

/-- A message that names an address for the check of R176: the address's place goes with it. -/
def State.namedMsg (s : State) (p : Path) (x : Loc × Nat) (tok : Nat) (req : Req) : Msg :=
  (s.mkMsg p (homeEp x.2) tok req).at x.1

/-- An active message, `bind` or `unbind` has left, or is held (R281, R286): only a move and a release's wait hold it up. -/
def State.sentNamed (s : State) (x : Loc × Nat) (req : Req) (rel : Bool) : State :=
  s.sentOrHeld ⟨[s.namedMsg .ls x 0 req], rel, false, spaceDm, 0, []⟩
def State.maySendNamed (s : State) (rel : Bool) : Prop :=
  if s.me.specOn = true then s.heldOn (coreOf s.cur) < 64
  else s.moveDrained s.cur = true ∧ (rel = true → s.recordWaits = false)

/-- A question about a queue has left for the home of an address (R225, R226): its reply is owed. -/
def State.asked (s : State) (p : Path) (x : Loc × Nat) (req : Req) (regs : List PReg) (fill : Fill) (acq : Bool) : State :=
  let s1 := { s with nextId := s.nextId + 1 }
  let s2 := s1.modMe (fun t => { t with owed := t.owed ++ [⟨s.nextId, regs, fill, [], acq, none, p⟩] })
  s2.post (s2.namedMsg p x s.nextId req)

/-! ## Solera (R315 to R322) -/

/-- The pool-relative number that a slot operand gives. -/
def slotVal (t : Thread) : SlotOp → Nat
  | .sl k => k.toNat
  | .w r => (t.w r.toNat).toNat

/-- The slot instructions with a source: OP, the constructor, the word, and the request that the type, the old destination,
the source operand and its value make. -/
def slTwo : List (Nat × (Ctl → BitVec 3 → Ty → BitVec 5 → SlotOp → Src → Instr) × (BitVec 3 → Nat) ×
    (Ty → W64 → Src → W64 → SlKind)) :=
  [(0xB1, Instr.slcas, BitVec.toNat, fun _ old _ x => .cas old x),
   (0xB2, Instr.sladd, BitVec.toNat, fun t _ b x => .add t (match b with | .imm v => w64 (immVal t v) | _ => x)),
   (0xB3, Instr.slswap, BitVec.toNat, fun _ _ _ x => .swap x),
   (0xB6, Instr.slwait, BitVec.toNat, fun _ _ _ x => .wait x),
   (0xB6, fun c _ _ => Instr.slwaitRev c, fun _ => 0, fun _ _ _ x => .waitRev x)]

/-! ## Tasks -/

/-- In `s'` the slot `t` holds a task of partition `p` that has just started from the record `r` (R89, R93, R95, R189, R331):
in frame 0, with its arguments in `w0` to `w7` up to ARGC; `rect` gives `g4` to `g7`. -/
def State.startedAs (s s' : State) (t p : Nat) (r : Rec) (rect : List Nat) : Prop :=
  let a := s'.thr t
  let c := coreOf t
  let pt := s.prt p
  let place : List Nat := if isCellar c then [coreX c, coreY c] else [coreX c - pt.x0, coreY c - pt.y0]
  a.lc = 0#64 ∧ a.ls = 0#64 ∧ a.le = 0#64 ∧ a.cause = 0#64 ∧ a.tval = 0#64 ∧ a.eip = 0#64 ∧ a.ptm = false ∧ a.tstatG = 0#32 ∧
  (∀ k, a.stream k = Stream.unbound) ∧ (∀ k, a.port k = .unbound) ∧ a.bar.valid = false ∧ (∀ k, a.group k = Group.init) ∧
  a.specOn = false ∧ a.held = [] ∧ a.rver = 0#64 ∧ a.wsp = 0#64 ∧ a.wacc = 0#64 ∧ a.fences = [] ∧ a.landing = [] ∧
  (∀ k, k < 2 → a.gReg k = w64 (place.getD k 0)) ∧ a.gReg 2 = w64 p ∧ a.gReg 3 = w64 (slotOf t) ∧
  (∀ k, k < 4 → a.gReg (4 + k) = w64 (rect.getD k 0)) ∧ a.gReg 11 = w64 (if isCellar c then 1 else 0) ∧
  a.gReg 12 = w64 pt.w ∧ a.gReg 13 = w64 pt.h ∧
  a.gReg 14 = w64 (pt.coreIndex c * 2 ^ 32 + (s.core c).starts.toNat) ∧ a.gReg 15 = w64 (hdrGran (Rec.header r)) ∧
  (∀ k, 16 ≤ k → a.gReg k = 0#64) ∧
  a.budEn = decide (1 ≤ hdrBudget (Rec.header r)) ∧ a.budRem = hdrBudget (Rec.header r) * 1024 ∧
  a.active = true ∧ a.part = p ∧ a.depth = 0 ∧ a.low = 0 ∧ a.tm = false ∧ a.header = Rec.header r ∧ a.cont = Rec.cont r ∧
  a.flags = (Rec.flags r).setWidth 7 ∧ a.gran = hdrGran (Rec.header r) ∧ a.livep = 0#16 ∧ a.loopOn = false ∧
  (∀ j, j < 8 → a.w j = if j ≤ hdrArgc (Rec.header r) then Rec.arg r j else 0#64) ∧
  (∀ j, 8 ≤ j → j < 32 → a.w j = 0#64) ∧ a.gReg 8 = Rec.abase r ∧ a.gReg 9 = w64 (Rec.alen r) ∧
  a.gReg 10 = (hdrTag (Rec.header r)).setWidth 64 ∧ a.v = [] ∧ a.p = [] ∧ a.trapWin = [] ∧ a.owed = [] ∧
  a.tvec = align4 ((s.prt p).cfReg 0xD3) ∧ (s'.core (coreOf t)).starts = (s.core (coreOf t)).starts + 1#32 ∧
  s'.mem = s.mem ∧ ∀ k, k ≠ t → s'.thr k = s.thr k

end Sys2Proof.Machine
end

