-- ==== Sys2Proof/Certificates/Slice0/Obligations.lean ====
section
/-!
DEFINITION. The statements: what the rules of spec/ say that the machine does, for every state and operand.
-/
open Sys2Proof Sys2Proof.Machine

/-! ## Encoding -/

/-- Words written out bit by bit from the encoding tables decode to the instructions they stand for (R28, R33, R37, R38). -/
def Obligations.DecodeWords : Prop :=
  -- cmp.lt.i64 p3:p4, w8, 0 (R114)
  decodeWord acceptAll 0x1023FF000020043000218000#96 =
    .ok (.cmp ⟨0xFF#8, 0, 0, 0, 0⟩ .lt .i64 ⟨3, 4⟩ (.w 8) (.imm 0)) ∧
  -- spawn w10, w8, 64 (R213)
  decodeWord acceptAll 0x9000FF00000000A000218040#96 =
    .ok (.spawn ⟨0xFF#8, 0, 0, 0, 0⟩ (.w 10) (.w 8) (.imm 64)) ∧
  -- done: OP 0x08, FN 0, every field 0
  decodeWord acceptAll 0x0800FF000000000000000000#96 = .ok (.done ⟨0xFF#8, 0, 0, 0, 0⟩) ∧
  -- a word whose OP no table assigns
  decodeWord acceptAll 0xFF00FF000000000000000000#96 = .error .opcode

/-- Decoding the word of a well-formed instruction gives the instruction back, for every instruction that a word names
and every operand its encoding admits. The other direction: a word that decodes, whatever features ACCEPT offers, is
the word of the instruction it decodes to, and that instruction is well formed. No two words name one instruction,
and no bit is read twice or lost. -/
def Obligations.EncodeDecode : Prop :=
  (∀ (i : Instr) (w : BitVec 96), i.wellFormed = true → encodeWord i = some w → decodeWord acceptAll w = .ok i) ∧
  (∀ (accept : W64) (w : BitVec 96) (i : Instr),
     decodeWord accept w = .ok i → i.wellFormed = true ∧ encodeWord i = some w)

/-! ## The step -/

/-- The word at a thread's IP is the twelve bytes that lie there (R29), when each part of it is translated, executable,
owned and free of poison: read in one step where they lie in one home unit, a granule of a STRIPED page or another
page whole (R154), and otherwise in two, each part by itself in an order that is left open (R30). A step runs the
decoded instruction: at a boundary, a thread whose turn it is executes the instruction that its fetched word decodes
to, with the word kept while the instruction waits; a word that has been kept is not fetched again, and of a word in
two home units the step keeps the part that it has read. After a `yield` the slots that are ready are noted; the
thread passes its turn until each of them has issued once, and one that has issued is awaited no longer (R112). A
word that no instruction has raises ILLEGAL, with the subcode and place of its first failing check in TVAL (R46,
R47): nothing else of the word is executed. (In part the model's own reading or choice: assumptions 1, 8, 11 and 33
of the log.) -/
def Obligations.StepRunsDecoded : Prop :=
  (∀ (s : State) (t : Nat) (e1 e2 : W64),
     let th := s.thr t
     let ip := th.ip.toNat
     let unit := if (pteLoc e1 ip).attr = 0#2 then 4096 else 2 ^ 21
     let n := min 12 (unit - ip % unit)
     let here (va k : Nat) (e : W64) : Prop :=
       va < 2 ^ 48 ∧ heldPte s (coreBufs (coreOf t)) th.part (va / 2 ^ 21) = some e ∧
       ¬ ((pteLoc e va).attr = 2#2 ∧ sparseLimit < (pteLoc e va).off + k) ∧ pteX e = true ∧
       frameOk s th.part (pteLoc e va) = true ∧ locBad s (.dm (pteLoc e va)) k = false
     let first := readLoc s th.part (.dm (pteLoc e1 ip)) n
     let second := readLoc s th.part (.dm (pteLoc e2 (ip + n))) (12 - n)
     (n = 12 → th.half = none → here ip 12 e1 → fetchWord s t = .word (wordOfBytes first)) ∧
     (n < 12 → here ip n e1 → here (ip + n) (12 - n) e2 →
       (th.half = none → fetchWord s t = .half false first ∨ fetchWord s t = .half true second) ∧
       (∀ bs, bs.length = n → th.half = some (false, bs) → fetchWord s t = .word (wordOfBytes (bs ++ second))) ∧
       (∀ bs, bs.length = 12 - n → th.half = some (true, bs) → fetchWord s t = .word (wordOfBytes (first ++ bs))))) ∧
  (∀ (s : State) (t : Nat) (rest : List Turn) (w : BitVec 96) (i : Instr),
     s.agenda = .issue t :: rest →
     let s0 : State := { s with agenda := rest }
     let s1 : State := { s0 with cur := t }
     let acts (c : Ctl) : Prop := (guardOf (s.thr t) c).getLsbD 0 = true
     let past (x y : State) : State := if hasIssued (s.thr t) (x.thr t) then turnTakenBy y t else y
     let runs (x : State) : Prop :=
       (∀ s2, ((∀ c, i = .yield c → ¬ acts c) ∨ (s2.thr t).retired ≠ (s.thr t).retired + 1) → exec i x = .next s2 →
         step s = .next (past s2 s2)) ∧
       (∀ c s2, i = .yield c → acts c → exec i x = .next s2 → (s2.thr t).retired = (s.thr t).retired + 1 →
         step s = .next (past s2 (s2.modThr t (fun y => { y with yieldAt := readySlots s2 t })))) ∧
       (∀ f, exec i x = .fault f → step s = .fault f)
     (yieldHolds s0 t = true → step s = .next s1) ∧
     (yieldHolds s0 t = false → s1.atBoundary t →
       (decodeWord (s.prt (s.thr t).part).accept w = .ok i →
         ((s.thr t).word = some w → runs s1) ∧
         ((s.thr t).word = none → fetchWord s1 t = .word w →
           runs (s1.modThr t (fun x => { x with wait := .none, word := some w, half := none })))) ∧
       (∀ b bs, (s.thr t).word = none → fetchWord s1 t = .half b bs →
         step s = .next ({ s1 with freeCtr := s1.freeCtr + 1 }.modThr t (fun x => { x with wait := .none, half := some (b, bs) })))) ∧
     -- which slots a yield waits for, and that the turn of one of them ends that
     (∀ k tk, (k, tk) ∈ readySlots s t ↔ ∃ u ∈ s.coreThreads (coreOf t), u ≠ t ∧ ready s u = true ∧ slotOf u = k ∧
       (s.thr u).task = tk) ∧
     (yieldHolds s t = true ↔ ∃ k tk, (k, tk) ∈ (s.thr t).yieldAt ∧ let u := s.thr (coreOf t * 16 + k)
       u.active = true ∧ u.task = tk ∧ u.stop = 0) ∧
     (∀ u ∈ s.coreThreads (coreOf t), u ≠ t →
       (turnTakenBy s t).thr u = { s.thr u with yieldAt := (s.thr u).yieldAt.filter (fun x => x.1 != slotOf t) }) ∧
     (∀ u, u ∉ s.coreThreads (coreOf t) ∨ u = t → (turnTakenBy s t).thr u = s.thr u)) ∧
  (∀ (s : State) (t : Nat) (rest : List Turn) (w : BitVec 96) (e : DecErr),
     s.agenda = .issue t :: rest →
     let s0 : State := { s with agenda := rest }
     let s1 : State := { s0 with cur := t }
     yieldHolds s0 t = false → s1.atBoundary t → (s.thr t).word = none → fetchWord s1 t = .word w →
     decodeWord (s.prt (s.thr t).part).accept w = .error e →
     ∃ s2 s3 : State, s2 = s1.modThr t (fun x => { x with wait := .none, word := some w, half := none }) ∧
       s3 = takeTrap s2 t false 0x01 (e.tval (Raw.unpack w)) (guardOf (s2.thr t) (Raw.unpack w).ctl) (s.thr t).ip ∧
       step s = .next (if hasIssued (s.thr t) (s3.thr t) then turnTakenBy s3 t else s3))

/-- R330: what a handled trap saves, where it goes, and what it leaves: every other register, predicate and record of its
thread, every other thread and core, and every memory. The thread's slot leaves the waiting lists of its core. In the
model's reading, what a withdrawn instruction holds is given back: a claim of the matrix engine that it has not used
(R246; log entry 28), the place in OUT of a record that it has still to send (R214 says only that OUT rises; log
entry 115), and the word and the half of it that had been fetched (log entry 8). (In part the model's own reading or
choice: assumptions 8, 28 and 115 of the log.) -/
def Obligations.TrapEntry : Prop :=
  ∀ (s : State) (t : Nat) (async : Bool) (code : Nat) (tval : W64) (g : W32) (eip : W64),
    (s.thr t).tvec ≠ 0#64 → (s.thr t).tm = false → code < 2 ^ 8 →
    let s' := takeTrap s t async code tval g eip
    let a := s.thr t
    let b := s'.thr t
    b.eip = eip ∧ b.cause.getLsbD 63 = async ∧ b.cause.extractLsb' 0 63 = BitVec.ofNat 63 code ∧ b.tval = tval ∧
    b.tstatG = g ∧ b.ptm = false ∧ b.tm = true ∧ b.ip = a.tvec ∧
    b.stk = a.stk ∧ b.trapWin = a.trapWin ∧ b.g = a.g ∧ b.p = a.p ∧ b.livep = a.livep ∧ b.v = a.v ∧ b.flags = a.flags ∧
    b.lc = a.lc ∧ b.ls = a.ls ∧ b.le = a.le ∧ b.depth = a.depth ∧ b.low = a.low ∧ b.owed = a.owed ∧ b.groups = a.groups ∧
    b.streams = a.streams ∧ b.ports = a.ports ∧ b.bar = a.bar ∧ b.specOn = a.specOn ∧ b.held = a.held ∧
    b.budRem = a.budRem ∧ b.tvec = a.tvec ∧ b.budEn = a.budEn ∧ b.loopOn = a.loopOn ∧ b.as = a.as ∧ b.ae = a.ae ∧
    b.wsp = a.wsp ∧ b.wacc = a.wacc ∧ b.header = a.header ∧ b.cont = a.cont ∧ b.rver = a.rver ∧ b.fences = a.fences ∧
    b.landing = a.landing ∧ b.async = a.async ∧
    (let k := if a.wait = .claimed ∨ a.wait = .claimStall then releaseEngine (s.core (coreOf t)) t else s.core (coreOf t)
     s'.core (coreOf t) = dropWaiter (if a.outTaken then { k with spawnOut := k.spawnOut - 1 } else k) (slotOf t)) ∧
    b.outTaken = false ∧ b.word = none ∧ b.half = none ∧
    (∀ c, c ≠ coreOf t → s'.core c = s.core c) ∧ s'.routes = s.routes ∧ s'.tlbs = s.tlbs ∧ s'.ats = s.ats ∧
    (∀ k, k ≠ t → s'.thr k = s.thr k) ∧ s'.mem = s.mem ∧ s'.hostMem = s.hostMem ∧ s'.peerMem = s.peerMem ∧
    s'.net = s.net ∧ s'.homes = s.homes ∧ s'.parts = s.parts ∧ s'.copies = s.copies ∧ s'.slots = s.slots

/-- R330, R339: a trap with no handler, or in trap mode, contains the partition of its thread, which is not being
contained yet; no handler runs. FAULTLOG takes the trap's code, the core index and the slot of the thread and the
kind of the containment, and counts it, and FAULTIP takes EIP (R338). An isolated partition (COLL = 0) loses every
thread at once (R340); in a collaborating one the thread keeps what the trap recorded, CAUSE, TVAL, EIP and TSTAT.G,
and issues nothing more (R341). `brk` and `ecall` take their traps (R112, R335): the entry is their effect. EIP of
`ecall` is the next instruction. `eret` (R335): outside an UNWIND it returns to EIP in the mode of PTM; with UNWIND
it ends the task once its replies have landed; outside trap mode it is ILLEGAL. R331, R208: an instruction due with
the budget in force and used up outside trap mode raises BUDGET first, with the task's BUDGET field; it is not
fetched, and EIP holds its address. (In part the model's own reading or choice: assumptions 10, 28 and 43 of the
log.) -/
def Obligations.TrapsAndReturns : Prop :=
  (∀ (s : State) (t : Nat) (async : Bool) (code : Nat) (tval : W64) (g : W32) (eip : W64),
     (s.thr t).active = true → ((s.thr t).tvec = 0#64 ∨ (s.thr t).tm = true) → code < 2 ^ 8 →
     (s.prt (s.thr t).part).present = true → (s.prt (s.thr t).part).containing = .none →
     let p := (s.thr t).part
     let s' := takeTrap s t async code tval g eip
     let log := (s'.prt p).cfReg 0xD1
     (fieldOf log 56 8 = code ∧ fieldOf log 45 11 = (s.prt p).coreIndex (coreOf t) % 2048 ∧ fieldOf log 41 4 = slotOf t ∧
       fieldOf log 34 7 = 0 ∧ fieldOf log 32 2 = (if (s.prt p).coll then 2 else 1) ∧
       fieldOf log 0 32 = (fieldOf ((s.prt p).cfReg 0xD1) 0 32 + 1) % 2 ^ 32 ∧ (s'.prt p).cfReg 0xD2 = eip) ∧
     ((s.prt p).coll = false →
       (s'.prt p).containing = .rollback ∧ ∀ k, ¬ ((s'.thr k).active = true ∧ (s'.thr k).part = p)) ∧
     ((s.prt p).coll = true →
       (s'.prt p).containing = .unwind (some (coreOf t)) [] 0#64 ∧
       let b := s'.thr t
       b.active = true ∧ b.stop = 3 ∧ b.cause.getLsbD 63 = async ∧ b.cause.extractLsb' 0 63 = BitVec.ofNat 63 code ∧
       b.tval = tval ∧ b.eip = eip ∧ b.tstatG = g ∧ b.ip = (s.thr t).ip)) ∧
  (∀ (c : Ctl) (code : BitVec 15) (s : State), Ready c false Uses.none s →
     exec (.brk c code) s = .next (takeTrap s s.cur false 0x09 (code.setWidth 64) (guardOf s.me c) s.me.ip) ∧
     exec (.ecall c code) s = .next (takeTrap s s.cur false 0x0B (code.setWidth 64) (guardOf s.me c) (s.me.ip + 12#64))) ∧
  (∀ (c : Ctl) (s : State), Ready c false Uses.none s →
     (s.me.tm = true → fieldOf s.me.cause 0 8 ≠ 0x70 →
       ∃ s', exec (.eret c) s = .next s' ∧ s'.me.ip = s.me.eip ∧ s'.me.tm = s.me.ptm ∧ s'.me.stk = s.me.stk ∧
         s'.me.trapWin = s.me.trapWin ∧ s'.me.flags = s.me.flags ∧ s'.me.v = s.me.v ∧ s'.me.p = s.me.p ∧
         (∀ k, k ≠ s.cur → s'.thr k = s.thr k) ∧ s'.mem = s.mem) ∧
     (s.me.tm = true → fieldOf s.me.cause 0 8 = 0x70 → s.me.owed = [] →
       exec (.eret c) s = .next (endTask (discardHeld s s.cur) s.cur)) ∧
     (s.me.tm = false → exec (.eret c) s = .next (s.trapped c 0x01 (illegalTval 0 0 0xE3 0 2)))) ∧
  (∀ (s : State) (t : Nat), (s.thr t).active = true → (s.thr t).budEn = true → (s.thr t).budRem = 0 →
     (s.thr t).tm = false → (s.thr t).stop = 0 →
     exec (.budget t) s = .next (takeTrapBetween s t false 0x0A (w64 (hdrBudget (s.thr t).header)) (s.thr t).ip) ∧
     ((s.thr t).tvec ≠ 0#64 →
       ∃ s', exec (.budget t) s = .next s' ∧ (s'.thr t).eip = (s.thr t).ip ∧ (s'.thr t).ip = (s.thr t).tvec ∧
         (s'.thr t).tm = true ∧ (s'.thr t).budRem = 0))

/-- A suppressed instruction (R41), of whatever family: nothing happens but that the thread moves past it, whatever it is
owed (R97); no source is read, no queue entry is taken, no message leaves, no flag is raised. Only a compare writes
its pair (R114, stated with the compares). The interlock (R97): an instruction that executes, of whatever family,
waits while a register it reads or writes is owed a reply, and changes nothing; for the index register of a vector
operand it waits before the register number is checked. In an open region, one of those that R294 refuses raises
SPEC_CONFLICT with its OP, and the region stays open. Check 8 of R46: an instruction of any family with a vector
register outside its allotment raises VREG_RANGE with the lowest failing number, whether or not its guard passes, and
nothing else happens; one that executes has waited for a reply owed to an index register first. Check 7 of R46: a
matrix instruction on a cellar core raises NEAR_ILLEGAL, whether or not its guard passes, and nothing else happens.
(In part the model's own reading or choice: assumptions 88 and 106 of the log.) -/
def Obligations.IssueChecks : Prop :=
  (∀ (i : Instr) (f : WordForm) (s : State),
     wordForm s i = some f → f.always = false → s.me.active = true →
     (f.uses.matrix = true → isCellar (coreOf s.cur) = false) → vregCheck s.me f.uses.groups = none →
     (if f.lane then guardOf s.me f.ctl = 0#32 else (guardOf s.me f.ctl).getLsbD 0 = false) → s.me.loopOn = false →
     ∃ s', exec i s = .next s' ∧ s'.me.ip = s.me.ip + 12#64 ∧
       s.me.sameRegs s'.me (fun _ => True) 0#7 ∧ s.me.sameSpecial s'.me ∧ s'.me.streams = s.me.streams ∧
       (s'.core (coreOf s.cur)).queues = (s.core (coreOf s.cur)).queues ∧ s'.routes = s.routes ∧
       (∀ k, k ≠ s.cur → s'.thr k = s.thr k) ∧ s'.mem = s.mem ∧ s'.hostMem = s.hostMem ∧ s'.peerMem = s.peerMem ∧
       s'.net = s.net ∧ s'.copies = s.copies ∧ s'.slots = s.slots) ∧
  (∀ (i : Instr) (f : WordForm) (s : State),
     wordForm s i = some f → s.me.active = true → (f.uses.matrix = true → isCellar (coreOf s.cur) = false) →
     (if f.lane then guardOf s.me f.ctl ≠ 0#32 else (guardOf s.me f.ctl).getLsbD 0 = true) →
     (s.me.owes (f.uses.indexRegs s.me) = true → exec i s = .next s) ∧
     (vregCheck s.me f.uses.groups = none →
       ((s.me.specOn = true → f.uses.conflict = none) → s.me.owes (f.uses.regs s.me) = true → exec i s = .next s) ∧
       (∀ op, s.me.specOn = true → f.uses.conflict = some op → s.me.owes (f.uses.indexRegs s.me) = false →
         exec i s = .next (s.trapped f.ctl 0x53 (w64 op))))) ∧
  (∀ (i : Instr) (f : WordForm) (s : State) (r : Nat),
     wordForm s i = some f → s.me.active = true → (f.uses.matrix = true → isCellar (coreOf s.cur) = false) →
     ((if f.lane then guardOf s.me f.ctl ≠ 0#32 else (guardOf s.me f.ctl).getLsbD 0 = true) →
       s.me.owes (f.uses.indexRegs s.me) = false) → vregCheck s.me f.uses.groups = some r →
     exec i s = .next (s.trapped f.ctl 0x03 (w64 r))) ∧
  (∀ (c : Ctl) (f : Ty) (md : CvtMode) (v : VReg) (z : GenMat) (acc : BitVec 6) (a : VV) (m : WI) (d : BitVec 5) (s : State),
     s.me.active = true → isCellar (coreOf s.cur) = true →
     ∀ i ∈ [Instr.ldwC c f v, .ldwK c f v, .ldwg c f z, .ldws c v, .swpw c, .mma c f acc a m, .mmaSc c f acc a m,
         .mmag c f acc z m, .accz c acc m, .accrd c f md v acc, .accwr c f acc v, .mstat c d m],
       exec i s = .next (s.trapped c 0x02 0#64))

/-! ## Scalar instructions -/

/-- What each form of a scalar source gives, and what reading it changes (R34, R98, R100, R101, R106). Where each form of
a scalar destination puts a value (R98, R99, R101, R106, R292). What the forms of a lane source give (R35, R127,
R128): the low bits of a register's lanes, one scalar for every lane, or the lanes of a stream element. (In part the
model's own reading or choice: assumptions 23, 24, 29 and 108 of the log.) -/
def Obligations.OperandForms : Prop :=
  (∀ (t : Ty) (s : State),
     (∀ r, Reads (readSrc64 t (.w r)) s (s.me.w r.toNat) s) ∧
     (∀ v, Reads (readSrc64 t (.imm v)) s (w64 (immVal t v)) s) ∧
     (∀ r, Reads (readSrc64 t (.g r)) s (s.me.gReg r.toNat) s) ∧
     -- a queue gives its oldest entry, when nobody waits before the thread
     (∀ (k : BitVec 4) (x : W64) (xs : List W64), (s.core (coreOf s.cur)).q k.toNat = x :: xs →
       servedNext (SMap.get [] (s.core (coreOf s.cur)).qReaders k.toNat) (slotOf s.cur) = true →
       ∃ s', Reads (readSrc64 t (.q k)) s x s' ∧ (s'.core (coreOf s.cur)).q k.toNat = xs ∧ s'.me.stk = s.me.stk ∧
         s'.mem = s.mem) ∧
     -- an empty queue, or one that others wait for, makes the reader wait behind them
     (∀ k : BitVec 4, (s.core (coreOf s.cur)).q k.toNat = [] ∨
         servedNext (SMap.get [] (s.core (coreOf s.cur)).qReaders k.toNat) (slotOf s.cur) = false →
       readSrc64 t (.q k) s = blockWith (joinReaders k.toNat) s) ∧
     (∀ k j : Nat, let l (x : State) : List Nat := SMap.get [] (x.core (coreOf s.cur)).qReaders j
       l (joinReaders k s) = (if j = k ∧ slotOf s.cur ∉ l s then l s ++ [slotOf s.cur] else l s)) ∧
     -- a stream that is unbound, or has too little left, ends or faults; one whose bytes are still to come waits
     (∀ k : BitVec 3, let st := s.me.stream k.toNat
       let left := st.buf.length + st.toCome
       let ends : Prop := ∃ fix tv, readSrc64 t (.s k) s = .error (.trap fix 0x06 tv) ∧ fix s = s ∧ tv s = w64 left
       (st.bound = false → ends) ∧ (st.bound = true → left < 8 → st.ecode = 0 → ends) ∧
       (st.bound = true → left < 8 → st.ecode ≠ 0 → let g := s.me.group st.grp
         ∃ fix tv, readSrc64 t (.s k) s = .error (.trap fix 0x40 tv) ∧ tv s = groupWord { g with ecode := st.ecode, epos := st.epos } ∧
           (fix s).me.group st.grp = (if g.err = true ∧ g.src = st.copyId
             then { g with err := false, ecode := 0, epos := 0, src := 0 } else g) ∧ (fix s).me.streams = s.me.streams) ∧
       (st.bound = true → st.buf.length < 8 → 8 ≤ left → readSrc64 t (.s k) s = block s)) ∧
     -- a stream gives its next eight bytes, lowest first
     (∀ (k : BitVec 3), (s.me.stream k.toNat).bound = true → 8 ≤ (s.me.stream k.toNat).buf.length →
       ∃ s', Reads (readSrc64 t (.s k)) s (bytesWord ((s.me.stream k.toNat).buf.take 8)) s' ∧
         (s'.me.stream k.toNat).buf = (s.me.stream k.toNat).buf.drop 8 ∧ s'.me.stk = s.me.stk ∧ s'.mem = s.mem) ∧
     -- a port gives the oldest word of the route that delivers to its channel
     (∀ (k : BitVec 3) (chan : Nat) (r : Route) (x : W64) (ws : List (Option W64)), s.me.port k.toNat = .rx chan →
       s.chanRoute (coreOf s.cur) chan = some r → r.words = some x :: ws → (r.closed = false ∨ none ∈ ws) →
       ∃ s', Reads (readSrc64 t (.n k)) s x s' ∧ s'.me = s.me ∧ s'.mem = s.mem ∧
         (s'.routes.find? (fun y => y.id == r.id)).map Route.words = some ws) ∧
     -- a closing marker in front ends the read, and is gone; an empty route, or none, makes it wait; a port that does not receive traps
     (∀ (k : BitVec 3) (chan : Nat) (r : Route) (ws : List (Option W64)), s.me.port k.toNat = .rx chan →
       s.chanRoute (coreOf s.cur) chan = some r → r.words = none :: ws →
       ∃ tv, readSrc64 t (.n k) s = .error (.trap (consumeMarker chan) 0x51 tv) ∧
         tv s = w64 ((s.prt s.me.part).coreIndex r.src) ∧
         ((∀ w ∈ ws, w = none) → ∀ x ∈ (consumeMarker chan s).routes, x.id ≠ r.id)) ∧
     (∀ (k : BitVec 3) (chan : Nat), s.me.port k.toNat = .rx chan →
       (s.chanRoute (coreOf s.cur) chan = none ∨ ∃ r, s.chanRoute (coreOf s.cur) chan = some r ∧ r.words = []) →
       readSrc64 t (.n k) s = block s) ∧
     (∀ k : BitVec 3, (∀ chan, s.me.port k.toNat ≠ .rx chan) →
       readSrc64 t (.n k) s = trap 0x08 (w64 k.toNat) s)) ∧
  (∀ (v : W64) (s : State),
     (∀ r : BitVec 5, ∃ s', Reads (writeDst (.w r) v) s () s' ∧ s'.me.w r.toNat = v ∧
       (∀ x, x ≠ s.me.preg r.toNat → s'.me.readP x = s.me.readP x) ∧ s'.mem = s.mem) ∧
     (∀ k : BitVec 4, s.fencesOver s.cur allPaths = true → ((s.core (coreOf s.cur)).q k.toNat).length < 8 →
       servedNext (SMap.get [] (s.core (coreOf s.cur)).qWriters k.toNat) (slotOf s.cur) = true →
       ∃ s', Reads (writeDst (.q k) v) s () s' ∧
         (s'.core (coreOf s.cur)).q k.toNat = (s.core (coreOf s.cur)).q k.toNat ++ [v] ∧ s'.me.stk = s.me.stk) ∧
     (∀ (k : BitVec 3) (id : Nat) (r : Route), s.fencesOver s.cur allPaths = true → s.me.port k.toNat = .tx id →
       s.routes.find? (fun y => y.id == id) = some r → r.dropped = false → r.words.length < 8 →
       ∃ s', Reads (writeDst (.n k) v) s () s' ∧ s'.me = s.me ∧
         (s'.routes.find? (fun y => y.id == id)).map Route.words = some (r.words ++ [some v])) ∧
     -- a full queue, or one that others wait to write, makes the writer wait behind them; a full route makes it wait
     (∀ k : BitVec 4, s.fencesOver s.cur allPaths = true → (8 ≤ ((s.core (coreOf s.cur)).q k.toNat).length ∨
         servedNext (SMap.get [] (s.core (coreOf s.cur)).qWriters k.toNat) (slotOf s.cur) = false) →
       writeDst (.q k) v s = blockWith (joinWriters k.toNat) s) ∧
     (∀ k j : Nat, let l (x : State) : List Nat := SMap.get [] (x.core (coreOf s.cur)).qWriters j
       l (joinWriters k s) = (if j = k ∧ slotOf s.cur ∉ l s then l s ++ [slotOf s.cur] else l s)) ∧
     (∀ (k : BitVec 3) (id : Nat) (r : Route), s.fencesOver s.cur allPaths = true → s.me.port k.toNat = .tx id →
       s.routes.find? (fun y => y.id == id) = some r → r.dropped = false → 8 ≤ r.words.length →
       writeDst (.n k) v s = block s) ∧
     -- a fence that waits holds the write of a queue or a port back, for its accesses come first (R99, R292)
     (∀ k : BitVec 4, s.fencesOver s.cur allPaths = false → writeDst (.q k) v s = block s) ∧
     (∀ (k : BitVec 3) (id : Nat), s.fencesOver s.cur allPaths = false → s.me.port k.toNat = .tx id →
       writeDst (.n k) v s = block s) ∧
     -- a port that is not bound to send traps
     (∀ (k : BitVec 3), (∀ id, s.me.port k.toNat ≠ .tx id) →
       ∃ tv, writeDst (.n k) v s = .error (.trap (fun s => s) 0x08 tv) ∧ tv s = w64 k.toNat)) ∧
  (∀ (t : Ty) (s : State),
     (∀ r, ∃ s', Reads (readLanes t (.reg r)) s
         ((List.range 32).map (fun i => (s.me.lane (s.me.vIdx r) i).toNat % 2 ^ tyWidth t)) s' ∧ s'.me = s.me ∧ s'.mem = s.mem) ∧
     (∀ a, plainSrc a = true →
       Reads (readLanes t (.sc a)) s (List.replicate 32 ((plainVal s.me t a).toNat % 2 ^ tyWidth t)) s) ∧
     (∀ k : BitVec 3, (s.me.stream k.toNat).bound = true → 128 ≤ (s.me.stream k.toNat).buf.length →
       ∃ s', Reads (readLanes t (.sc (.s k))) s
         ((bytesLanes 32 ((s.me.stream k.toNat).buf.take 128)).map (fun w => w.toNat % 2 ^ tyWidth t)) s' ∧
         (s'.me.stream k.toNat).buf = (s.me.stream k.toNat).buf.drop 128 ∧ s'.me.v = s.me.v))

/-- Every scalar instruction with two sources of its type (R119, R120, R123): the sources are read in order, the result
of its operation is written to the destination, extended to 64 bits, its flags are raised, and the thread goes on.
The scalar instructions with one source (R119, R124): counts, extensions and conversion. The count of leading zeros
is n for 0, and the number of zeros above the highest one otherwise; the population count is the number of ones; a
result is extended to 64 bits by its type, with the sign for `.iN` and zeros for `.bN`, which is all that `sext` and
`zext` do (R107, R119). -/
def Obligations.ScalarArithmetic : Prop :=
  (∀ p ∈ scalarTwo, ∀ (c : Ctl) (t : Ty) (d : Dst) (a b : Src) (s s1 s2 s3 : State) (x y : Nat),
     Ready c false (twoUses p.1 d a b) s →
     Reads (readSrc t a) (s.begun (twoUses p.1 d a b)) x s1 → Reads (readSrc t b) s1 y s2 →
     Reads (writeResult t d (p.2.2 t x y).1) s2 () s3 →
     exec (p.2.1 c t d a b) s = .next (retire (s3.modMe (fun th => th.raise (p.2.2 t x y).2)) .seq)) ∧
  ((∀ p ∈ scalarOne, ∀ (c : Ctl) (t : Ty) (d : Dst) (a : Src) (s s1 s2 : State) (x : Nat),
     Ready c false (oneUses p.1 d a) s → Reads (readSrc t a) (s.begun (oneUses p.1 d a)) x s1 →
     Reads (writeResult t d (p.2.2 t x)) s1 () s2 → exec (p.2.1 c t d a) s = .next (retire s2 .seq)) ∧
   (∀ (c : Ctl) (dt st : Ty) (m : CvtMode) (d : Dst) (a : Src) (s s1 s2 : State) (x : Nat),
     Ready c false (oneUses 0x3E d a) s → Reads (readSrc st a) (s.begun (oneUses 0x3E d a)) x s1 →
     Reads (writeResult dt d (convert dt st m x).1) s1 () s2 →
     exec (.fcvt c dt st m d a) s = .next (retire (s2.modMe (fun th => th.raise (convert dt st m x).2)) .seq))) ∧
  (∀ (t : Ty), tyIB t = true → ∀ (x : Nat), x < 2 ^ tyWidth t →
     let n := tyWidth t
     let a : BitVec n := BitVec.ofNat n x
     (∀ k, iClz t x = k ↔ k ≤ n ∧ (∀ i, n - k ≤ i → a.getLsbD i = false) ∧ (k < n → a.getLsbD (n - 1 - k) = true)) ∧
     iPopc t x = (List.range n).countP (fun i => a.getLsbD i) ∧
     result64 t x = (if tyI t then a.signExtend 64 else a.setWidth 64))

/-- Moves, selections, addresses and bit fields (R38, R119, R121, R122), and the fused multiply-add (R123). R122: with
pos = b<5:0> and len = b<12:6>, at most 64: `bext` takes bits pos to pos + len − 1 of a, zeros beyond bit 63, and
extends them with zeros or with their highest bit; `bins` puts the low len bits of a there and leaves the other bits
of wd; bits beyond 63 are dropped. -/
def Obligations.ScalarMoves : Prop :=
  (∀ (c : Ctl) (s s1 s2 s3 : State),
     (∀ (t : Ty) (k : BitVec 4) (d : Dst) (a b : Src) (x y : Nat), Ready c false (twoUses 0x32 d a b) s →
       Reads (readSrc t a) (s.begun (twoUses 0x32 d a b)) x s1 → Reads (readSrc t b) s1 y s2 →
       Reads (writeResult t d (if (s2.me.pred k.toNat).getLsbD 0 then x else y)) s2 () s3 →
       exec (.sel c t k d a b) s = .next (retire s3 .seq)) ∧
     (∀ (t : Ty) (d : Dst) (a : Src) (x : Nat), Ready c false (oneUses 0x33 d a) s →
       Reads (readSrc t a) (s.begun (oneUses 0x33 d a)) x s1 → Reads (writeResult t d x) s1 () s2 →
       exec (.mov c t (.dst d) (.src a)) s = .next (retire s2 .seq)) ∧
     (∀ (t : Ty) (l : LoopReg) (a : Src) (x : Nat), Ready c false (Uses.none.and (Uses.src a)) s →
       Reads (readSrc t a) (s.begun (Uses.none.and (Uses.src a))) x s1 →
       exec (.mov c t (.loop l) (.src a)) s = .next (retire (s1.modMe (fun th => th.setLoopReg l (result64 t x))) .seq)) ∧
     (∀ (t : Ty) (d : Dst) (l : LoopReg), Ready c false ((Uses.dst 0x33 d).and Uses.none) s →
       Reads (writeResult t d (((s.begun ((Uses.dst 0x33 d).and Uses.none)).me.loopVal l).toNat % 2 ^ tyWidth t))
         (s.begun ((Uses.dst 0x33 d).and Uses.none)) () s1 →
       exec (.mov c t (.dst d) (.loop l)) s = .next (retire s1 .seq)) ∧
     (∀ (t : Ty) (l k : LoopReg), Ready c false (Uses.none.and Uses.none) s →
       exec (.mov c t (.loop l) (.loop k)) s =
         .next (retire (s.modMe (fun th => th.setLoopReg l (result64 t ((s.me.loopVal k).toNat % 2 ^ tyWidth t)))) .seq)) ∧
     (∀ (d : BitVec 5) (v : BitVec 36), Ready c false (Uses.w d) s →
       exec (.movi c d v) s = .next (retire (s.modMe (fun th => th.setW d.toNat (v.signExtend 64))) .seq)) ∧
     (∀ (d : BitVec 5) (v : BitVec 28), Ready c false (Uses.w d) s →
       exec (.moviH c d v) s =
         .next (retire (s.modMe (fun th => th.setW d.toNat (v ++ (s.me.w d.toNat).extractLsb' 0 36))) .seq)) ∧
     (∀ (d : Dst) (off : BitVec 15), Ready c false (Uses.dst 0x35 d) s →
       Reads (writeDst d ((s.begun (Uses.dst 0x35 d)).me.ip + 4#64 * off.signExtend 64)) (s.begun (Uses.dst 0x35 d)) () s1 →
       exec (.lea c d off) s = .next (retire s1 .seq)) ∧
     (∀ (sh : BitVec 2) (d : Dst) (a b : Src) (x y : W64), Ready c false (twoUses 0x35 d a b) s →
       Reads (readSrc64 .i64 a) (s.begun (twoUses 0x35 d a b)) x s1 → Reads (readSrc64 .i64 b) s1 y s2 →
       Reads (writeDst d (x + y <<< sh.toNat)) s2 () s3 → exec (.leaScaled c sh d a b) s = .next (retire s3 .seq)) ∧
     (∀ (t : Ty) (d : Dst) (a b : Src) (x y : W64), Ready c false (twoUses 0x36 d a b) s →
       Reads (readSrc64 t a) (s.begun (twoUses 0x36 d a b)) x s1 → Reads (readSrc64 t b) s1 y s2 →
       Reads (writeDst d (extractBits t x y)) s2 () s3 → exec (.bext c t d a b) s = .next (retire s3 .seq)) ∧
     (∀ (d : BitVec 5) (a b : Src) (x y : W64), Ready c false (((Uses.w d).and (Uses.src a)).and (Uses.src b)) s →
       Reads (readSrc64 .b64 a) (s.begun (((Uses.w d).and (Uses.src a)).and (Uses.src b))) x s1 →
       Reads (readSrc64 .b64 b) s1 y s2 →
       exec (.bins c d a b) s =
         .next (retire (s2.modMe (fun th => th.setW d.toNat (insertBits (s2.me.w d.toNat) x y))) .seq)) ∧
     (∀ (t : Ty) (d : BitVec 5) (a b : Src) (x y : Nat), Ready c false (((Uses.w d).and (Uses.src a)).and (Uses.src b)) s →
       Reads (readSrc t a) (s.begun (((Uses.w d).and (Uses.src a)).and (Uses.src b))) x s1 → Reads (readSrc t b) s1 y s2 →
       let r := fFma (tyFmt t) ((s2.me.w d.toNat).toNat % 2 ^ tyWidth t) x y
       exec (.ffma c t d a b) s =
         .next (retire ((s2.modMe (fun th => th.setW d.toNat (result64 t r.1))).modMe (fun th => th.raise r.2)) .seq))) ∧
  (∀ (a b old : W64) (k : Nat), k < 64 →
     let pos := (b.extractLsb' 0 6).toNat
     let len := min (b.extractLsb' 6 7).toNat 64
     (extractBits .b64 a b).getLsbD k = (decide (k < len) && a.getLsbD (pos + k)) ∧
     (extractBits .i64 a b).getLsbD k = (if k < len then a.getLsbD (pos + k) else decide (0 < len) && a.getLsbD (pos + len - 1)) ∧
     (insertBits old a b).getLsbD k = (if pos ≤ k ∧ k < pos + len then a.getLsbD (k - pos) else old.getLsbD k))

/-- What the integer operations are on n-bit elements (R119, R130): the machine operations of BitVec. R113: what the
conditions of an integer compare are on n-bit elements. R113: the float conditions: with a NaN operand only `uno` is
true; without one it is false, and the others compare the exact values, −0 equal to +0 and ∞ beyond every finite
value. R56, R57, R59: the sums and products of two values and the fused multiply-add: the exact result, rounded once
to nearest; the sign of an exact zero; what NaN and ∞ give, and the invalid operations. Subtraction is the addition
of the negated value. R60 to R62, R124: a conversion: float to float by one rounding, with what NaN and ∞ give, and
to the same type unchanged but for NaN; float to integer by rounding in the mode, with the integer indefinite pattern
or, with `.sat`, the nearest limit where it does not fit; integer to integer by the low bits, or with `.sat` to no
wider a type the nearest limit, with OF (at equal widths the model's choice: R62 names narrowing only); an integer,
INT4S among them, to a float by one rounding. A reserved INT4S code is 0 and raises RC. (In part the model's own
reading or choice: assumptions 107 and 117 of the log.) -/
def Obligations.IntegerOperations : Prop :=
  (∀ (t : Ty), tyIB t = true → ∀ (x y : Nat), x < 2 ^ tyWidth t → y < 2 ^ tyWidth t →
     let n := tyWidth t
     let a : BitVec n := BitVec.ofNat n x
     let b : BitVec n := BitVec.ofNat n y
     iAdd t x y = (a + b).toNat ∧ iSub t x y = (a - b).toNat ∧ iMul t x y = (a * b).toNat ∧
     iAnd t x y = (a &&& b).toNat ∧ iOr t x y = (a ||| b).toNat ∧ iXor t x y = (a ^^^ b).toNat ∧
     iAndn t x y = (a &&& ~~~b).toNat ∧
     iShl t x y = (a <<< (y % n)).toNat ∧ iShr t x y = (a >>> (y % n)).toNat ∧ iSar t x y = (a.sshiftRight (y % n)).toNat ∧
     iRot t x y = (a.rotateLeft (y % n)).toNat ∧
     iMulh t x y = (if tyI t then ((a.signExtend (2 * n) * b.signExtend (2 * n)).extractLsb' n n).toNat
       else ((a.setWidth (2 * n) * b.setWidth (2 * n)).extractLsb' n n).toNat) ∧
     iMin t x y = (if tyI t then (if a.sle b then x else y) else min x y) ∧
     iMax t x y = (if tyI t then (if a.sle b then y else x) else max x y)) ∧
  (∀ (t : Ty), tyIB t = true → ∀ (x y : Nat), x < 2 ^ tyWidth t → y < 2 ^ tyWidth t →
     let a : BitVec (tyWidth t) := BitVec.ofNat _ x
     let b : BitVec (tyWidth t) := BitVec.ofNat _ y
     iCond .eq t x y = (x == y) ∧ iCond .ne t x y = (x != y) ∧ iCond .lt t x y = a.slt b ∧ iCond .le t x y = a.sle b ∧
     iCond .gt t x y = b.slt a ∧ iCond .ge t x y = b.sle a ∧ iCond .lo t x y = a.ult b ∧ iCond .ls t x y = a.ule b ∧
     iCond .hi t x y = b.ult a ∧ iCond .hs t x y = b.ule a) ∧
  (∀ (t : Ty) (x y : Nat),
     let a := fdec (tyFmt t) x
     let b := fdec (tyFmt t) y
     ((a = .nan ∨ b = .nan) → fCond .oeq t x y = false ∧ fCond .olt t x y = false ∧ fCond .ole t x y = false ∧
       fCond .uno t x y = true) ∧
     (a ≠ .nan → b ≠ .nan → fCond .uno t x y = false) ∧
     (∀ na ma ea nb mb eb, a = .fin na ma ea → b = .fin nb mb eb →
       let u := signedMag na (ma * 2 ^ (ea - min ea eb).toNat)
       let v := signedMag nb (mb * 2 ^ (eb - min ea eb).toNat)
       fCond .oeq t x y = decide (u = v) ∧ fCond .olt t x y = decide (u < v) ∧ fCond .ole t x y = decide (u ≤ v)) ∧
     (∀ n nb mb eb, a = .inf n → b = .fin nb mb eb →
       fCond .oeq t x y = false ∧ fCond .olt t x y = n ∧ fCond .ole t x y = n) ∧
     (∀ na ma ea n, a = .fin na ma ea → b = .inf n →
       fCond .oeq t x y = false ∧ fCond .olt t x y = !n ∧ fCond .ole t x y = !n) ∧
     (∀ n m, a = .inf n → b = .inf m →
       fCond .oeq t x y = (n == m) ∧ fCond .olt t x y = (n && !m) ∧ fCond .ole t x y = (n || !m))) ∧
  (∀ (f : FFmt) (a b d : Nat),
     let A := fdec f a
     let B := fdec f b
     let D := fdec f d
     -- the sum of two exact values
     let summed (na : Bool) (ma : Nat) (ea : Int) (nb : Bool) (mb : Nat) (eb : Int) (r : Nat × Fl) : Prop :=
       let lo := min ea eb
       let v := signedMag na (ma * 2 ^ (ea - lo).toNat) + signedMag nb (mb * 2 ^ (eb - lo).toNat)
       (v ≠ 0 → r = roundNz f 0#2 false (decide (v < 0)) v.natAbs lo) ∧
       (v = 0 → r = (f.signed (na && nb) 0, 0#7))
     (∀ na ma ea nb mb eb, A = .fin na ma ea → B = .fin nb mb eb →
       summed na ma ea nb mb eb (fAdd f a b) ∧ summed na ma ea (!nb) mb eb (fSub f a b) ∧
       (ma * mb ≠ 0 → fMul f a b = roundNz f 0#2 false (na != nb) (ma * mb) (ea + eb)) ∧
       (ma * mb = 0 → fMul f a b = (f.signed (na != nb) 0, 0#7)) ∧
       (∀ nd md ed, D = .fin nd md ed → summed nd md ed (na != nb) (ma * mb) (ea + eb) (fFma f d a b))) ∧
     ((A = .nan ∨ B = .nan) → fAdd f a b = (f.nan, 0#7) ∧ fSub f a b = (f.nan, 0#7) ∧ fMul f a b = (f.nan, 0#7) ∧
       fFma f d a b = (f.nan, 0#7)) ∧
     (∀ x y, A = .inf x → B = .inf y → fAdd f a b = (if x = y then (finf f x, 0#7) else (f.nan, flIV)) ∧
       fSub f a b = (if x = y then (f.nan, flIV) else (finf f x, 0#7)) ∧ fMul f a b = (finf f (x != y), 0#7)) ∧
     (∀ x n m e, A = .inf x → B = .fin n m e →
       fAdd f a b = (finf f x, 0#7) ∧ fSub f a b = (finf f x, 0#7) ∧ fAdd f b a = (finf f x, 0#7) ∧
       (m ≠ 0 → fMul f a b = (finf f (x != n), 0#7) ∧ fMul f b a = (finf f (n != x), 0#7)) ∧
       (m = 0 → fMul f a b = (f.nan, flIV) ∧ fMul f b a = (f.nan, flIV) ∧ fFma f d a b = (f.nan, flIV) ∧
         fFma f d b a = (f.nan, flIV))) ∧
     -- an addend that is NaN or ∞
     (D = .nan → (fFma f d a b).1 = f.nan) ∧
     (∀ x na ma ea nb mb eb, D = .inf x → A = .fin na ma ea → B = .fin nb mb eb → fFma f d a b = (finf f x, 0#7)) ∧
     (∀ x y n m e, D = .inf x → A = .inf y → B = .fin n m e → m ≠ 0 →
       fFma f d a b = (if x = (y != n) then (finf f x, 0#7) else (f.nan, flIV))) ∧
     -- the smaller and the larger of two values: −0 lies below +0, and a NaN gives the canonical NaN
     ((A = .nan ∨ B = .nan) → fMinMax false f a b = f.nan ∧ fMinMax true f a b = f.nan) ∧
     (A ≠ .nan → B ≠ .nan → valLt A B = true ∨ (valLt B A = false ∧ valNeg A = true ∧ valNeg B = false) →
       fMinMax false f a b = a % 2 ^ f.width ∧ fMinMax true f a b = b % 2 ^ f.width) ∧
     (A ≠ .nan → B ≠ .nan → valLt A B = false → (valLt B A = true ∨ ¬ (valNeg A = true ∧ valNeg B = false)) →
       fMinMax false f a b = b % 2 ^ f.width ∧ fMinMax true f a b = a % 2 ^ f.width)) ∧
  (∀ (dt st : Ty) (md : CvtMode) (x : Nat),
     let v := fdec (tyFmt st) (x % 2 ^ tyWidth st)
     let f := tyFmt dt
     let lo := (intRange dt).1
     let hi := (intRange dt).2
     (tyFloat st = true → tyFloat dt = true → dt ≠ st →
       (v = .nan → convert dt st md x = (f.nan, 0#7)) ∧
       (∀ n, v = .inf n → convert dt st md x = (if f.e4 then (if md.sat then f.signed n f.maxMag else f.nan, flIV)
         else (f.signed n f.infMag, 0#7))) ∧
       (∀ n m e, v = .fin n m e → (m = 0 → convert dt st md x = (f.signed n 0, 0#7)) ∧
         (m ≠ 0 → convert dt st md x = roundNz f md.mode md.sat n m e))) ∧
     (tyFloat st = true → tyFloat dt = false →
       (v = .nan → convert dt st md x = (if md.sat then 0 else 2 ^ (tyWidth dt - 1), flIV)) ∧
       (∀ n, v = .inf n → convert dt st md x =
         (if md.sat then wrapInt (tyWidth dt) (if n then lo else hi) else 2 ^ (tyWidth dt - 1), flIV)) ∧
       (∀ n m e k, v = .fin n m e → Quanta md.mode n m e 0 k →
         let y := signedMag n k
         convert dt st md x =
           (if y < lo then (if md.sat then wrapInt (tyWidth dt) lo else 2 ^ (tyWidth dt - 1), flIV)
            else if hi < y then (if md.sat then wrapInt (tyWidth dt) hi else 2 ^ (tyWidth dt - 1), flIV)
            else (wrapInt (tyWidth dt) y, if QuantaExact m e 0 k then 0#7 else flNX)))) ∧
     (tyFloat st = false → st ≠ .int4s → tyFloat dt = false →
       convert dt st md x =
         (if md.sat = true ∧ tyWidth dt ≤ tyWidth st ∧ elemInt st x < lo then (wrapInt (tyWidth dt) lo, flOF)
          else if md.sat = true ∧ tyWidth dt ≤ tyWidth st ∧ hi < elemInt st x then (wrapInt (tyWidth dt) hi, flOF)
          else (wrapInt (tyWidth dt) (elemInt st x), 0#7))) ∧
     (tyFloat st = false → st ≠ .int4s → tyFloat dt = true →
       (elemInt st x = 0 → convert dt st md x = (f.signed false 0, 0#7)) ∧
       (elemInt st x ≠ 0 → convert dt st md x =
         roundNz f md.mode md.sat (decide (elemInt st x < 0)) (elemInt st x).natAbs 0)) ∧
     -- to the same float type: the operand, or the canonical NaN
     (tyFloat st = true → dt = st → convert dt st md x = (if v = .nan then f.nan else x % 2 ^ tyWidth st, 0#7)) ∧
     (x % 16 = 8 → convert dt .int4s md x = (0, flRC)) ∧
     -- every other INT4S code lies between −7 and 7, so that nothing clamps
     (x % 16 ≠ 8 → tyFloat dt = false → dt ≠ .int4x → convert dt .int4s md x = (wrapInt (tyWidth dt) (toSigned 4 x), 0#7)) ∧
     (x % 16 ≠ 8 → tyFloat dt = true →
       (toSigned 4 x = 0 → convert dt .int4s md x = (f.signed false 0, 0#7)) ∧
       (toSigned 4 x ≠ 0 → convert dt .int4s md x =
         roundNz f md.mode md.sat (decide (toSigned 4 x < 0)) (toSigned 4 x).natAbs 0)))

/-- R120, whole: the quotient rounds towards zero, the remainder is a − b · quotient; for b = 0 the quotient is all ones,
the remainder a, and DZ is set without a trap; −2^(n−1) divided by −1 gives −2^(n−1) and 0, with no flag. R57, R58: a
nonzero exact value ±m · 2^e rounded to a format. The quantum is that of the value's exponent, or that of the
subnormals; the number of quanta is the exact one rounded in the mode. Beyond the largest finite value the result is
∞ or the largest finite value as the mode says, the canonical NaN in E4M3, or with `.sat` the largest finite value,
with overflow and inexact; otherwise the result is that number of quanta, inexact where it is not the exact value,
with underflow where it is tiny too. R132, R59: the reciprocal of a value, and of a square root, for the types that
have them: the exact result rounded once to nearest, bracketed here by the halves of its quantum; powers of two and
logarithms where the exact result is a power of two or an integer; and the special values of the four. (The results
of `vexp2` and `vlog2` that no number of bits gives exactly: assumption 80 of the log, not stated here.) -/
def Obligations.DivisionRules : Prop :=
  (∀ (t : Ty), tyIB t = true → ∀ (x y : Nat), x < 2 ^ tyWidth t → y < 2 ^ tyWidth t →
     let n := tyWidth t
     (y ≠ 0 → ¬ (tyI t = true ∧ x = 2 ^ (n - 1) ∧ y = 2 ^ n - 1) →
       elemInt t (iDiv t x y) = (elemInt t x).tdiv (elemInt t y) ∧
       elemInt t (iRem t x y) = elemInt t x - elemInt t y * elemInt t (iDiv t x y)) ∧
     (y = 0 → iDiv t x y = 2 ^ n - 1 ∧ iRem t x y = x) ∧
     (tyI t = true → x = 2 ^ (n - 1) → y = 2 ^ n - 1 → iDiv t x y = 2 ^ (n - 1) ∧ iRem t x y = 0) ∧
     (∀ (c : Ctl) (d : Dst) (a b : Src) (s s1 s2 s3 : State) (v : Nat), ∀ q ∈ [(0x24, Instr.div, iDiv), (0x25, Instr.rem, iRem)],
       v = q.2.2 t x y → Ready c false (twoUses q.1 d a b) s →
       Reads (readSrc t a) (s.begun (twoUses q.1 d a b)) x s1 → Reads (readSrc t b) s1 y s2 →
       Reads (writeResult t d v) s2 () s3 →
       exec (q.2.1 c t d a b) s = .next (retire (s3.modMe (fun th => th.raise (if y = 0 then flDZ else 0#7))) .seq))) ∧
  (∀ f ∈ [fmtF32, fmtBf16, fmtE4, fmtE5, fmtF56], ∀ (mode : BitVec 2) (sat neg : Bool) (m : Nat) (e : Int) (n n0 M : Nat) (E : Int),
     m ≠ 0 → fdec f f.maxMag = .fin false M E →
     let q0 : Int := e + Nat.log2 m - f.fb
     let q := max q0 f.qmin
     let r := roundNz f mode sat neg m e
     Quanta mode neg m e q0 n0 → Quanta mode neg m e q n →
     (dyLt M E n0 q0 = true → r.2 = flOF ||| flNX ∧
       r.1 = (if sat then f.signed neg f.maxMag else if f.e4 then f.nan
         else f.signed neg (if mode = 0#2 ∨ (mode = 2#2 ∧ neg = false) ∨ (mode = 3#2 ∧ neg = true) then f.infMag else f.maxMag))) ∧
     (dyLt M E n0 q0 = false →
       (fdec f r.1 = .fin neg n q ∨ (n = 2 ^ (f.fb + 1) ∧ fdec f r.1 = .fin neg (2 ^ f.fb) (q + 1))) ∧
       r.2 = (if QuantaExact m e q n then 0#7 else if dyLt n0 q0 (2 ^ f.fb) f.qmin = true then flUF ||| flNX else flNX))) ∧
  (∀ f ∈ [fmtF32, fmtBf16], ∀ a : Nat,
     let A := fdec f a
     (A = .nan → fRcp f a = (f.nan, 0#7) ∧ fRsq f a = (f.nan, 0#7) ∧ fExp2 f a = (f.nan, 0#7) ∧ fLog2 f a = (f.nan, 0#7)) ∧
     (A = .inf false → fRcp f a = (f.signed false 0, 0#7) ∧ fRsq f a = (f.signed false 0, 0#7) ∧
       fExp2 f a = (f.signed false f.infMag, 0#7) ∧ fLog2 f a = (f.signed false f.infMag, 0#7)) ∧
     (A = .inf true → fRcp f a = (f.signed true 0, 0#7) ∧ fRsq f a = (f.nan, flIV) ∧ fExp2 f a = (f.signed false 0, 0#7) ∧
       fLog2 f a = (f.nan, flIV)) ∧
     (∀ n e, A = .fin n 0 e → fRcp f a = (f.signed n f.infMag, flDZ) ∧ fRsq f a = (f.signed n f.infMag, flDZ) ∧
       fLog2 f a = (f.signed true f.infMag, flDZ) ∧ fExp2 f a = roundNz f 0#2 false false 1 0) ∧
     (∀ m e, m ≠ 0 → A = .fin true m e → fRsq f a = (f.nan, flIV) ∧ fLog2 f a = (f.nan, flIV)) ∧
     -- a power of two, and a whole exponent
     (∀ (k : Nat) (e : Int), A = .fin false (2 ^ k) e → fLog2 f a = roundFin f 0#2 false (decide (e + k < 0)) (e + k).natAbs 0) ∧
     (∀ n w e, e ≤ 0 → w ≤ 2000 → A = .fin n (w * 2 ^ (-e).toNat) e →
       fExp2 f a = roundNz f 0#2 false false 1 (signedMag n w)) ∧
     -- 1/a lies between k and k + 1 units of 2^u, and is rounded as any value strictly between them, or as k where it is exact
     (∀ n m e, m ≠ 0 → A = .fin n m e → ∃ k u, 2 ^ 78 ≤ k ∧ k * m ≤ 2 ^ (-(u + e)).toNat ∧ 2 ^ (-(u + e)).toNat < (k + 1) * m ∧
       fRcp f a = (if k * m = 2 ^ (-(u + e)).toNat then roundNz f 0#2 false n k u
         else roundNz f 0#2 false n (2 * k + 1) (u - 1))) ∧
     (∀ m e, m ≠ 0 → A = .fin false m e → ∃ (k : Nat) (u : Int), 2 ^ 70 ≤ k ∧ k * k * m ≤ 2 ^ (-(2 * u + e)).toNat ∧
       2 ^ (-(2 * u + e)).toNat < (k + 1) * (k + 1) * m ∧
       fRsq f a = (if k * k * m = 2 ^ (-(2 * u + e)).toNat then roundNz f 0#2 false false k u
         else roundNz f 0#2 false false (2 * k + 1) (u - 1))))

/-! ## Control -/

/-- `nop` and `yield` only go on (R38, R112). R110, R102: `loop` with a count of 0 goes past the body; with n ≥ 1 it sets
LC to n, LS and AS to the next instruction, LE and AE to the body's last instruction, and makes the loop active. -/
def Obligations.IdlingAndLoops : Prop :=
  (∀ (c : Ctl) (s : State), Ready c false Uses.none s →
     exec (.nop c) s = .next (retire s .seq) ∧ exec (.yield c) s = .next (retire s .seq)) ∧
  (∀ (c : Ctl) (count : WI) (off : BitVec 15) (s : State), Ready c false (Uses.wi count) s →
     let n := wiVal s.me count
     let last := s.me.ip + 4#64 * off.signExtend 64
     (n = 0#64 → exec (.loop c count off) s = .next (retire s (.jump (last + 12#64)))) ∧
     (n ≠ 0#64 → exec (.loop c count off) s = .next (retire (s.modMe (fun t =>
       { t with lc := n, ls := t.ip + 12#64, as := t.ip + 12#64, le := last, ae := last, loopOn := true }))
       (.jump (s.me.ip + 12#64)))))

/-- R109: a branch goes to IP + 4 · sext(off), or to the register with bits [1:0] cleared. A call moves the window to the
next frame, in which w7 is the link, w8 to w31 are 0, and w0 to w6 are the caller's w24 to w30; `ret` moves it back,
and the callee's w0 to w7 are then the caller's w24 to w31. Either goes to its target, read before anything is
written, and leaves the loop state. Where a call or a return does not go through: ILLEGAL in trap mode,
WINDOW_OVERFLOW with TVAL 1 at the deepest frame and 0 at ten resident frames, WINDOW_UNDERFLOW with TVAL 1 at frame
0 and 0 at the lowest resident frame. Nothing but the trap happens, and EIP is the instruction. -/
def Obligations.BranchesAndCalls : Prop :=
  (∀ (c : Ctl) (s : State),
     (Ready c false Uses.none s →
       (∀ off, exec (.br c off) s = .next (retire s (.jump (s.me.ip + 4#64 * off.signExtend 64)))) ∧
       (∀ off, exec (.brLong c off) s = .next (retire s (.jump (s.me.ip + 4#64 * off.signExtend 64))))) ∧
     (∀ a, Ready c false (Uses.w a) s →
       exec (.brx c a) s = .next (retire s (.jump (s.me.w a.toNat &&& 0xFFFFFFFFFFFFFFFC#64))))) ∧
  (∀ (c : Ctl) (s : State), s.me.tm = false →
     (s.me.depth ≠ 65535 → s.me.depth - s.me.low ≠ 9 →
       (∀ off, Ready c false { extra := callRegs s.me } s →
         exec (.call c off) s = .next (retire (s.modMe enterFrame) (.jump (s.me.ip + 4#64 * off.signExtend 64)))) ∧
       (∀ off, Ready c false { extra := callRegs s.me } s →
         exec (.callLong c off) s = .next (retire (s.modMe enterFrame) (.jump (s.me.ip + 4#64 * off.signExtend 64)))) ∧
       (∀ a : BitVec 5, Ready c false { ws := [a.toNat], extra := callRegs s.me } s →
         exec (.callx c a) s = .next (retire (s.modMe enterFrame) (.jump (s.me.w a.toNat &&& 0xFFFFFFFFFFFFFFFC#64))))) ∧
     (s.me.depth ≠ 0 → s.me.depth ≠ s.me.low → ∀ a, Ready c false (Uses.w a) s →
       exec (.ret c a) s = .next (retire (s.modMe (fun t => { t with depth := t.depth - 1 }))
         (.jump (s.me.w a.toNat &&& 0xFFFFFFFFFFFFFFFC#64)))) ∧
     -- the new frame
     (enterFrame s.me).depth = s.me.depth + 1 ∧ (enterFrame s.me).w 7 = s.me.ip + 12#64 ∧
     (∀ j, j < 24 → (enterFrame s.me).w (8 + j) = 0#64) ∧ (∀ j, j < 7 → (enterFrame s.me).w j = s.me.w (24 + j)) ∧
     (enterFrame s.me).lc = s.me.lc ∧ (enterFrame s.me).ls = s.me.ls ∧ (enterFrame s.me).le = s.me.le ∧
     (enterFrame s.me).loopOn = s.me.loopOn ∧
     -- and the caller's frame when the callee has returned
     (∀ j, j < 24 → ({ enterFrame s.me with depth := s.me.depth } : Thread).w j = s.me.w j) ∧
     (∀ (t : Thread) (j : Nat) (v : W64), t.tm = false → j < 8 →
       ({ ({ t with depth := t.depth + 1 } : Thread).setW j v with depth := t.depth } : Thread).w (24 + j) = v)) ∧
  (∀ (c : Ctl) (s : State),
     let turnedAway (op fn cause : Nat) (far near : Prop) (r : Host.Outcome State Fault Refusal) : Prop :=
       (s.me.tm = true → r = .next (takeTrap s s.cur false 0x01 (illegalTval 0 fn op 0 2) (guardOf s.me c) s.me.ip)) ∧
       (s.me.tm = false → far → r = .next (takeTrap s s.cur false cause 1#64 (guardOf s.me c) s.me.ip)) ∧
       (s.me.tm = false → ¬ far → near → r = .next (takeTrap s s.cur false cause 0#64 (guardOf s.me c) s.me.ip))
     (Ready c false { extra := callRegs s.me } s →
       (∀ off, turnedAway 0x04 0x00 0x04 (s.me.depth = 65535) (s.me.depth - s.me.low = 9) (exec (.call c off) s)) ∧
       (∀ off, turnedAway 0x04 0x80 0x04 (s.me.depth = 65535) (s.me.depth - s.me.low = 9) (exec (.callLong c off) s))) ∧
     (∀ a : BitVec 5, Ready c false { ws := [a.toNat], extra := callRegs s.me } s →
       turnedAway 0x05 0x00 0x04 (s.me.depth = 65535) (s.me.depth - s.me.low = 9) (exec (.callx c a) s)) ∧
     (∀ a, Ready c false (Uses.w a) s →
       turnedAway 0x06 0x00 0x05 (s.me.depth = 0) (s.me.depth = s.me.low) (exec (.ret c a) s)))

/-- What retirement does to the thread (R43, R102, R331): in sequence it goes 12 bytes on, but for the end-of-body check
of an active loop at AE; a transfer goes to its target with no check; a budget in force outside trap mode falls by
one. -/
def Obligations.Retirement : Prop :=
  ∀ (s : State) (r : Ret), r ≠ .ended → s.me.active = true →
    let a := s.me
    let b := (retire s r).me
    (∀ ip, r = .jump ip → b.ip = ip ∧ b.lc = a.lc ∧ b.loopOn = a.loopOn) ∧
    (r = .seq → (a.loopOn = false ∨ a.ip ≠ a.ae) → b.ip = a.ip + 12#64 ∧ b.lc = a.lc ∧ b.loopOn = a.loopOn) ∧
    (r = .seq → a.loopOn = true → a.ip = a.ae → a.lc.toNat ≤ 1 →
      b.lc = 0#64 ∧ b.loopOn = false ∧ b.ip = a.ip + 12#64) ∧
    (r = .seq → a.loopOn = true → a.ip = a.ae → 1 < a.lc.toNat →
      b.lc = a.lc - 1#64 ∧ b.as = a.ls ∧ b.ae = a.le ∧ b.ip = a.ls ∧ b.loopOn = true) ∧
    b.budRem = (if a.budEn = true ∧ a.tm = false then a.budRem - 1 else a.budRem) ∧ b.word = none ∧ b.wait = .none ∧
    b.stk = a.stk ∧ b.v = a.v ∧ b.p = a.p ∧ b.flags = a.flags ∧ a.sameSpecial b ∧
    (∀ k, k ≠ s.cur → (retire s r).thr k = s.thr k) ∧ (retire s r).mem = s.mem

/-! ## Predicates -/

/-- R94: p0 reads as ones and keeps doing so whatever is written; the other predicates hold what was last written; LIVEP
is system register 0x006. -/
def Obligations.PredicateRegisters : Prop :=
  ∀ (t : Thread) (n m : Nat) (v : W32) (s : State),
    (t.setPred n v).pred 0 = 0xFFFFFFFF#32 ∧ (n ≠ 0 → (t.setPred n v).pred n = v) ∧
    (m ≠ n → (t.setPred n v).pred m = t.pred m) ∧ t.setPred 0 v = t ∧ sysRead s 0x006 = s.me.livep.setWidth 64

/-- R114, R23: a scalar compare that executes writes pt := c and pf := ¬c in every lane; one whose guard fails writes
zeros to both, reads no source, and raises nothing. R114, R23: a vector compare writes pt := G ∧ c and pf := G ∧ ¬c
lane by lane; with no lane executing it writes zeros. What a pair's two halves read as after the write: p0 keeps its
ones, and the LIVE bits of both are set; a pair whose halves are one predicate other than p0 is no instruction's. -/
def Obligations.Compares : Prop :=
  (∀ (c : Ctl) (t : Ty) (d : Pair) (a b : Src) (s s1 s2 : State) (x y : Nat),
     let u := (Uses.src a).and (Uses.src b)
     (Ready c false u s → Reads (readSrc t a) (s.begun u) x s1 → Reads (readSrc t b) s1 y s2 →
       (∀ k, exec (.cmp c k t d a b) s =
         .next (retire (s2.modMe (fun th => setPair th d (broadcast (iCond k t x y)) (broadcast (!iCond k t x y)))) .seq)) ∧
       (∀ k, exec (.cmpf c k t d a b) s =
         .next (retire (s2.modMe (fun th => setPair th d (broadcast (fCond k t x y)) (broadcast (!fCond k t x y)))) .seq))) ∧
     (s.me.active = true → (guardOf s.me c).getLsbD 0 = false →
       (∀ k, exec (.cmp c k t d a b) s = .next (retire (s.modMe (fun th => setPair th d 0#32 0#32)) .seq)) ∧
       (∀ k, exec (.cmpf c k t d a b) s = .next (retire (s.modMe (fun th => setPair th d 0#32 0#32)) .seq)))) ∧
  (∀ (c : Ctl) (t : Ty) (d : Pair) (a b : VSrc) (s s1 s2 : State) (x y : List Nat),
     let u := (Uses.vsrc a).and (Uses.vsrc b)
     let g := guardOf s.me c
     (Ready c true u s → Reads (readLanes t a) (s.begun u) x s1 → Reads (readLanes t b) s1 y s2 →
       (∀ k, let m := maskOf 0 (List.zipWith (iCond k t) x y)
         exec (.vcmp c k t d a b) s = .next (retire (s2.modMe (fun th => setPair th d (g &&& m) (g &&& ~~~m))) .seq)) ∧
       (∀ k, let m := maskOf 0 (List.zipWith (fCond k t) x y)
         exec (.vcmpf c k t d a b) s = .next (retire (s2.modMe (fun th => setPair th d (g &&& m) (g &&& ~~~m))) .seq))) ∧
     (s.me.active = true → vregCheck s.me u.groups = none → g = 0#32 →
       (∀ k, exec (.vcmp c k t d a b) s = .next (retire (s.modMe (fun th => setPair th d 0#32 0#32)) .seq)) ∧
       (∀ k, exec (.vcmpf c k t d a b) s = .next (retire (s.modMe (fun th => setPair th d 0#32 0#32)) .seq)))) ∧
  (∀ (th : Thread) (d : Pair) (yes no : W32), (d.pt = d.pf → d.pt = 0) →
     let th' := setPair th d yes no
     th'.pred d.pt.toNat = (if d.pt = 0 then 0xFFFFFFFF#32 else yes) ∧
     th'.pred d.pf.toNat = (if d.pf = 0 then 0xFFFFFFFF#32 else no) ∧
     (∀ k, k ≠ d.pt.toNat → k ≠ d.pf.toNat → th'.pred k = th.pred k) ∧
     (∀ k, 1 ≤ k → k < 16 → th'.livep.getLsbD k = (th.livep.getLsbD k || k == d.pt.toNat || k == d.pf.toNat)) ∧
     (∀ (k : BitVec 4) (c : Ctl) (x : ICond) (y : FCond) (t : Ty) (a b : Src) (u v : VSrc), k ≠ 0 →
       (Instr.cmp c x t ⟨k, k⟩ a b).wellFormed = false ∧ (Instr.cmpf c y t ⟨k, k⟩ a b).wellFormed = false ∧
       (Instr.vcmp c x t ⟨k, k⟩ u v).wellFormed = false ∧ (Instr.vcmpf c y t ⟨k, k⟩ u v).wellFormed = false))

/-- R115, R116, R118: the instructions that write one predicate write the executing lanes, leave the others, and set its
LIVE bit (R44); `pmov wd, pa` writes bits [31:0] of wd the same way and leaves bits [63:32]. R115 to R118: bit i of
the table of `plog` is indexed by (a, b, old d); `pcnt` counts ones; `pfirst` gives the lowest set lane, 32 for none;
`pset.first` sets the lowest n bits, all of them above 32. -/
def Obligations.PredicateWrites : Prop :=
  (∀ (c : Ctl) (s : State),
     let g := guardOf s.me c
     let put (d : BitVec 4) (x : W32) : State :=
       s.modMe (fun t => (t.setPred d.toNat ((g &&& x) ||| (~~~g &&& t.pred d.toNat))).markLive d.toNat)
     (Ready c true Uses.none s →
       (∀ tt d a b, exec (.plog c tt d a b) s =
         .next (retire (put d (plogTable tt (s.me.pred a.toNat) (s.me.pred b.toNat) (s.me.pred d.toNat))) .seq)) ∧
       (∀ d a, exec (.pmov c d a) s = .next (retire (put d (s.me.pred a.toNat)) .seq)) ∧
       (∀ d m, exec (.pset c d m) s = .next (retire (put d (m.signExtend 32)) .seq))) ∧
     (∀ d a, Ready c true (Uses.w a) s →
       exec (.pmovFromW c d a) s = .next (retire (put d ((s.me.w a.toNat).setWidth 32)) .seq)) ∧
     (∀ d a, Ready c true (Uses.w d) s →
       let old := s.me.w d.toNat
       exec (.pmovToW c d a) s = .next (retire (s.modMe (fun t => t.setW d.toNat
         (old.extractLsb' 32 32 ++ ((g &&& s.me.pred a.toNat) ||| (~~~g &&& old.setWidth 32))))) .seq)) ∧
     (∀ d n, Ready c true (Uses.wi n) s →
       exec (.psetFirst c d n) s = .next (retire (put d (lowMask (wiVal s.me n).toNat)) .seq))) ∧
  ((∀ (tt : BitVec 8) (a b d : W32) (i : Nat), i < 32 → (plogTable tt a b d).getLsbD i =
     tt.getLsbD (4 * (a.getLsbD i).toNat + 2 * (b.getLsbD i).toNat + (d.getLsbD i).toNat)) ∧
   (∀ n i, i < 32 → (lowMask n).getLsbD i = decide (i < n)) ∧
   (∀ (p : W32), firstSet p 32 0 = 32 ↔ p = 0#32) ∧
   (∀ (p : W32), p ≠ 0#32 → p.getLsbD (firstSet p 32 0) = true ∧ ∀ i, i < firstSet p 32 0 → p.getLsbD i = false) ∧
   (∀ (c : Ctl) (d : Dst) (a : BitVec 4) (s s1 : State),
     (Ready c false (Uses.dst 0x16 d) s → Reads (writeDst d (w64 ((List.range 32).countP
         (fun i => ((s.begun (Uses.dst 0x16 d)).me.pred a.toNat).getLsbD i)))) (s.begun (Uses.dst 0x16 d)) () s1 →
       exec (.pcnt c d a) s = .next (retire s1 .seq)) ∧
     (Ready c false (Uses.dst 0x17 d) s → Reads (writeDst d (w64 (firstSet ((s.begun (Uses.dst 0x17 d)).me.pred a.toNat) 32 0)))
         (s.begun (Uses.dst 0x17 d)) () s1 →
       exec (.pfirst c d a) s = .next (retire s1 .seq))))

/-! ## Lanes -/

/-- Every lane instruction with two lane sources, and with one (R129 to R134): the operation lane by lane, written where
the guard passes, extended by its type, with the flags of the executing lanes. R130, R131: the absolute value and the
negation modulo 2^n, an element of `.bN` being no negative number; their float forms, which clear or invert the sign
bit alone; and the clamp of the saturating sums, to the range of the type, with OF. (In part the model's own reading
or choice: assumption 26 of the log.) -/
def Obligations.LaneArithmetic : Prop :=
  ((∀ p ∈ laneTwo, ∀ (c : Ctl) (t : Ty) (d : VReg) (a b : VSrc) (s s1 s2 : State) (x y : List Nat),
     Ready c true (laneUses d a b) s → Reads (readLanes t a) (s.begun (laneUses d a b)) x s1 →
     Reads (readLanes t b) s1 y s2 →
     exec (p.1 c t d a b) s =
       .next (retire (s2.putResults t d (guardOf s.me c) (List.zipWith (p.2 t) x y)) .seq)) ∧
   (∀ p ∈ laneOne, ∀ (c : Ctl) (t : Ty) (d : VReg) (a : VSrc) (s s1 : State) (x : List Nat),
     Ready c true (lane1Uses d a) s → Reads (readLanes t a) (s.begun (lane1Uses d a)) x s1 →
     exec (p.1 c t d a) s = .next (retire (s1.putResults t d (guardOf s.me c) (x.map (p.2 t))) .seq)) ∧
   (∀ (c : Ctl) (t : Ty) (d : VReg) (a : Src) (s s1 : State) (x : List Nat),
     Ready c true (lane1Uses d (.sc a)) s → Reads (readLanes t (.sc a)) (s.begun (lane1Uses d (.sc a))) x s1 →
     exec (.vbcast c t d a) s = .next (retire (s1.putResults t d (guardOf s.me c) (x.map (fun v => (v, 0#7)))) .seq)) ∧
   (∀ (c : Ctl) (dt st : Ty) (m : CvtMode) (d : VReg) (a : VSrc) (s s1 : State) (x : List Nat),
     Ready c true (lane1Uses d a) s → Reads (readLanes st a) (s.begun (lane1Uses d a)) x s1 →
     exec (.vcvt c dt st m d a) s = .next (retire (s1.putResults dt d (guardOf s.me c) (x.map (convert dt st m))) .seq)) ∧
   (∀ (c : Ctl) (t : Ty) (d : VReg) (a b : VSrc) (s s1 s2 s3 : State) (x y z : List Nat),
     Ready c true (laneUses d a b) s → Reads (readLanes t a) (s.begun (laneUses d a b)) x s1 →
     Reads (readLanes t b) s1 y s2 → Reads (readLanes t (.reg d)) s2 z s3 →
     exec (.vfma c t d a b) s =
       .next (retire (s3.putResults t d (guardOf s.me c) (zip3 (fFma (tyFmt t)) z x y)) .seq))) ∧
  ((∀ (t : Ty), tyIB t = true → ∀ (x : Nat), x < 2 ^ tyWidth t →
     let n := tyWidth t
     let a : BitVec n := BitVec.ofNat n x
     elemInt t x = (if tyI t then a.toInt else a.toNat) ∧
     vabsOp t x = (if tyI t && a.msb then (-a).toNat else x) ∧ vnegOp t x = (-a).toNat) ∧
   (∀ (t : Ty), tyF2 t = true → ∀ (x i : Nat),
     (vabsOp t x).testBit i = (decide (i < tyWidth t - 1) && x.testBit i) ∧
     (vnegOp t x).testBit i = (x.testBit i != decide (i = tyWidth t - 1))) ∧
   (∀ (t : Ty), tyIB t = true → ∀ (v : Int),
     let n := tyWidth t
     let lo : Int := if tyI t then -2 ^ (n - 1) else 0
     let hi : Int := if tyI t then 2 ^ (n - 1) - 1 else 2 ^ n - 1
     clampInt t v = (if v < lo then ((BitVec.ofInt n lo).toNat, flOF) else if hi < v then ((BitVec.ofInt n hi).toNat, flOF)
       else ((BitVec.ofInt n v).toNat, 0#7))))

/-- Selection, broadcast of one lane, index vectors and the permute network (R134 to R136). R136: the source lane of each
pattern of `vshuf`; `zip` and `unzip` undo each other. -/
def Obligations.LaneMoves : Prop :=
  (∀ (c : Ctl) (d : VReg) (s s1 s2 : State),
     let g := guardOf s.me c
     (∀ (t : Ty) (k : BitVec 4) (a b : VSrc) (x y : List Nat), Ready c true (laneUses d a b) s →
       Reads (readLanes t a) (s.begun (laneUses d a b)) x s1 → Reads (readLanes t b) s1 y s2 →
       exec (.vsel c t k d a b) s = .next (retire (s2.putLanes (s2.me.vIdx d) g
         ((pickLanes (s2.me.pred k.toNat) 0 x y).map (laneWord t))) .seq)) ∧
     (∀ (t : Ty) (a : VV) (j : WI) (x : Lanes), Ready c true (((Uses.vr d).and (Uses.vv a)).and (Uses.wi j)) s →
       Reads (readVV a) (s.begun (((Uses.vr d).and (Uses.vv a)).and (Uses.wi j))) x s1 →
       exec (.vbcastLane c t d a j) s = .next (retire (s1.putLanes (s1.me.vIdx d) g
         (List.replicate 32 (laneWord t ((x.getD ((wiVal s1.me j).toNat % 32) 0#32).toNat % 2 ^ tyWidth t)))) .seq)) ∧
     (∀ (t : Ty), Ready c true (Uses.vr d) s → exec (.vidx c t d) s =
       .next (retire (s.putLanes (s.me.vIdx d) g ((List.range 32).map (laneWord t))) .seq)) ∧
     (∀ (t : Ty) (a b : Src) (x y : List Nat), Ready c true (((Uses.vr d).and (Uses.src a)).and (Uses.src b)) s →
       Reads (readScLanes t a) (s.begun (((Uses.vr d).and (Uses.src a)).and (Uses.src b))) x s1 →
       Reads (readScLanes t b) s1 y s2 →
       exec (.vidxStep c t d a b) s = .next (retire (s2.putLanes (s2.me.vIdx d) g
         ((List.range 32).map (fun i => laneWord t ((x.getD i 0 + i * y.getD i 0) % 2 ^ tyWidth t)))) .seq)) ∧
     (∀ (a b : VV) (x y : Lanes), Ready c true (((Uses.vr d).and (Uses.vv a)).and (Uses.vv b)) s →
       Reads (readVV a) (s.begun (((Uses.vr d).and (Uses.vv a)).and (Uses.vv b))) x s1 → Reads (readVV b) s1 y s2 →
       exec (.vperm c d a b) s = .next (retire (s2.putLanes (s2.me.vIdx d) g
         (y.map (fun k => if k.toNat % 256 < 32 then x.getD (k.toNat % 256) 0#32 else 0#32))) .seq)) ∧
     (∀ (pat : Shuf) (a : VV) (x : Lanes),
       let u := ((Uses.vr d).and (Uses.vv a)).and (match shufK pat with | some k => Uses.wi k | none => Uses.none)
       Ready c true u s → Reads (readVV a) (s.begun u) x s1 →
       let k := match shufK pat with | some k => (wiVal s1.me k).toNat % 32 | none => 0
       exec (.vshuf c pat d a) s = .next (retire (s1.putLanes (s1.me.vIdx d) g
         ((List.range 32).map (fun i => if shufSrc pat k i < 32 then x.getD (shufSrc pat k i) 0#32 else 0#32))) .seq))) ∧
  (∀ (k i : Nat) (n : WI), k < 32 → i < 32 →
     shufSrc .rev k i = 31 - i ∧ shufSrc (.rot n) k i = (i + k) % 32 ∧
     (i + k < 32 → shufSrc (.shd n) k i = i + k) ∧ (32 ≤ i + k → 32 ≤ shufSrc (.shd n) k i) ∧
     (k ≤ i → shufSrc (.shu n) k i = i - k) ∧ (i < k → 32 ≤ shufSrc (.shu n) k i) ∧
     shufSrc (.xor n) k i = (BitVec.ofNat 5 i ^^^ BitVec.ofNat 5 k).toNat ∧
     (i < 16 → shufSrc .unzip k i = 2 * i ∧ shufSrc .unzip k (16 + i) = 2 * i + 1 ∧
       shufSrc .zip k (2 * i) = i ∧ shufSrc .zip k (2 * i + 1) = 16 + i) ∧
     shufSrc .zip k (shufSrc .unzip k i) = i ∧ shufSrc .unzip k (shufSrc .zip k i) = i ∧
     shufK (.rot n) = some n ∧ shufK (.shd n) = some n ∧ shufK (.shu n) = some n ∧ shufK (.xor n) = some n)

/-- Reductions and scans (R137), packing (R138, R139), and gather and scatter in the register file (R140). What the
networks compute: the tree of R70, whose levels combine adjacent pairs; the steps of R71, each lane with the flags of
the combinations formed at it; the operations of R137 and the identities of R72; the bits that R138 packs and R139
unpacks, with the elements of R52 and R53; and the table of R140. (In part the model's own reading or choice:
assumptions 25, 26 and 90 of the log.) -/
def Obligations.LaneNetworks : Prop :=
  (∀ (c : Ctl) (s s1 s2 s3 : State),
     let g := guardOf s.me c
     (∀ (op : RedOp) (t : Ty) (d : BitVec 5) (a : VV) (x : Lanes), Ready c true ((Uses.w d).and (Uses.vv a)) s →
       Reads (readVV a) (s.begun ((Uses.w d).and (Uses.vv a))) x s1 →
       let r := redTree op t 5 (redElems op t g x)
       exec (.vred c op t d a) s = .next (retire ((s1.modMe (fun th => th.setW d.toNat (result64 t (r.1.headD 0)))).modMe
         (fun th => th.raise r.2)) .seq)) ∧
     (∀ (op : RedOp) (t : Ty) (d : VReg) (a : VV) (x : Lanes), Ready c true ((Uses.vr d).and (Uses.vv a)) s →
       Reads (readVV a) (s.begun ((Uses.vr d).and (Uses.vv a))) x s1 →
       exec (.vscan c op t d a) s =
         .next (retire (s1.putResults t d g (scanAll op t [1, 2, 4, 8, 16] (redElems op t g x))) .seq)) ∧
     (∀ (t : Ty) (d a : VReg) (xs : List Lanes),
       let u := ((Uses.ty t).and (Uses.vr d)).and (Uses.group a (packF t))
       Ready c true u s → Reads (readGroup ((s.begun u).me.vIdx a) (packF t)) (s.begun u) xs s1 →
       exec (.vpack c t d a) s =
         .next (retire (s1.putLanes (s1.me.vIdx d) g ((List.range 32).map (packLane t xs))) .seq)) ∧
     (∀ (t : Ty) (d : VReg) (a : VV) (x : Lanes),
       let u := ((Uses.ty t).and (Uses.group d (packF t))).and (Uses.vv a)
       let rs := (List.range (packF t)).map (unpackReg t x)
       Ready c true u s → Reads (readVV a) (s.begun u) x s1 →
       Reads (writeGroup (s1.me.vIdx d) g (rs.map (fun r => r.map (·.1)))) s1 () s2 →
       exec (.vunpack c t d a) s = .next (retire (s2.modMe (fun th => th.raise
         (rs.foldl (fun f r => f ||| maskFlags g 0 (r.map (·.2))) 0#7))) .seq)) ∧
     (∀ (l : BitVec 8) (d tab : VReg) (idx : VV) (xs : List Lanes) (x : Lanes),
       let u := ((Uses.vr d).and (Uses.group tab (l.toNat + 1))).and (Uses.vv idx)
       Ready c true u s → Reads (readGroup ((s.begun u).me.vIdx tab) (l.toNat + 1)) (s.begun u) xs s1 →
       Reads (readVV idx) s1 x s2 →
       let r := (List.range 32).map (gatherLane xs x)
       exec (.vgath c l d tab idx) s = .next (retire ((s2.putLanes (s2.me.vIdx d) g (r.map (·.1))).modMe
         (fun th => th.raise (maskFlags g 0 (r.map (·.2))))) .seq)) ∧
     (∀ (l : BitVec 8) (tab : VReg) (idx : VV) (a : VSrc) (x : Lanes) (y : List Nat),
       let u := ((Uses.group tab (l.toNat + 1)).and (Uses.vv idx)).and (Uses.vsrc a)
       Ready c true u s → Reads (readVV idx) (s.begun u) x s1 → Reads (readLanes .b32 a) s1 y s2 →
       Reads (scatter (s2.me.vIdx tab) g x (y.map w32) (l.toNat + 1)) s2 () s3 →
       exec (.vscat c l tab idx a) s = .next (retire (s3.modMe (fun th => th.raise
         (maskFlags g 0 (x.map (fun k => if k.toNat < l.toNat + 1 then 0#7 else flOOB))))) .seq))) ∧
  (-- a suppressed lane counts as the identity of the operation
   (∀ (op : RedOp) (t : Ty) (g : W32) (x : Lanes) (i : Nat), x.length = 32 → i < 32 →
     (redElems op t g x).length = 32 ∧ (redElems op t g x).getD i 0 =
       if g.getLsbD i then (x.getD i 0#32).toNat % 2 ^ tyWidth t else redIdentity op t) ∧
   (∀ (op : RedOp) (t : Ty) (l : List Nat), l.length % 2 = 0 →
     let r := redLevel op t l
     let pair (j : Nat) : Nat × Fl := redOp op t (l.getD (2 * j) 0) (l.getD (2 * j + 1) 0)
     r.1.length = l.length / 2 ∧ (∀ j, j < l.length / 2 → r.1.getD j 0 = (pair j).1) ∧
     (∀ b, b < 7 → r.2.getLsbD b = (List.range (l.length / 2)).any (fun j => (pair j).2.getLsbD b))) ∧
   (∀ (op : RedOp) (t : Ty) (n : Nat) (l : List Nat), redTree op t 0 l = (l, 0#7) ∧
     redTree op t (n + 1) l = ((redTree op t n (redLevel op t l).1).1, (redLevel op t l).2 ||| (redTree op t n (redLevel op t l).1).2)) ∧
   (∀ (op : RedOp) (t : Ty) (d : Nat) (l : List (Nat × Fl)) (i : Nat), d ≤ l.length → i < l.length →
     (scanStep op t d l).length = l.length ∧
     (scanStep op t d l).getD i (0, 0#7) = if i < d then l.getD i (0, 0#7) else
       ((redOp op t (l.getD (i - d) (0, 0#7)).1 (l.getD i (0, 0#7)).1).1,
         (l.getD i (0, 0#7)).2 ||| (redOp op t (l.getD (i - d) (0, 0#7)).1 (l.getD i (0, 0#7)).1).2)) ∧
   (∀ (op : RedOp) (t : Ty) (ds : List Nat) (d : Nat) (l : List Nat), scanAll op t [] l = l.map (fun x => (x, 0#7)) ∧
     scanAll op t (ds ++ [d]) l = scanStep op t d (scanAll op t ds l)) ∧
   (∀ (t : Ty) (x y : Nat),
     (tyIB t = true → x < 2 ^ tyWidth t → y < 2 ^ tyWidth t →
       redOp .add t x y = ((x + y) % 2 ^ tyWidth t, 0#7) ∧ redOp .min t x y = (iMin t x y, 0#7) ∧
       redOp .max t x y = (iMax t x y, 0#7) ∧ redIdentity .add t = 0 ∧
       iMin t x (redIdentity .min t) = x ∧ iMax t (redIdentity .max t) y = y) ∧
     (tyFloat t = true → redOp .add t x y = fAdd (tyFmt t) x y ∧ redOp .min t x y = (fMinMax false (tyFmt t) x y, 0#7) ∧
       redOp .max t x y = (fMinMax true (tyFmt t) x y, 0#7) ∧ fdec (tyFmt t) (redIdentity .add t) = .fin true 0 (tyFmt t).qmin ∧
       (t ≠ .fp8e4 → fdec (tyFmt t) (redIdentity .min t) = .inf false ∧ fdec (tyFmt t) (redIdentity .max t) = .inf true) ∧
       (t = .fp8e4 → redIdentity .min t = 0x7E ∧ redIdentity .max t = 0xFE))) ∧
   (∀ (t : Ty) (xs : List Lanes) (i m b : Nat), packF t * tyWidth t = 32 → i < 32 → m < packF t → b < tyWidth t →
     let e := packF t * i + m
     (packLane t xs i).getLsbD (tyWidth t * m + b) = ((xs.getD (e / 32) []).getD (e % 32) 0#32).getLsbD b) ∧
   (∀ (t : Ty) (x : Lanes) (i j : Nat), packF t * tyWidth t = 32 → i < 32 →
     let e := 32 * j + i
     let word := x.getD (e / packF t) 0#32
     let r := (unpackReg t x j).getD i (0#32, 0#7)
     let raw := (word.toNat >>> (tyWidth t * (e % packF t))) % 2 ^ tyWidth t
     let byte := (word.toNat >>> (8 * (e % 8 / 2))) % 256
     (t ≠ .int4s → t ≠ .int4x → r = (w32 (extendTo t 32 raw), 0#7)) ∧
     (t = .int4s → r = if raw = 8 then (0#32, flRC) else (BitVec.ofInt 32 (toSigned 4 raw), 0#7)) ∧
     (t = .int4x → r = (w32 (roundVal fmtF32 (int4xVal byte (e % 2 == 1))).1, 0#7))) ∧
   -- an INT4X byte, and that its values are exact in FP32
   (∀ (byte : Nat) (upper : Bool), byte < 256 →
     let v := int4xVal byte upper
     let lo := byte % 16
     let hi := byte / 16
     let whole (n : Nat) : FVal := .fin (decide (toSigned 4 n < 0)) (toSigned 4 n).natAbs 0
     v = (if lo = 8 then (if upper then .fin false 0 0 else fdec fmtE4 (16 * hi + 8))
       else if hi = 8 then (if upper then fdec fmtE4 (16 * lo + 8) else .fin false 0 0)
       else if upper then whole hi else whole lo) ∧
     (roundVal fmtF32 v).2 = 0#7 ∧ valLt (fdec fmtF32 (roundVal fmtF32 v).1) v = false ∧
     valLt v (fdec fmtF32 (roundVal fmtF32 v).1) = false) ∧
   (∀ (tab : List Lanes) (idx : Lanes) (i : Nat), let k := (idx.getD i 0#32).toNat
     gatherLane tab idx i = if k < tab.length then ((tab.getD k []).getD i 0#32, 0#7) else (0#32, flOOB)) ∧
   (∀ (base : Nat) (g : W32) (idx a : Lanes) (n : Nat) (s : State), a.length = 32 → ∃ s', Reads (scatter base g idx a n) s () s' ∧
     (∀ q i, i < 32 → s'.me.lane q i = if g.getLsbD i = true ∧ (idx.getD i 0#32).toNat < n ∧ q = base + (idx.getD i 0#32).toNat
       then a.getD i 0#32 else s.me.lane q i) ∧
     s'.me.stk = s.me.stk ∧ s'.me.p = s.me.p ∧ s'.me.flags = s.me.flags ∧ (∀ k, k ≠ s.cur → s'.thr k = s.thr k) ∧ s'.mem = s.mem))

/-- THE FRAME of the scalar instructions with two sources: a completed one leaves every register of its thread but the
destination, every other flag, predicate, vector, special and trap register, every other thread, and every byte of
memory as they are. A queue, stream or port operand changes only the queue, the stream or the route. R95, R96, R41: a
masked write of a vector register changes exactly the lanes of the mask of exactly that register. THE FRAME of the
lane instructions with two lane sources: a completed one changes, of its thread's registers, only the executing lanes
of its destination and the flags it raises; no other register, thread or byte of memory changes. -/
def Obligations.RegisterFrames : Prop :=
  (∀ p ∈ scalarTwo, ∀ (c : Ctl) (t : Ty) (d : Dst) (a b : Src) (s s1 s2 s3 : State) (x y : Nat),
     Ready c false (twoUses p.1 d a b) s →
     Reads (readSrc t a) (s.begun (twoUses p.1 d a b)) x s1 → Reads (readSrc t b) s1 y s2 →
     Reads (writeResult t d (p.2.2 t x y).1) s2 () s3 →
     ∃ s', exec (p.2.1 c t d a b) s = .next s' ∧
       s.me.sameRegs s'.me (fun r => ∀ k, d = .w k → r ≠ s.me.preg k.toNat) (p.2.2 t x y).2 ∧ s.me.sameSpecial s'.me ∧
       (∀ k, k ≠ s.cur → s'.thr k = s.thr k) ∧
       (∀ addr, s'.mem.read addr = s.mem.read addr) ∧ s'.hostMem = s.hostMem ∧ s'.peerMem = s.peerMem ∧ s'.net = s.net) ∧
  (∀ (s : State) (r : Nat) (g : W32) (ls : Lanes), ls.length = 32 →
     let s' := s.putLanes r g ls
     (∀ i, i < 32 → s'.me.lane r i = if g.getLsbD i then ls.getD i 0#32 else s.me.lane r i) ∧
     (∀ q i, i < 32 → q ≠ r → s'.me.lane q i = s.me.lane q i) ∧
     s'.me.stk = s.me.stk ∧ s'.me.p = s.me.p ∧ s'.me.flags = s.me.flags ∧ s.me.sameSpecial s'.me ∧
     (∀ k, k ≠ s.cur → s'.thr k = s.thr k) ∧ s'.mem = s.mem ∧
     (s'.core (coreOf s.cur)).zskip =
       (s.core (coreOf s.cur)).zskip + w64 ((List.range 32).countP (fun i => g.getLsbD i && ls.getD i 0#32 == 0#32))) ∧
  (∀ p ∈ laneTwo, ∀ (c : Ctl) (t : Ty) (d : VReg) (a b : VSrc) (s s1 s2 : State) (x y : List Nat),
     Ready c true (laneUses d a b) s → Reads (readLanes t a) (s.begun (laneUses d a b)) x s1 →
     Reads (readLanes t b) s1 y s2 →
     ∃ s', exec (p.1 c t d a b) s = .next s' ∧
       (∀ q i, i < 32 → (q ≠ s.me.vIdx d ∨ (guardOf s.me c).getLsbD i = false) → s'.me.lane q i = s.me.lane q i) ∧
       (∀ r, s'.me.readP r = s.me.readP r) ∧ s'.me.p = s.me.p ∧ s'.me.livep = s.me.livep ∧
       s'.me.flags = s.me.flags ||| maskFlags (guardOf s.me c) 0 ((List.zipWith (p.2 t) x y).map (·.2)) ∧
       s.me.sameSpecial s'.me ∧ (∀ k, k ≠ s.cur → s'.thr k = s.thr k) ∧
       (∀ addr, s'.mem.read addr = s.mem.read addr) ∧ s'.hostMem = s.hostMem ∧ s'.peerMem = s.peerMem ∧ s'.net = s.net)

/-! ## Memory, as a thread sees it -/

/-- R158 for DM: the checks of an access in their order, each with its trap; the place it translates to, when all pass;
and a walk, where no buffer holds the page; one that has met uncorrectable data makes MEM_POISON pending (R182). R158
for SP, HM and PM: alignment first, then the range or the translation, then the right to use the space; a host page
that is not cached waits for an ATS translation (R165). R173: a handler's access to HM, PM, MB or CF, or to an SP
address homed elsewhere, raises ACCESS. R158, check 1, at the instructions: an access that is not aligned to its size
raises MISALIGNED with its address, before anything else of it is looked at, and nothing happens but the trap: loads,
stores and atomics of every space, and the row forms, whose size is 256 bytes. (In part the model's own reading or
choice: assumptions 35, 75, 85 and 110 of the log.) -/
def Obligations.AccessChecks : Prop :=
  (∀ (s : State) (u : DmUse) (va n : Nat),
     let page := va / 2 ^ 21
     let held (e : W64) : Prop := heldPte s (coreBufs (coreOf s.cur)) s.me.part page = some e
     let inPage (e : W64) : Prop := ¬ ((pteLoc e va).attr = 2#2 ∧ sparseLimit ≤ (pteLoc e va).off)
     (va % n ≠ 0 → dmAccess u va n s = trap 0x14 (w64 va) s) ∧
     (va % n = 0 → 2 ^ 48 ≤ va → dmAccess u va n s = trap 0x10 (w64 va) s) ∧
     (va % n = 0 → va < 2 ^ 48 → heldPte s (coreBufs (coreOf s.cur)) s.me.part page = none →
       (s.me.wait = .walkFault page → dmAccess u va n s = trap 0x10 (w64 va) s) ∧
       (s.me.wait = .walkPoison page → dmAccess u va n s = blockWith (fun s => s.modMe (fun t =>
         { t with wait := .none, async := t.async ++ [(0x18, w64 va)] })) s) ∧
       (s.me.wait ≠ .walkFault page → s.me.wait ≠ .walkPoison page → dmAccess u va n s = blockWait (.walk page) s)) ∧
     (∀ e, va % n = 0 → va < 2 ^ 48 → held e →
       (¬ inPage e → dmAccess u va n s = trap 0x10 (w64 va) s) ∧
       (inPage e → u.writes = true → (pteLoc e va).wr = false → dmAccess u va n s = trap 0x15 (w64 va) s) ∧
       (inPage e → (u.writes = true → (pteLoc e va).wr = true) →
         (s.me.kind = .handler → coreOf s.cur ≠ homeEp (pteLoc e va).home → dmAccess u va n s = trap 0x15 (w64 va) s) ∧
         ((s.me.kind = .handler → coreOf s.cur = homeEp (pteLoc e va).home) →
           (attrBad u (pteLoc e va) = true → dmAccess u va n s = trap 0x16 (w64 va) s) ∧
           (attrBad u (pteLoc e va) = false → Reads (dmAccess u va n) s (pteLoc e va) s))))) ∧
  (∀ (s : State) (a n port : Nat),
     (a % n ≠ 0 → spAccess a n s = trap 0x14 (w64 a) s ∧ hmAccess a n s = trap 0x14 (w64 a) s ∧
       pmAccess port a n s = trap 0x14 (w64 a) s) ∧
     (a % n = 0 → s.spSize (s.prt s.me.part) ≤ a → spAccess a n s = trap 0x13 (w64 a) s) ∧
     (∀ h k, a % n = 0 → s.me.kind ≠ .handler → spPlace s (s.prt s.me.part) a = some (h, k) → Reads (spAccess a n) s h s) ∧
     (∀ hp, a % n = 0 →
       (s.ats.find? (fun e => e.1 == atsKey s.me.part (coreDie (coreOf s.cur)) (a / 4096))).map (·.2) = some hp →
       ((s.prt s.me.part).hgrant = false → hmAccess a n s = trap 0x15 (w64 a) s) ∧
       ((s.prt s.me.part).hgrant = true → s.me.kind ≠ .handler → Reads (hmAccess a n) s (hp * 4096 + a % 4096) s) ∧
       (s.me.kind = .handler → hmAccess a n s = trap 0x15 (w64 a) s)) ∧
     (a % n = 0 → (s.ats.find? (fun e => e.1 == atsKey s.me.part (coreDie (coreOf s.cur)) (a / 4096))).map (·.2) = none →
       (s.me.wait = .atsFault (a / 4096) → hmAccess a n s = trap 0x11 (w64 a) s) ∧
       (s.me.wait ≠ .atsFault (a / 4096) → hmAccess a n s = blockWait (.ats (a / 4096)) s)) ∧
     (a % n = 0 → (bitOf ((s.prt s.me.part).cfReg (0x48 + port)) 63 = false → pmAccess port a n s = trap 0x12 (w64 a) s) ∧
       (bitOf ((s.prt s.me.part).cfReg (0x48 + port)) 63 = true →
         (s.me.kind ≠ .handler → Reads (pmAccess port a n) s () s) ∧
         (s.me.kind = .handler → pmAccess port a n s = trap 0x15 (w64 a) s))) ∧
     -- a handler's SP access stays at its own home
     (∀ h k, a % n = 0 → s.me.kind = .handler → spPlace s (s.prt s.me.part) a = some (h, k) →
       (coreOf s.cur ≠ homeEp h → spAccess a n s = trap 0x15 (w64 a) s) ∧
       (coreOf s.cur = homeEp h → Reads (spAccess a n) s h s)) ∧
     -- and it has no CF access, whatever the class of the register, and no MB access
     (∀ wr, s.me.kind = .handler → cfCheck a wr s = trap 0x15 (w64 a) s) ∧
     (s.me.kind = .handler → ∃ fix tv, checkHandlerMb s = .error (.trap fix 0x15 tv))) ∧
  (∀ (c : Ctl) (o : Ord) (po : Bool) (port : BitVec 3) (op : AtOp) (wd row : BitVec 5) (d : LdDst) (a : StSrc) (b : Src) (base : WG)
     (off minv : WI) (t : Ty) (v : VReg) (s : State),
     let odd (e : Instr) (va : Nat) : Prop := exec e s = .next (s.trapped c 0x14 (w64 va))
     let va := (wgVal s.me base + wiVal s.me off).toNat
     let sp (n : Nat) : Nat := (wgVal s.me base + wiVal s.me off * w64 n).toNat % 2 ^ 32
     let x := (wgVal s.me base).toNat
     let r := (s.me.w row.toNat).toNat
     (Ready c (ldLane d) (ldUses d base off) s →
       (va % ldBytes d ≠ 0 → odd (.ldd c o d base off) va ∧ odd (.ldh c o d base off) va) ∧
       (sp (ldBytes d) % ldBytes d ≠ 0 → odd (.ldsp c o d base off) (sp (ldBytes d)))) ∧
     (Ready c (ldLane d) ((ldUses d base off).and pmFeat) s → va % ldBytes d ≠ 0 → odd (.ldp c port po d base off) va) ∧
     (Ready c (stLane a) (stUses base off a) s →
       (va % stBytes a ≠ 0 → odd (.std c o base off a) va ∧ odd (.sth c o base off a) va) ∧
       (sp (stBytes a) % stBytes a ≠ 0 → odd (.stsp c o base off a) (sp (stBytes a)))) ∧
     (Ready c (stLane a) ((stUses base off a).and pmFeat) s → va % stBytes a ≠ 0 → odd (.stp c port po base off a) va) ∧
     (Ready c false (atUses 0x72 wd base b) s → x % 2 ^ 32 % atBytes op ≠ 0 → odd (.atsp c o op wd base b) (x % 2 ^ 32)) ∧
     (Ready c false (atUses 0x75 wd base b) s → x % atBytes op ≠ 0 → odd (.atd c o op wd base b) x) ∧
     (Ready c false (atUses 0x7A wd base b) s → x % atBytes op ≠ 0 → odd (.ath c o op wd base b) x) ∧
     (Ready c false ((atUses 0x7D wd base b).and pmFeat) s → x % atBytes op ≠ 0 → odd (.atp c port po op wd base b) x) ∧
     (Ready c true (((Uses.w row).and (Uses.group v 2)).and { feats := [0] }) s → r % 256 ≠ 0 → odd (.rowadd c o t row v) r) ∧
     (Ready c true (((((Uses.group v 2).and (Uses.w row)).and (Uses.wi minv)).and { feats := [0] }).and
         { extra := [.rver], conflict := some 0x77 }) s → r % 256 ≠ 0 → odd (.rowld c o t v row minv) r))

/-- The loads of the four spaces (R159, R165, R166): with the checks passed and the path open, the reply is owed to the
destination, the message is on its way, and the thread goes on. The stores of the four spaces: the data is read, and
the message leaves, or is held in an open region (R294). The address stored to is the place in the message, in the
width of the data (R159). (In part the model's own reading or choice: assumption 19 of the log.) -/
def Obligations.LoadsAndStoresLeave : Prop :=
  (∀ (c : Ctl) (o : Ord) (d : LdDst) (base : WG) (off : WI) (s : State),
     let g := guardOf s.me c
     let va := (wgVal s.me base + wiVal s.me off).toNat
     let ea := (wgVal s.me base + wiVal s.me off * w64 (ldBytes d)).toNat % 2 ^ 32
     let acq := o.acq.isSome
     (Ready c (ldLane d) (ldUses d base off) s →
       (∀ l, Reads (dmAccess .load va (ldBytes d)) s l s → s.maySend (s.pathTo l.home) false →
         exec (.ldd c o d base off) s = .next (retire (s.sentLoad (s.pathTo l.home) (homeEp l.home)
           (.load (.dm l) (ldBytes d)) d g acq spaceDm l.key) .seq)) ∧
       (∀ h, Reads (spAccess ea (ldBytes d)) s h s → s.maySend (s.pathTo h) false →
         exec (.ldsp c o d base off) s = .next (retire (s.sentLoad (s.pathTo h) (homeEp h)
           (.load (.sp ea) (ldBytes d)) d g acq spaceSp ea) .seq)) ∧
       (∀ a, Reads (hmAccess va (ldBytes d)) s a s → s.maySend .ls false →
         exec (.ldh c o d base off) s = .next (retire (s.sentLoad .ls hostEp (.hmLoad a (ldBytes d) []) d g acq spaceHm a)
           .seq))) ∧
     (∀ (port : BitVec 3) (b : Bool),
       let u := (ldUses d base off).and pmFeat
       Ready c (ldLane d) u s → Reads (pmAccess port.toNat va (ldBytes d)) (s.begun u) () (s.begun u) →
       (s.begun u).maySend .ls false →
       exec (.ldp c port b d base off) s = .next (retire ((s.begun u).sentLoad .ls (peerEp port.toNat)
         (.pmLoad va (ldBytes d)) d g b (spacePm port.toNat) va) .seq))) ∧
  (∀ (c : Ctl) (o : Ord) (base : WG) (off : WI) (a : StSrc) (s s1 : State) (data : List (Option Byte)),
     let g := guardOf s.me c
     let va := (wgVal s.me base + wiVal s.me off).toNat
     let ea := (wgVal s.me base + wiVal s.me off * w64 (stBytes a)).toNat % 2 ^ 32
     let rel := o.rel.isSome
     let u := stUses base off a
     let s0 := s.begun u
     (Ready c (stLane a) u s → Reads (storeData a g) s0 data s1 →
       (∀ l, Reads (dmAccess .store va (stBytes a)) s0 l s0 → s1.maySendOrHold (s1.pathTo l.home) rel →
         exec (.std c o base off a) s = .next (retire (s1.sentOrHeld
           ⟨[s1.mkMsg (s1.pathTo l.home) (homeEp l.home) 0 (.store (.dm l) data)], rel, false, spaceDm, l.key, data⟩) .seq)) ∧
       (∀ h, Reads (spAccess ea (stBytes a)) s0 h s0 → s1.maySendOrHold (s1.pathTo h) rel →
         exec (.stsp c o base off a) s = .next (retire (s1.sentOrHeld
           ⟨[s1.mkMsg (s1.pathTo h) (homeEp h) 0 (.store (.sp ea) data)], rel, false, spaceSp, ea, data⟩) .seq)) ∧
       (∀ x, Reads (hmAccess va (stBytes a)) s0 x s0 → s1.maySendOrHold .ls rel →
         exec (.sth c o base off a) s = .next (retire (s1.sentOrHeld
           ⟨[s1.mkMsg .ls hostEp 0 (.hmStore x data)], rel, false, spaceHm, x, data⟩) .seq))) ∧
     (∀ (port : BitVec 3) (b : Bool),
       let u' := u.and pmFeat
       Ready c (stLane a) u' s → Reads (pmAccess port.toNat va (stBytes a)) (s.begun u') () (s.begun u') →
       Reads (storeData a g) (s.begun u') data s1 → s1.maySendOrHold .ls b →
       exec (.stp c port b base off a) s = .next (retire (s1.sentOrHeld
         ⟨[s1.mkMsg .ls (peerEp port.toNat) 0 (.pmStore va data)], b, false, spacePm port.toNat, va, data⟩) .seq)))

/-- The atomics of the four spaces (R160): the operand and, as comparand, the old destination go with the message; the
old value is owed to the destination. (In part the model's own reading or choice: assumptions 19 and 94 of the log.) -/
def Obligations.AtomicsLeave : Prop :=
  ∀ (c : Ctl) (o : Ord) (op : AtOp) (d : BitVec 5) (base : WG) (b : Src) (s s1 : State) (x : W64),
    let va := (wgVal s.me base).toNat
    let acq := o.acq.isSome
    let rel := o.rel.isSome
    (∀ l, let u := atUses 0x75 d base b
      Ready c false u s → Reads (dmAccess .atomic va (atBytes op)) (s.begun u) l (s.begun u) →
      Reads (readSrc64 .b64 b) (s.begun u) x s1 → s1.maySend (s1.pathTo l.home) rel →
      exec (.atd c o op d base b) s = .next (retire (s1.sentWord (s1.pathTo l.home) (homeEp l.home)
        (.atomic op (.dm l) x (s1.me.w d.toNat)) d acq) .seq)) ∧
    (∀ h, let u := atUses 0x72 d base b
      Ready c false u s → Reads (spAccess (va % 2 ^ 32) (atBytes op)) (s.begun u) h (s.begun u) →
      Reads (readSrc64 .b64 b) (s.begun u) x s1 → s1.maySend (s1.pathTo h) rel →
      exec (.atsp c o op d base b) s = .next (retire (s1.sentWord (s1.pathTo h) (homeEp h)
        (.atomic op (.sp (va % 2 ^ 32)) x (s1.me.w d.toNat)) d acq) .seq)) ∧
    (∀ a, let u := atUses 0x7A d base b
      Ready c false u s → Reads (hmAccess va (atBytes op)) (s.begun u) a (s.begun u) →
      Reads (readSrc64 .b64 b) (s.begun u) x s1 → s1.maySend .ls rel →
      exec (.ath c o op d base b) s =
        .next (retire (s1.sentWord .ls hostEp (.hmAtomic op a x (s1.me.w d.toNat)) d acq) .seq)) ∧
    (∀ (port : BitVec 3) (q : Bool), let u := (atUses 0x7D d base b).and pmFeat
      Ready c false u s → Reads (pmAccess port.toNat va (atBytes op)) (s.begun u) () (s.begun u) →
      Reads (readSrc64 .b64 b) (s.begun u) x s1 → s1.maySend .ls q →
      exec (.atp c port q op d base b) s = .next (retire (s1.sentWord .ls (peerEp port.toNat)
        (.pmAtomic op va x (s1.me.w d.toNat)) d q) .seq))

/-- Whole rows (R162 to R164), the words of mailboxes and configuration (R167, R168), and fences (R84, R169). (In part
the model's own reading or choice: assumptions 19 and 103 of the log.) -/
def Obligations.RowsWordsFences : Prop :=
  ∀ (c : Ctl) (s s1 : State),
    (∀ (o : Ord) (t : Ty) (row : BitVec 5) (a : VReg) (l : DmLoc) (xs : List Lanes),
      let u := ((Uses.w row).and (Uses.group a 2)).and { feats := [0] }
      let s0 := s.begun u
      Ready c true u s → Reads (dmAccess .rowadd (s.me.w row.toNat).toNat 256) s0 l s0 →
      Reads (readGroup (s0.me.vIdx a) 2) s0 xs s1 → rowHeld s1.me l.key = false →
      (o.row = true → s1.me.specOn = false → s1.pendingRow s1.me.task l.key = false) →
      s1.maySendOrHold (s1.pathTo l.home) o.rel.isSome →
      exec (.rowadd c o t row a) s = .next (retire (s1.sentOrHeld ⟨[s1.mkMsg (s1.pathTo l.home) (homeEp l.home) 0
        (.rowadd (.dm l) t (guardOf s.me c) xs.flatten)], o.rel.isSome, false, spaceDm, l.key, []⟩) .seq)) ∧
    (∀ (o : Ord) (t : Ty) (d : VReg) (row : BitVec 5) (minv : WI) (l : DmLoc),
      let u := ((((Uses.group d 2).and (Uses.w row)).and (Uses.wi minv)).and { feats := [0] }).and
        { extra := [.rver], conflict := some 0x77 }
      let s0 := s.begun u
      Ready c true u s → Reads (dmAccess .rowld (s.me.w row.toNat).toNat 256) s0 l s0 → rowHeld s0.me l.key = false →
      s0.maySend (s0.pathTo l.home) false →
      exec (.rowld c o t d row minv) s =
        .next (retire (s0.sentRow (s0.pathTo l.home) l (wiVal s0.me minv) d (guardOf s.me c) o) .seq)) ∧
    (s.me.kind ≠ .handler → s.maySend .ls false →
      (∀ d mb word, Ready c false (Uses.w d) s →
        exec (.ldmb c d mb word) s =
          .next (retire (s.sentWord .ls (mbEp s.me.part) (.mbRead mb.toNat word.toNat false) d false) .seq) ∧
        exec (.ldmbOut c d mb word) s =
          .next (retire (s.sentWord .ls (mbEp s.me.part) (.mbRead mb.toNat word.toNat true) d false) .seq)) ∧
      (∀ d num, Ready c false ((Uses.w d).and (Uses.wi num)) s → wiNat s.me num < 2 ^ 15 →
        cfClass (wiNat s.me num) ≠ .shuone →
        exec (.ldcf c d num) s =
          .next (retire (s.sentReg .ls (mbEp s.me.part) (.cfRead (wiNat s.me num)) d
            (if wiNat s.me num = 0xD4 then .status else .word) (wiNat s.me num == 0xD4)) .seq))) ∧
    -- the status of a pre-emption acquires on every path (R344), as a grant does; any other reply on its own
    (∀ (o : Owed) (p : Path), ((∃ r, o.fill = .status r) ∨ ∃ r, o.fill = .recd r) → o.acquires p = o.acq) ∧
    (∀ (o : Owed) (p : Path), (∀ r, o.fill ≠ .status r) → (∀ r, o.fill ≠ .recd r) → o.acquires p = (o.acq && o.path == p)) ∧
    (∀ mb word a x, let u := (Uses.src a).and { conflict := some 0x7F }
      Ready c false u s → s.me.kind ≠ .handler → Reads (readSrc64 .b64 a) (s.begun u) x s1 → s1.maySend .ls false →
      exec (.stmb c mb word a) s = .next (retire (s1.post (s1.mkMsg .ls (mbEp s1.me.part) 0
        (.mbWrite mb.toNat word.toNat x))) .seq)) ∧
    (∀ num a x, let u := ((Uses.wi num).and (Uses.src a)).and { conflict := some 0x81 }
      Ready c false u s → s.me.kind ≠ .handler → wiNat s.me num < 2 ^ 15 →
      cfClass (wiNat s.me num) ≠ .shuone → cfClass (wiNat s.me num) ≠ .ro →
      Reads (readSrc64 .b64 a) (s.begun u) x s1 → s1.maySend .ls false →
      exec (.stcf c num a) s = .next (retire (s1.post (s1.mkMsg .ls (mbEp s1.me.part) 0
        (.cfWrite (wiNat s.me num) x))) .seq)) ∧
    -- a fence retires at once; it waits while an access of its classes that precedes it has still to be performed
    (∀ scope classes, Ready c false { conflict := some 0x82 } s → exec (.fence c scope classes) s =
      .next (retire (s.modMe (Thread.withFence s (classPaths classes))) .seq)) ∧
    (∀ ps n, s.fenceWaits s.cur (ps, n) = true ↔
      (∃ m ∈ s.inFlight, m.task = s.me.task ∧ m.part = s.me.part ∧ m.path ∈ ps ∧ isAccess m.req = true ∧ m.age < n) ∨
      (Path.cp ∈ ps ∧ ∃ e ∈ s.copies, ∃ k ∈ e.2, k.task = s.me.task ∧ k.part = s.me.part ∧ k.over = false ∧ k.age < n)) ∧
    (∀ ps, s.fenceWaits s.cur (ps, s.me.retired) = true → (ps, s.me.retired) ∈ (Thread.withFence s ps s.me).fences) ∧
    -- and holds back the later accesses of its own classes, and no others (R84)
    (∀ f p rel, f ∈ s.me.fences → p ∈ f.1 → s.fenceWaits s.cur f = true →
      waitSend p rel s = block s ∧ waitAccess p s = block s) ∧
    (∀ p, (∀ f ∈ s.me.fences, p ∈ f.1 → s.fenceWaits s.cur f = false) → (∀ o ∈ s.me.owed, o.acquires p = false) →
      Reads (waitAccess p) s () s)

/-! ## Tasks -/

/-- R216: the checks 2 to 6 of a record in their order: its bodies, DCOFF, the span of its anchor, the anchor's
translation or its place in SP, the span of an anchor in a STRIPED page, then the counter block: its translation, W
and attribute. An anchor that passes gives the record its home, and a block that passes gives the deposit its own. A
page that no buffer holds is walked for. R203, R214, R217: a checked record counts in OUT of its core and leaves for
its home, or its counter block, or is held; at the limit the thread stalls and nothing is counted. One that has to
wait for earlier accesses counts while it waits. (In part the model's own reading or choice: assumptions 19, 20, 83
and 115 of the log.) -/
def Obligations.RecordChecks : Prop :=
  (∀ (s : State) (r : Rec),
     let a := Rec.abase r
     let ok := nearEligible (Rec.header r) = true ∨ farEligible (Rec.header r) = true
     let dc := (Rec.dcoff r) % 256 = 0 ∧ (Rec.dcoff r = 0 ∨ Rec.spAnchor r = false)
     let n := if Rec.spAnchor r = true then 4096 else 2 ^ 21
     let within (n : Nat) : Prop := Rec.alen r = 0 ∨ a.toNat % n + Rec.alen r ≤ n
     let held (va : Nat) : Option W64 := heldPte s (coreBufs (coreOf s.cur)) s.me.part (va / 2 ^ 21)
     let inPage (e : W64) (va : Nat) : Prop := ¬ ((pteLoc e va).attr = 2#2 ∧ sparseLimit ≤ (pteLoc e va).off)
     -- an address has no translation; a page is still to be walked for; an entry translates an address
     let faults (va : Nat) : Prop := 2 ^ 48 ≤ va ∨ (held va = none ∧ s.me.wait = .walkFault (va / 2 ^ 21)) ∨
       ∃ e, held va = some e ∧ ¬ inPage e va
     let walks (va : Nat) : Prop := va < 2 ^ 48 ∧ held va = none ∧ s.me.wait ≠ .walkFault (va / 2 ^ 21) ∧
       s.me.wait ≠ .walkPoison (va / 2 ^ 21)
     let translates (va : Nat) (e : W64) : Prop := va < 2 ^ 48 ∧ held va = some e ∧ inPage e va
     -- an anchor that passes checks 2 to 5: its place and its home
     let passes (x : Loc) (home : Nat) : Prop := ok ∧ dc ∧ within n ∧
       ((Rec.spAnchor r = true ∧ fieldOf a 32 31 = 0 ∧ x = .sp (fieldOf a 0 32) ∧
           ∃ k, spPlace s (s.prt s.me.part) (fieldOf a 0 32) = some (home, k)) ∨
        (Rec.spAnchor r = false ∧ ∃ e, translates a.toNat e ∧ x = .dm (pteLoc e a.toNat) ∧ home = (pteLoc e a.toNat).home ∧
           ((pteLoc e a.toNat).attr = 0#2 → within 4096)))
     let blk := (a &&& 0xFFFFFFFFFFFFFF00#64) + BitVec.ofInt 64 (Rec.dcoff r)
     (¬ ok → checkRecord r s = trap 0x21 0#64 s) ∧
     (ok → ¬ dc → checkRecord r s = trap 0x21 32#64 s) ∧
     (ok → dc → ¬ within n → checkRecord r s = trap 0x20 a s) ∧
     (ok → dc → within n → Rec.spAnchor r = true →
       (fieldOf a 32 31 ≠ 0 ∨ spPlace s (s.prt s.me.part) (fieldOf a 0 32) = none) → checkRecord r s = trap 0x13 a s) ∧
     (ok → dc → within n → Rec.spAnchor r = false →
       (faults a.toNat → checkRecord r s = trap 0x10 a s) ∧
       (walks a.toNat → checkRecord r s = blockWait (.walk (a.toNat / 2 ^ 21)) s) ∧
       (∀ e, translates a.toNat e → (pteLoc e a.toNat).attr = 0#2 → ¬ within 4096 → checkRecord r s = trap 0x20 a s)) ∧
     (∀ x home, passes x home →
       (Rec.dcoff r = 0 → Reads (checkRecord r) s ⟨home, x, none⟩ s) ∧
       (Rec.dcoff r ≠ 0 →
         (faults blk.toNat → checkRecord r s = trap 0x10 blk s) ∧
         (walks blk.toNat → checkRecord r s = blockWait (.walk (blk.toNat / 2 ^ 21)) s) ∧
         (∀ e, translates blk.toNat e → let l := pteLoc e blk.toNat
           (l.wr = false → checkRecord r s = trap 0x15 blk s) ∧
           (l.wr = true → l.attr = 2#2 → checkRecord r s = trap 0x16 blk s) ∧
           (l.wr = true → l.attr ≠ 2#2 → Reads (checkRecord r) s ⟨l.home, x, some l⟩ s))))) ∧
  (∀ (s : State) (r : Rec) (x : Target),
     let c := s.core (coreOf s.cur)
     let lim := if c.spawnLimit = 0 then 1 else c.spawnLimit
     let room : Prop := s.me.outTaken = true ∨ c.spawnOut < lim
     (room → (if s.me.specOn = true then s.counted.heldOn (coreOf s.cur) < 64
         else s.counted.maySendRecord (s.counted.recordPath x.home)) →
       Reads (sendRecord r x) s () (s.sentRecord r x)) ∧
     (room → s.me.specOn = false → ¬ s.counted.maySendRecord (s.counted.recordPath x.home) →
       sendRecord r x s = blockWith keepOut s) ∧
     (¬ room → sendRecord r x s = block s) ∧
     (let n := if s.me.outTaken then c.spawnOut else c.spawnOut + 1
      (s.counted.core (coreOf s.cur)).spawnOut = n ∧ s.counted.me = { s.me with outTaken := false } ∧ s.counted.mem = s.mem ∧
      ((keepOut s).core (coreOf s.cur)).spawnOut = n ∧ (keepOut s).me = { s.me with outTaken := true } ∧
      (∀ k, k ≠ s.cur → (keepOut s).thr k = s.thr k) ∧ (keepOut s).net = s.net ∧ (keepOut s).homes = s.homes ∧
      (keepOut s).mem = s.mem) ∧
     -- the message: to the queue of the anchor's home, with the anchor for the check of its frame, or a deposit at the block
     (∀ no, let m := recordMsg s r x no
       m.dst = homeEp x.home ∧ m.tok = no ∧ m.path = s.recordPath x.home ∧ m.task = s.me.task ∧
       (∀ l, x.block = some l → m.req = .deposit (.dm l) r) ∧
       (x.block = none → m.req = .record r true ∧ ∀ l, x.anchor = .dm l → m.loc = some l)))

/-- The instructions that make a record (R214, R215, R220, R221): what the record holds, word by word, and that it is
checked and sent. A migrating task ends. (In part the model's own reading or choice: assumptions 34, 83 and 116 of
the log.) -/
def Obligations.TaskRecords : Prop :=
  ∀ (c : Ctl) (s s1 s2 : State),
    (∀ desc base len ds, let u := (((Uses.wi desc).and (Uses.wg base)).and (Uses.wi len)).and (Uses.args 24)
      Ready c false u s → wiWithin s.me (2 ^ 32 - 1) len → Reads (readDesc desc) s ds s1 →
      Reads (checkAndSend (descRecord ds (wgVal s.me base) (w64 (wiNat s.me len))
        (recArgs s1.me 24 (hdrArgc (ds.getD 0 0#64))))) s1 () s2 →
      exec (.spawn c desc base len) s = .next (retire s2 .seq)) ∧
    -- what OUT counts already waits
    (∀ desc base len ds, let u := (((Uses.wi desc).and (Uses.wg base)).and (Uses.wi len)).and (Uses.args 24)
      Ready c false u s → wiWithin s.me (2 ^ 32 - 1) len → Reads (readDesc desc) s ds s1 →
      checkAndSend (descRecord ds (wgVal s.me base) (w64 (wiNat s.me len))
        (recArgs s1.me 24 (hdrArgc (ds.getD 0 0#64)))) s1 = blockWith keepOut s1 →
      exec (.spawn c desc base len) s = .next (keepOut s)) ∧
    (∀ w bs, Ready c false (Uses.w w) s → Reads (readPre (s.me.w w.toNat).toNat 128) s bs s1 →
      Reads (checkAndSend (bytesWords 16 bs)) s1 () s2 →
      exec (.spawnRec c (.mem w)) s = .next (retire s2 .seq)) ∧
    (∀ v ls, Ready c false (Uses.vr v) s → Reads (readVReg v) s ls s1 → Reads (checkAndSend (lanesRecord ls)) s1 () s2 →
      exec (.spawnRec c (.vec v)) s = .next (retire s2 .seq)) ∧
    (∀ entry, Ready c false ((Uses.wi entry).and (Uses.args 24)) s →
      Reads (checkAndSend (forkRecord s.me (entryVal s.me entry) (s.me.gReg 8) (s.me.gReg 9) 0#64 0#64
        (recArgs s.me 24 7))) s () s1 →
      exec (.fork c entry) s = .next (retire s1 .seq)) ∧
    (∀ entry base len, Ready c false ((((Uses.wi entry).and (Uses.wg base)).and (Uses.wi len)).and (Uses.args 24)) s →
      wiWithin s.me (2 ^ 32 - 1) len →
      Reads (checkAndSend (forkRecord s.me (entryVal s.me entry) (wgVal s.me base) (w64 (wiNat s.me len)) 0#64 0#64
        (recArgs s.me 24 7))) s () s1 →
      exec (.forkAnchored c entry base len) s = .next (retire s1 .seq)) ∧
    (∀ entry base len,
      Ready c false (((((Uses.wi entry).and (Uses.wg base)).and (Uses.wi len)).and (Uses.args 0)).and { conflict := some 0x94 }) s →
      wiWithin s.me (2 ^ 32 - 1) len →
      Reads (checkAndSend (forkRecord s.me (entryVal s.me entry) (wgVal s.me base) (w64 (wiNat s.me len)) s.me.cont
        (s.me.flags.setWidth 64) (recArgs s.me 0 7))) s () s1 →
      let e := (s.core (coreOf s.cur)).engine
      ((e.holder = some s.cur → e.loading = false ∧ e.jobs = []) →
        (s1.me.owed = [] → exec (.migrate c entry base len) s = .next (endTask s1 s1.cur)) ∧
        (s1.me.owed ≠ [] → exec (.migrate c entry base len) s = .next (keepOut s))) ∧
      -- the flags of a matrix instruction still at work come first (R240)
      (e.holder = some s.cur → (e.loading = true ∨ e.jobs ≠ []) → exec (.migrate c entry base len) s = .next s)) ∧
    -- the sixteen words, of eight bytes each, lowest first
    (∀ desc bs, Reads (readPre (entryVal s.me desc).toNat 64) s bs s1 → Reads (readDesc desc) s (bytesWords 8 bs) s1) ∧
    (∀ (n k : Nat) (bs : List Byte), k < n → (bytesWords n bs).getD k 0#64 = bytesWord ((bs.drop (8 * k)).take 8)) ∧
    (∀ (ls : Lanes) (k : Nat), ls.length = 32 → k < 16 →
      Rec.word (lanesRecord ls) k = ls.getD (2 * k + 1) 0#32 ++ ls.getD (2 * k) 0#32) ∧
    -- the arguments: `w` registers from a first one on, up to ARGC, and zeros
    (∀ (t : Thread) (start argc : Nat), (recArgs t start argc).length = 8 ∧
      ∀ j, j < 8 → (recArgs t start argc).getD j 0#64 = if j ≤ argc then t.w (start + j) else 0#64) ∧
    -- from a descriptor: its words, with ABASE and ALEN of the instruction, and the arguments (R214)
    (∀ (d : List W64) (base len : W64) (args : List W64), d.length = 8 →
      let r := descRecord d base len args
      Rec.header r = d.getD 0 0#64 ∧ Rec.near r = d.getD 1 0#64 ∧ Rec.far r = d.getD 2 0#64 ∧ Rec.abase r = base ∧
      Rec.alen r = (len.extractLsb' 0 32).toNat ∧ Rec.dcoff r = ((d.getD 4 0#64).extractLsb' 32 32).toInt ∧
      Rec.cont r = d.getD 5 0#64 ∧ Rec.flags r = d.getD 6 0#64 ∧ Rec.word r 7 = d.getD 7 0#64 ∧
      ∀ j, Rec.arg r j = args.getD j 0#64) ∧
    -- from the task itself: its header with N and F set and ARGC 7, one entry for both bodies (R220, R221)
    (∀ (t : Thread) (entry base len cont flags : W64) (args : List W64),
      let r := forkRecord t entry base len cont flags args
      hdrN (Rec.header r) = true ∧ hdrF (Rec.header r) = true ∧ hdrArgc (Rec.header r) = 7 ∧
      (∀ k, k < 56 ∨ 60 < k → (Rec.header r).getLsbD k = t.header.getLsbD k) ∧
      Rec.near r = entry ∧ Rec.far r = entry ∧ Rec.abase r = base ∧ Rec.alen r = (len.extractLsb' 0 32).toNat ∧
      Rec.dcoff r = 0 ∧ Rec.cont r = cont ∧ Rec.flags r = flags ∧ Rec.word r 7 = 0#64 ∧ ∀ j, Rec.arg r j = args.getD j 0#64)

/-- Launches (R201, R218, R219): a rectangle that is aligned and inside the partition gets one instance on each of its
cores; any other shape, a map that names no place, or a DCOFF, raises LAUNCH_SHAPE, and a descriptor without a far
body TASK_FORMAT. (In part the model's own reading or choice: assumptions 21, 83 and 133 of the log.) -/
def Obligations.Launches : Prop :=
  ∀ (c : Ctl) (s s1 s2 s3 : State),
    (∀ desc origin shape ds x y w h, let u := (((Uses.wi desc).and (Uses.wi origin)).and (Uses.wi shape)).and (Uses.args 24)
      Ready c false u s → Reads (readDesc desc) s ds s1 →
      let r := launchRecord ds s1.me
      hdrF (Rec.header r) = true → hdrGran (Rec.header r) ≤ 32 →
      originOf (wiVal s.me origin) = some (x, y) → shapeOf (wiVal s.me shape) = some (w, h) →
      (Rec.dcoff r = 0 → rectOk (s1.prt s1.me.part) x y w h = true → Reads (sendLaunch r x y w h) s1 .seq s2 →
        exec (.spawnr c desc origin shape) s = .next (retire s2 .seq)) ∧
      ((Rec.dcoff r ≠ 0 ∨ rectOk (s1.prt s1.me.part) x y w h = false) →
        exec (.spawnr c desc origin shape) s = .next (s.trapped c 0x22 0#64))) ∧
    -- an origin or a shape that names no rectangle, and a descriptor without a far body or with too many granules
    (∀ desc origin shape ds, let u := (((Uses.wi desc).and (Uses.wi origin)).and (Uses.wi shape)).and (Uses.args 24)
      Ready c false u s → Reads (readDesc desc) s ds s1 →
      let hd := Rec.header (launchRecord ds s1.me)
      (hdrF hd = true → hdrGran hd ≤ 32 → (originOf (wiVal s.me origin) = none ∨ shapeOf (wiVal s.me shape) = none) →
        exec (.spawnr c desc origin shape) s = .next (s.trapped c 0x22 0#64)) ∧
      ((hdrF hd = false ∨ 32 < hdrGran hd) → exec (.spawnr c desc origin shape) s = .next (s.trapped c 0x21 0#64))) ∧
    (∀ desc map shape ds n es x y w h,
      let u := (((Uses.wi desc).and (Uses.w map)).and (Uses.wi shape)).and (Uses.args 24)
      let a := (s.me.w map.toNat).toNat
      Ready c false u s → Reads (readDesc desc) s ds s1 → Reads (readPre a 8) s1 n s2 →
      1 ≤ (bytesWord n).toNat → (bytesWord n).toNat ≤ 256 → Reads (readMap a (bytesWord n).toNat 1) s2 es s3 →
      let r := launchRecord ds s3.me
      hdrF (Rec.header r) = true → hdrGran (Rec.header r) ≤ 32 → Rec.dcoff r = 0 →
      shapeOf (wiVal s.me shape) = some (w, h) → placeRect (s3.prt s3.me.part) es w h = some (x, y) →
      ∀ s4, Reads (sendLaunch r x y w h) s3 .seq s4 → exec (.spawnd c desc map shape) s = .next (retire s4 .seq)) ∧
    -- what `spawnd` refuses: a count outside 1 to 256, a shape that is none, a map and a shape with no place, and a DCOFF
    (∀ desc map shape ds n, let u := (((Uses.wi desc).and (Uses.w map)).and (Uses.wi shape)).and (Uses.args 24)
      let no : Host.Outcome State Fault Refusal := .next (s.trapped c 0x22 0#64)
      Ready c false u s → Reads (readDesc desc) s ds s1 → Reads (readPre (s.me.w map.toNat).toNat 8) s1 n s2 →
      ((bytesWord n).toNat = 0 ∨ 256 < (bytesWord n).toNat → hdrF (Rec.header (launchRecord ds s2.me)) = true →
        hdrGran (Rec.header (launchRecord ds s2.me)) ≤ 32 → exec (.spawnd c desc map shape) s = no) ∧
      (∀ es, 1 ≤ (bytesWord n).toNat → (bytesWord n).toNat ≤ 256 →
        Reads (readMap (s.me.w map.toNat).toNat (bytesWord n).toNat 1) s2 es s3 →
        let r := launchRecord ds s3.me
        hdrF (Rec.header r) = true → hdrGran (Rec.header r) ≤ 32 →
        (shapeOf (wiVal s.me shape) = none → exec (.spawnd c desc map shape) s = no) ∧
        (∀ w h, shapeOf (wiVal s.me shape) = some (w, h) →
          (placeRect (s3.prt s3.me.part) es w h = none → exec (.spawnd c desc map shape) s = no) ∧
          (Rec.dcoff r ≠ 0 → exec (.spawnd c desc map shape) s = no)))) ∧
    -- the record is the descriptor's, with the arguments; the operands; and where R201 places a rectangle
    (∀ (d : List W64) (t : Thread), d.length = 8 → launchRecord d t = d ++ recArgs t 24 (fieldOf (d.getD 0 0#64) 56 3)) ∧
    (∀ (v : W64) (x y : Nat), originOf v = some (x, y) ↔ v.toNat < 1024 ∧ x = v.toNat % 32 ∧ y = v.toNat / 32) ∧
    (∀ (v : W64) (w h : Nat), shapeOf v = some (w, h) ↔ ∃ i j, i ≤ 5 ∧ j ≤ 5 ∧ v.toNat = i + 8 * j ∧ w = 2 ^ i ∧ h = 2 ^ j) ∧
    (∀ (pt : Part) (w h : Nat), placeRect pt [] w h = none) ∧
    -- the die with the highest count that has an origin, the lowest among equals, and its first origin (R201)
    (∀ (pt : Part) (es : List W64) (w h x y : Nat), es.length ≤ 256 →
      let cnt (d : Nat) : Nat := (es.filter (fun e => fieldOf e 0 2 == d)).length
      let fits (d x y : Nat) : Prop := x < pt.w ∧ y < pt.h ∧ rectOk pt x y w h = true ∧ rectOnDie pt d x y w h = true
      placeRect pt es w h = some (x, y) ↔ ∃ d ∈ pt.dies, 1 ≤ cnt d ∧ fits d x y ∧
        (∀ x' y', fits d x' y' → y < y' ∨ (y = y' ∧ x ≤ x')) ∧
        ∀ d' ∈ pt.dies, 1 ≤ cnt d' → (cnt d < cnt d' ∨ (cnt d' = cnt d ∧ d' < d)) → ∀ x' y', ¬ fits d' x' y') ∧
    (∀ (pt : Part) (d x y w h : Nat), (rectOk pt x y w h = true ↔ x % w = 0 ∧ y % h = 0 ∧ x + w ≤ pt.w ∧ y + h ≤ pt.h) ∧
      (rectOnDie pt d x y w h = true ↔ ∀ i j, i < w → j < h → dieOf (pt.x0 + x + i) (pt.y0 + y + j) = d)) ∧
    (∀ (pt : Part) (es : List W64) (w h x y : Nat), placeRect pt es w h = some (x, y) →
      rectOk pt x y w h = true ∧ ∃ d ∈ pt.dies, (∃ e ∈ es, fieldOf e 0 2 = d) ∧ rectOnDie pt d x y w h = true) ∧
    -- what a launch sends
    (∀ (r : Rec) (x y w h : Nat),
      let room : Prop := s.me.outTaken = true ∨ (s.core (coreOf s.cur)).spawnOut < (s.core (coreOf s.cur)).limit
      (room → s.me.specOn = false → s.counted.maySendRecord .ls →
        Reads (sendLaunch r x y w h) s .seq (s.sentLaunch r x y w h)) ∧
      (room → s.me.specOn = false → ¬ s.counted.maySendRecord .ls → sendLaunch r x y w h s = blockWith keepOut s) ∧
      (¬ room → sendLaunch r x y w h s = block s)) ∧
    (∀ (pt : Part) (r : Rec) (lid x y w h i : Nat), 0 < w → i < w * h →
      ((launchMsgs s pt r lid x y w h).map (·.dst))[i]? = some (tileCore pt (x + i % w) (y + i / w)))

/-- Counter blocks and queues (R222 to R226): what each instruction sends, to the home of its block or of its address, on
the path it takes there. `setdep.held` and `decr` are releases; the messages about queues carry the translation of
their address for the home's check (R176), the questions owe a reply to their destination, and the grant of a `steal`
is an acquire. (In part the model's own reading or choice: assumptions 19, 74, 83, 111, 120 and 121 of the log.) -/
def Obligations.CountersAndQueues : Prop :=
  ∀ (c : Ctl) (s : State),
    (∀ blk count l, Ready c false ((Uses.w blk).and (Uses.wi count)) s →
      Reads (dmAccess .atomic (s.me.w blk.toNat).toNat 256) s l s → s.maySendPlain (s.pathTo l.home) false →
      exec (.setdep c blk count) s = .next (retire (s.sentPlain (s.pathTo l.home) (homeEp l.home)
        (.setdep (.dm l) (wiVal s.me count) none) false) .seq)) ∧
    (∀ blk count rec bs x l s1, Ready c false (((Uses.w blk).and (Uses.wi count)).and (Uses.w rec)) s →
      Reads (readPre (s.me.w rec.toNat).toNat 128) s bs s1 → Reads (checkRecord (bytesWords 16 bs)) s1 x s1 →
      Reads (dmAccess .atomic (s1.me.w blk.toNat).toNat 256) s1 l s1 → s1.maySendPlain (s1.pathTo l.home) true →
      exec (.setdepHeld c blk count rec) s = .next (retire (s1.sentPlain (s1.pathTo l.home) (homeEp l.home)
        (.setdep (.dm l) (wiVal s.me count) (some (bytesWords 16 bs))) true) .seq)) ∧
    (∀ blk l, Ready c false (Uses.w blk) s → Reads (dmAccess .atomic (s.me.w blk.toNat).toNat 256) s l s →
      s.maySendPlain (s.pathTo l.home) true →
      exec (.decr c blk) s =
        .next (retire (s.sentPlain (s.pathTo l.home) (homeEp l.home) (.decrement (.dm l)) true) .seq)) ∧
    (∀ addr q v loc h, Ready c false (((Uses.wg addr).and (Uses.wi q)).and (Uses.wi v)) s →
      wiWithin s.me 15 q → Reads (anchorHome (wgVal s.me addr)) s (loc, h) s → s.maySendPlain (s.recordPath h) false →
      let send (f : QField) : Host.Outcome State Fault Refusal := .next (retire (s.sentOrHeld
        ⟨[s.namedMsg (s.recordPath h) (loc, h) 0 (.qcfg (wiNat s.me q) f (wiVal s.me v))], false, false, spaceDm, 0, []⟩) .seq)
      ((wiVal s.me v).toNat ≤ 47 → exec (.qcfgThresh c addr q v) s = send .thresh) ∧
      ((wiVal s.me v).toNat ≤ 255 → exec (.qcfgTickets c addr q v) s = send .tickets) ∧
      ((wiVal s.me v).toNat % 128 = 0 → exec (.qcfgSpbase c addr q v) s = send .spbase) ∧
      ((wiVal s.me v).toNat < 2 ^ 24 → exec (.qcfgSpsize c addr q v) s = send .spsize)) ∧
    -- a question: its request is on its way to the home of the address, and its reply is owed
    (∀ d addr q loc h, let u := (((Uses.dst 0x98 d).and (Uses.w addr)).and (Uses.wi q)).and { conflict := some 0x98 }
      let s0 := s.begun u
      let s1 := match d with | .q _ => s0.modMe (fun t => { t with usedQueue := true }) | _ => s0
      Ready c false u s → wiWithin s.me 15 q → (∀ r, d = .n r → ∃ id, s.me.port r.toNat = .tx id) →
      Reads (anchorHome (s.me.w addr.toNat)) s0 (loc, h) s0 →
      (s0.maySend (s0.recordPath h) false → ((∀ r, d ≠ .w r) → s0.fencesOver s0.cur allPaths = true) →
        exec (.qstat c d addr q) s = .next (retire (s1.asked (s0.recordPath h) (loc, h) (.qstat (wiNat s.me q))
          (dstRegs d s.me) (dstFill d s.me) false) .seq)) ∧
      (s0.pathOpen s0.cur (s0.recordPath h) = false → exec (.qstat c d addr q) s = .next s)) ∧
    (∀ d addr q loc h, let u := (((Uses.vr d).and (Uses.w addr)).and (Uses.wi q)).and { conflict := some 0x99 }
      let p := s.recordPath h
      let ask (any : Bool) : Host.Outcome State Fault Refusal := .next (retire (s.asked p (loc, h) (.steal (wiNat s.me q) any)
        [.v (s.me.vIdx d)] (.recd (s.me.vIdx d)) true) .seq)
      Ready c false u s → wiWithin s.me 15 q → Reads (anchorHome (s.me.w addr.toNat)) s (loc, h) s →
      (s.maySend p false → exec (.steal c d addr q) s = ask false ∧ exec (.stealAny c d addr q) s = ask true) ∧
      (s.pathOpen s.cur p = false → exec (.steal c d addr q) s = .next s ∧ exec (.stealAny c d addr q) s = .next s)) ∧
    -- what such a message is, and where it stands
    (∀ p (x : Loc × Nat) req regs fill acq, let s' := s.asked p x req regs fill acq
      s'.me.owed = s.me.owed ++ [⟨s.nextId, regs, fill, [], acq, none, p⟩] ∧ s'.me.stk = s.me.stk ∧ s'.mem = s.mem ∧
      ∃ m, m.req = req ∧ m.dst = homeEp x.2 ∧ m.src = coreOf s.cur ∧ m.path = p ∧ m.tok = s.nextId ∧ m.thr = s.cur ∧
        m.part = s.me.part ∧ m.task = s.me.task ∧ (∀ l, x.1 = .dm l → m.loc = some l) ∧
        (p = .ls → s'.net = s.net ++ [m]) ∧
        (p = .nb ∨ p = .am → (s'.home (homeEp x.2)).local_ = (s.home (homeEp x.2)).local_ ++ [m] ∧ s'.net = s.net)) ∧
    -- the acquire of a grant holds the thread's accesses of every path back until the grant has landed (R210, R226)
    (∀ o p, o ∈ s.me.owed → o.acq = true → (∃ r, o.fill = .recd r) → s.pathOpen s.cur p = false)

/-- `done` and `done.j` (R111, R200): with every reply landed the task ends; a CONT, or the block named, is decremented
first. (In part the model's own reading or choice: assumption 34 of the log.) -/
def Obligations.TasksEnd : Prop :=
  ∀ (c : Ctl) (s : State), s.me.owed = [] →
    (Ready c false { conflict := some 0x08 } s →
      (s.me.cont = 0#64 → exec (.done c) s = .next (endTask s s.cur)) ∧
      (∀ l, s.me.cont ≠ 0#64 → Reads (dmAccess .atomic s.me.cont.toNat 256) s l s → s.maySendPlain (s.pathTo l.home) true →
        exec (.done c) s =
          .next (endTask (s.sentPlain (s.pathTo l.home) (homeEp l.home) (.decrement (.dm l)) true) s.cur))) ∧
    (∀ a l, Ready c false ((Uses.w a).and { conflict := some 0x08 }) s →
      Reads (dmAccess .atomic (s.me.w a.toNat).toNat 256) s l s → s.maySendPlain (s.pathTo l.home) true →
      exec (.doneJ c a) s =
        .next (endTask (s.sentPlain (s.pathTo l.home) (homeEp l.home) (.decrement (.dm l)) true) s.cur)) ∧
    -- R111: the slot is free again, its ports closed; its core's other threads and memory are as they were
    ((endTask s s.cur).me = Thread.free ∧ (∀ k, k ≠ s.cur → (endTask s s.cur).thr k = s.thr k) ∧
      (endTask s s.cur).mem = s.mem)

/-- R103, R104, R125, R126: an arrival counts and is recorded, once the thread's fences are over; the last one completes
the generation, which clears ARR, advances GEN and sets DONE; a wait goes on once DONE is set; `bar.sync` arrives and
waits, and does not arrive again after a restart while its arrival stands; COUNT 0 makes a barrier inert. R103: what
the completion of a generation does on its core: GEN rises, ARR clears, waiters go on, and DONE is set in the record
of every thread that arrived in the generation, on the core or saved from it; no other record changes. A thread that
waits goes on once it is released, and not before. `barcfg` (R103): COUNT and BARTO are written, and a COUNT that ARR
has reached completes the generation; the watchdog of a waiting thread raises BARRIER_TIMEOUT with the barrier's
number, precisely (R104). R125, R47: a barrier number above 127, or a COUNT above 255, in a register is refused with
ILLEGAL and OPERAND_RANGE. (In part the model's own reading or choice: assumptions 19, 27, 76 and 91 of the log.) -/
def Obligations.Barriers : Prop :=
  (∀ (c : Ctl) (b : WI) (s : State), Ready c false (Uses.wi b) s → wiWithin s.me 127 b → s.me.wait = .none →
     let n := wiNat s.me b
     let x := (s.core (coreOf s.cur)).bar n
     let free := s.fencesOver s.cur allPaths = true
     let arrived : State := (barArrive s s.cur n).modMe (fun t => { t with syncRec := some (n, x.gen, t.ip) })
     let waiting (s' : State) : State :=
       s'.modMe (fun t => { t with wait := .bar n ((s'.core (coreOf s'.cur)).bar n).barto (guardOf s.me c) })
     -- R104: the restarted instruction has arrived already, and its generation is the barrier's or has completed
     let stands : Prop := s.me.restarted = true ∧ s.me.syncRec = some (n, s.me.bar.gen, s.me.ip) ∧ s.me.bar.valid = true ∧
       s.me.bar.bar = n ∧ (s.me.bar.done = true ∨ (s.me.bar.set = s.barSet (coreOf s.cur) ∧ s.me.bar.gen = x.gen))
     (x.count = 0 ∨ free → exec (.barArr c b) s = .next (retire (barArrive s s.cur n) .seq)) ∧
     (x.count ≠ 0 → ¬ free → exec (.barArr c b) s = .next s) ∧
     (x.count = 0 → barArrive s s.cur n = s) ∧
     (x.count ≠ 0 → x.arr + 1 < x.count →
       let s1 := barArrive s s.cur n
       (s1.core (coreOf s.cur)).bar n = { x with arr := x.arr + 1 } ∧ s1.me.bar = ⟨true, n, x.gen, false, s.barSet (coreOf s.cur)⟩) ∧
     (x.count ≠ 0 → x.count ≤ x.arr + 1 → s.cur % 16 < slotsOf (coreOf s.cur) →
       let s1 := barArrive s s.cur n
       (s1.core (coreOf s.cur)).bar n = { x with arr := 0, gen := x.gen + 1#8 } ∧ s1.me.bar = ⟨true, n, x.gen, true, s.barSet (coreOf s.cur)⟩) ∧
     ((barRecDone s.me n = true ∨ x.count = 0) → exec (.barWait c b) s = .next (retire s .seq)) ∧
     (barRecDone s.me n = false → x.count ≠ 0 → exec (.barWait c b) s = .next (waiting s)) ∧
     (x.count = 0 → exec (.barSync c b) s = .next (retire s .seq)) ∧
     (stands → x.count ≠ 0 → s.me.bar.done = true → exec (.barSync c b) s = .next (retire s .seq)) ∧
     (stands → x.count ≠ 0 → s.me.bar.done = false → exec (.barSync c b) s = .next (waiting s)) ∧
     (¬ stands → x.count ≠ 0 → free → barRecDone arrived.me n = true → exec (.barSync c b) s = .next (retire arrived .seq)) ∧
     (¬ stands → x.count ≠ 0 → free → barRecDone arrived.me n = false →
       exec (.barSync c b) s = .next (waiting arrived)) ∧
     (¬ stands → x.count ≠ 0 → ¬ free → exec (.barSync c b) s = .next s)) ∧
  ((∀ (c : Ctl) (b : WI) (s : State), Ready c false (Uses.wi b) s → wiWithin s.me 127 b →
     (∀ k, s.me.wait = .barDone k →
       exec (.barWait c b) s = .next (retire s .seq) ∧ exec (.barSync c b) s = .next (retire s .seq)) ∧
     (∀ k w g, s.me.wait = .bar k w g → exec (.barWait c b) s = .next s ∧ exec (.barSync c b) s = .next s)) ∧
   ∀ (s : State) (core n : Nat),
     let x := (s.core core).bar n
     let s1 := barComplete s core n
     let hit (r : BarRec) : BarRec :=
       if r.valid = true ∧ r.bar = n ∧ r.gen = x.gen ∧ r.set = s.barSet core then { r with done := true } else r
     (s1.core core).bar n = { x with arr := 0, gen := x.gen + 1#8 } ∧
     (∀ k, k ≠ n → (s1.core core).bar k = (s.core core).bar k) ∧
     (∀ t ∈ s.coreThreads core, (s1.thr t).bar = hit (s.thr t).bar ∧
       (∀ m w g, (s.thr t).wait = .bar m w g → (s1.thr t).wait = if m = n then .barDone n else .bar m w g)) ∧
     (∀ t, t ∉ s.coreThreads core → s1.thr t = { s.thr t with bar := hit (s.thr t).bar }) ∧
     s1.saved.map (fun y => y.thread.bar) = s.saved.map (fun y => hit y.thread.bar) ∧
     s1.mem = s.mem ∧ s1.net = s.net) ∧
  ((∀ (c : Ctl) (b count barto : WI) (s : State), Ready c false (((Uses.wi b).and (Uses.wi count)).and (Uses.wi barto)) s →
     wiWithin s.me 127 b → wiWithin s.me 255 count →
     let n := wiNat s.me b
     let k := wiNat s.me count
     let x := (s.core (coreOf s.cur)).bar n
     let s1 := s.modCore (coreOf s.cur) (fun y => y.setBar n
       { x with count := k, barto := min (wiVal s.me barto).toNat (2 ^ 32 - 1) })
     exec (.barcfg c b count barto) s =
       .next (retire (if 1 ≤ k ∧ k ≤ x.arr then barComplete s1 (coreOf s.cur) n else s1) .seq)) ∧
   (∀ (t n barto : Nat) (g : W32) (s : State), (s.thr t).active = true → (s.thr t).wait = .bar n barto g → 1 ≤ barto →
     exec (.barrierTimeout t) s = .next (takeTrap s t false 0x07 (w64 n) g (s.thr t).ip))) ∧
  (∀ (c : Ctl) (b r : BitVec 5) (x y : WI) (s : State),
     let no (op fn field : Nat) (q : BitVec 5) : Host.Outcome State Fault Refusal :=
       .next (s.trapped c 0x01 (illegalTval (wField q) fn op field 5))
     (Ready c false (Uses.w b) s → 127 < (s.me.w b.toNat).toNat →
       exec (.barArr c (.w b)) s = no 0xA0 0 1 b ∧ exec (.barWait c (.w b)) s = no 0xA0 1 1 b ∧
       exec (.barSync c (.w b)) s = no 0xA0 2 1 b) ∧
     (Ready c false (((Uses.w b).and (Uses.wi x)).and (Uses.wi y)) s → 127 < (s.me.w b.toNat).toNat →
       exec (.barcfg c (.w b) x y) s = no 0xA1 0 1 b) ∧
     (Ready c false (((Uses.wi x).and (Uses.w r)).and (Uses.wi y)) s → wiWithin s.me 127 x → 255 < (s.me.w r.toNat).toNat →
       exec (.barcfg c x (.w r) y) s = no 0xA1 0 2 r))

/-! ## Messages, ports, regions -/

/-- R286, R287: the active messages and the bindings of tags, as they leave for the home of their address, with its
translation for the home's check (R176). They are no accesses: only `amsg.rel` waits for accesses, and a move holds
any of them back (R281, R288, R298). (In part the model's own reading or choice: assumptions 19 and 111 of the log.) -/
def Obligations.MessagesLeave : Prop :=
  ∀ (c : Ctl) (addr : WG) (tag x : WI) (s : State) (loc : Loc) (h : Nat),
    wiWithin s.me 255 tag → Reads (anchorHome (wgVal s.me addr)) s (loc, h) s →
    let args := (List.range 7).map (fun j => s.me.w (24 + j)) ++ [wgVal s.me addr]
    let req : Req := .amsg (wiNat s.me tag) ((wiVal s.me x).setWidth 32) args
    (Ready c false ((((Uses.wg addr).and (Uses.wi tag)).and (Uses.wi x)).and Uses.amArgs) s →
      (s.maySendNamed false →
        exec (.amsg c addr tag x) s = .next (retire (s.sentNamed (loc, h) req false) .seq)) ∧
      (s.maySendNamed true →
        exec (.amsgRel c addr tag x) s = .next (retire (s.sentNamed (loc, h) req true) .seq)) ∧
      (s.me.specOn = false → s.recordWaits = true → exec (.amsgRel c addr tag x) s = .next s)) ∧
    (Ready c false (((Uses.wg addr).and (Uses.wi tag)).and (Uses.wi x)) s → s.maySendNamed false →
      exec (.bind c addr tag x) s =
        .next (retire (s.sentNamed (loc, h) (.bind (wiNat s.me tag) (entryVal s.me x)) false) .seq)) ∧
    (Ready c false ((Uses.wg addr).and (Uses.wi tag)) s → s.maySendNamed false →
      exec (.unbind c addr tag) s =
        .next (retire (s.sentNamed (loc, h) (.unbind (wiNat s.me tag)) false) .seq))

/-- R289 to R291: a port opened to send has a route to its core and channel; one opened to receive takes its channel;
`close` unbinds it; a port already bound, a channel that has a receiver, and a target that is no press core of the
partition raise PORT_FAULT with codes 1, 2 and 3; all of it on a cellar core as on a press core (R50). (In part the
model's own reading or choice: assumption 31 of the log.) -/
def Obligations.StreamPorts : Prop :=
  ∀ (c : Ctl) (port : BitVec 3) (core chan : WI) (s : State), wiWithin s.me 1023 core → wiWithin s.me 15 chan →
    let u := (((Uses.wi core).and (Uses.wi chan)).and portUses).and { conflict := some 0xA5 }
    let v := ((Uses.wi chan).and portUses).and { conflict := some 0xA5 }
    let w := portUses.and { conflict := some 0xA6 }
    let ch := wiNat s.me chan
    (Ready c false u s → s.me.port port.toNat = .unbound →
      (∀ dst, (s.prt s.me.part).coreAt (wiNat s.me core) = some dst →
        ∃ s', exec (.openTx c port core chan) s = .next s' ∧ s'.me.port port.toNat = .tx s.nextId ∧
          ∃ r, s'.routes = s.routes ++ [r] ∧ r.id = s.nextId ∧ r.src = coreOf s.cur ∧ r.dst = dst ∧ r.chan = ch ∧
            r.complete = false ∧ r.words = [] ∧ r.closed = false ∧ r.taken = 0 ∧
            r.links = dimPath (coreX (coreOf s.cur)) (coreY (coreOf s.cur)) (coreX dst) (coreY dst)) ∧
      ((s.prt s.me.part).coreAt (wiNat s.me core) = none →
        exec (.openTx c port core chan) s = .next (s.trapped c 0x50 3#64))) ∧
    (Ready c false u s → s.me.port port.toNat ≠ .unbound →
      exec (.openTx c port core chan) s = .next (s.trapped c 0x50 1#64)) ∧
    (Ready c false v s → s.me.port port.toNat = .unbound → ((s.core (coreOf s.cur)).chan ch).receiver = none →
      ∃ s', exec (.openRx c port chan) s = .next s' ∧ s'.me.port port.toNat = .rx ch ∧
        ((s'.core (coreOf s.cur)).chan ch).receiver = some s.cur) ∧
    (Ready c false v s → s.me.port port.toNat = .unbound → ((s.core (coreOf s.cur)).chan ch).receiver ≠ none →
      exec (.openRx c port chan) s = .next (s.trapped c 0x50 2#64)) ∧
    (Ready c false w s → s.me.port port.toNat ≠ .unbound → (∀ o ∈ s.me.owed, o.fill ≠ .port port.toNat) →
      ∃ s', exec (.close c port) s = .next s' ∧ s'.me.port port.toNat = .unbound) ∧
    (Ready c false w s → s.me.port port.toNat = .unbound →
      exec (.close c port) s = .next (s.trapped c 0x08 (w64 port.toNat)))

/-- R293 to R295: `spec` opens a region; outside one, `commit` and `abort` give 0; in a region, `commit` releases what is
held, in order, gives its number and closes the region, and `abort` discards it. (In part the model's own reading or
choice: assumption 19 of the log.) -/
def Obligations.SpeculativeRegions : Prop :=
  ∀ (c : Ctl) (d : BitVec 5) (s : State),
    let u := (Uses.w d).and { feats := [2] }
    let s0 := s.begun u
    (Ready c false { feats := [2] } s →
      exec (.spec c) s = .next (retire ((s.begun { feats := [2] }).modMe (fun t => { t with specOn := true })) .seq)) ∧
    (Ready c false u s → s.me.specOn = false →
      exec (.commit c d) s = .next (retire (s0.modMe (fun t => t.setW d.toNat 0#64)) .seq) ∧
      exec (.abort c d) s = .next (retire (s0.modMe (fun t => t.setW d.toNat 0#64)) .seq)) ∧
    (Ready c false u s → s.me.specOn = true → (∀ n, s.me.wait ≠ .commit n) →
      ((releaseHeld s.me.held s0).me.held = [] →
        exec (.commit c d) s = .next (retire (((releaseHeld s.me.held s0).modMe (fun t => { t with specOn := false })).modMe
          (fun t => t.setW d.toNat (w64 s.me.held.length))) .seq)) ∧
      ((releaseHeld s.me.held s0).me.held ≠ [] → exec (.commit c d) s =
        .next ((releaseHeld s.me.held s).modMe (fun t => { t with wait := .commit s.me.held.length })))) ∧
    -- the held messages are posted in their order, up to the first that has to wait as it would have at its issue
    (∀ (h : Held) (hs : List Held),
      (heldWaits s h = true → releaseHeld (h :: hs) s = s.modMe (fun t => { t with held := h :: hs })) ∧
      (heldWaits s h = false → releaseHeld (h :: hs) s = releaseHeld hs (h.msgs.foldl releaseMsg s)) ∧
      releaseHeld [] s = s.modMe (fun t => { t with held := [] })) ∧
    (∀ m : Msg, (∀ r b, m.req ≠ .record r b) → (∀ l r, m.req ≠ .deposit l r) → releaseMsg s m = s.post m) ∧
    (∀ m : Msg, ((∃ r b, m.req = .record r b) ∨ (∃ l r, m.req = .deposit l r)) →
      releaseMsg s m = State.post { s with nextId := s.nextId + 1 } { m with tok := s.nextId }) ∧
    (∀ hs : List Held, s.me.moved = false → s.me.fences = [] → (∀ o ∈ s.me.owed, o.acq = false) →
      (∀ h ∈ hs, h.rel = false ∧ ∀ m ∈ h.msgs, m.path = .ls ∧ ∃ l data, m.req = .store l data) →
      ((releaseHeld hs s).net.map (fun m => { m with seq := 0 }) =
        s.net.map (fun m => { m with seq := 0 }) ++ (hs.flatMap Held.msgs).map (fun m => { m with seq := 0 })) ∧
      (releaseHeld hs s).me.held = []) ∧
    (Ready c false u s → s.me.specOn = true →
      ∃ s', exec (.abort c d) s = .next s' ∧ s'.me.specOn = false ∧ s'.me.held = [] ∧
        s'.me.w d.toNat = w64 s.me.held.length ∧ s'.net = s.net ∧ s'.mem = s.mem)

/-! ## Solera -/

/-- R315 to R322: a slot instruction posts its request with the slot, the word and the ring time, and waits; a slot
number at or above the pool's size raises SLOT_PROT with it and posts nothing. A fence of class {rg} holds the
request back (R84), so none is in force here. R315 to R322: a served request lands: the word or payload goes to the
destination, the condition to the pair, the flags are raised, and the thread goes on; a trap that the passage found
is taken. `slinfo` gives the pool and the station. (In part the model's own reading or choice: assumptions 19 and 38
of the log.) -/
def Obligations.SoleraSlots : Prop :=
  (∀ (c : Ctl) (s s1 : State) (j : BitVec 3) (d : BitVec 5) (sl : SlotOp) (t : Ty) (p : Pair) (x : W64),
     s.me.wait = .none →
     let k := slotVal s.me sl
     let posted (kind : SlKind) (word : Nat) : State :=
       s.modMe (fun y => { y with wait := .slot ⟨kind, k, word, s.ringTime⟩ })
     (∀ row ∈ slTwo, ∀ b : Src,
       let u := (((Uses.w d).and (Uses.slotOp sl)).and (Uses.src b)).and (slUses row.1)
       Ready c false u s →
       ((s.prt s.me.part).poolSize ≤ k → exec (row.2.1 c j t d sl b) s = .next (s.trapped c 0x60 (w64 k))) ∧
       (k < (s.prt s.me.part).poolSize → Reads (readSrc64 .b64 b) (s.begun u) x s1 → s1.accessOpen s1.cur .rg = true →
         ∃ s', exec (row.2.1 c j t d sl b) s = .next s' ∧
           s'.me.wait = .slot ⟨row.2.2.2 t (s1.me.w d.toNat) b x, k, row.2.2.1 j, s.ringTime⟩ ∧ s'.mem = s.mem)) ∧
     (∀ ld : LdDst, ∀ row ∈ [(Uses.ldDst ld, 0xB0, Instr.slrd c j ld sl p, SlKind.rd (ldLane ld), j.toNat),
         (Uses.ldDst ld, 0xB5, .slalight c j ld sl p, .alight (ldLane ld), j.toNat),
         (Uses.w d, 0xB7, .slinfoHdr c d sl, .hdr, 0)],
       Ready c false ((row.1.and (Uses.slotOp sl)).and (slUses row.2.1)) s →
       ((s.prt s.me.part).poolSize ≤ k → exec row.2.2.1 s = .next (s.trapped c 0x60 (w64 k))) ∧
       (k < (s.prt s.me.part).poolSize → s.accessOpen s.cur .rg = true →
         exec row.2.2.1 s = .next (posted row.2.2.2.1 row.2.2.2.2))) ∧
     (∀ a : Src, let u := ((Uses.w d).and (Uses.src a)).and (slUses 0xB4)
       Ready c false u s → Reads (readSrc64 .b64 a) (s.begun u) x s1 → s1.accessOpen s1.cur .rg = true →
       ∃ s', exec (.slboard c j d (.s t a) p) s = .next s' ∧
         s'.me.wait = .slot ⟨.board (x :: List.replicate 7 0#64), 0, 0, s.ringTime⟩ ∧ s'.mem = s.mem) ∧
     (∀ r : VReg, Ready c false (((Uses.w d).and (Uses.vr r)).and (slUses 0xB4)) s → s.accessOpen s.cur .rg = true →
       exec (.slboard c j d (.v r) p) s = .next (s.modMe (fun y => { y with
         wait := .slot ⟨.board (bytesWords 8 (lanesBytes (s.me.vreg (s.me.vIdx r)))), 0, 0, s.ringTime⟩ })))) ∧
  (∀ (c : Ctl) (s s1 : State) (j : BitVec 3) (d : BitVec 5) (sl : SlotOp) (t : Ty) (p : Pair) (x : W64)
     (ws : List W64) (cc : Bool) (fl : Fl),
     let w (r : BitVec 5) (s : State) : State := s.modMe (fun th => th.setW r.toNat (ws.getD 0 0#64))
     let v (r : VReg) (s : State) : State :=
       s.putLanes (s.me.vIdx r) allLanes (bytesLanes 16 (wordsBytes ws) ++ List.replicate 16 0#32)
     let pair (s : State) : State := s.modMe (fun th => setPair th p (broadcast cc) (~~~(broadcast cc)))
     let done (s : State) : Host.Outcome State Fault Refusal := .next (retire (s.modMe (fun th => th.raise fl)) .seq)
     (s.me.wait = .slotDone (.ok ws cc fl) →
       (∀ row ∈ slTwo, ∀ b : Src, let u := (((Uses.w d).and (Uses.slotOp sl)).and (Uses.src b)).and (slUses row.1)
         Ready c false u s → Reads (readSrc64 .b64 b) (s.begun u) x s1 →
         exec (row.2.1 c j t d sl b) s = done (w d s1)) ∧
       (Ready c false (((Uses.w d).and (Uses.slotOp sl)).and (slUses 0xB7)) s →
         exec (.slinfoHdr c d sl) s = done (w d s)) ∧
       (∀ ld : LdDst,
         let land (s : State) : State := match ld with | .w _ r => w r s | .v r => v r s
         (Ready c false (((Uses.ldDst ld).and (Uses.slotOp sl)).and (slUses 0xB0)) s →
           exec (.slrd c j ld sl p) s = done (pair (land s))) ∧
         (Ready c false (((Uses.ldDst ld).and (Uses.slotOp sl)).and (slUses 0xB5)) s →
           exec (.slalight c j ld sl p) s = done (pair (land s)))) ∧
       (∀ a : Src, let u := ((Uses.w d).and (Uses.src a)).and (slUses 0xB4)
         Ready c false u s → Reads (readSrc64 .b64 a) (s.begun u) x s1 →
         exec (.slboard c j d (.s t a) p) s = done (pair (w d s1))) ∧
       (∀ r : VReg, Ready c false (((Uses.w d).and (Uses.vr r)).and (slUses 0xB4)) s →
         exec (.slboard c j d (.v r) p) s = done (pair (w d (countSkips s (coreOf s.cur)
           (zerosIn allLanes 0 (s.me.vreg (s.me.vIdx r)))))))) ∧
     (∀ code tv, s.me.wait = .slotDone (.trap code tv) → let takes (e : Instr) : Prop := exec e s = .next (s.trapped c code tv)
       (∀ row ∈ slTwo, ∀ b : Src, Ready c false ((((Uses.w d).and (Uses.slotOp sl)).and (Uses.src b)).and (slUses row.1)) s →
         takes (row.2.1 c j t d sl b)) ∧
       (∀ ld : LdDst, ∀ row ∈ [(Uses.ldDst ld, 0xB0, Instr.slrd c j ld sl p), (Uses.ldDst ld, 0xB5, .slalight c j ld sl p),
           (Uses.w d, 0xB7, .slinfoHdr c d sl)],
         Ready c false ((row.1.and (Uses.slotOp sl)).and (slUses row.2.1)) s → takes row.2.2) ∧
       (∀ a : Src, Ready c false (((Uses.w d).and (Uses.src a)).and (slUses 0xB4)) s → takes (.slboard c j d (.s t a) p)) ∧
       (∀ r : VReg, Ready c false (((Uses.w d).and (Uses.vr r)).and (slUses 0xB4)) s → takes (.slboard c j d (.v r) p))) ∧
     (Ready c false ((Uses.w d).and (slUses 0xB7)) s →
       exec (.slinfoPool c d) s = .next (retire (s.modMe (fun th => th.setW d.toNat
         (w64 ((s.prt s.me.part).poolBase * 2 ^ 32 + (s.prt s.me.part).poolSize)))) .seq) ∧
       exec (.slinfoStn c d) s = .next (retire (s.modMe (fun th => th.setW d.toNat
         (w64 (ringPos (coreOf s.cur) + (if isCellar (coreOf s.cur) then 2 ^ 16 else 0))))) .seq)))

/-! ## The matrix engine -/

/-- R247 to R249: the loads latch the shadow plane, with the staged scales where `ldws` has armed them, and the planes
swap; a load waits for the load before it, a swap also for the rows that have still to enter. R228, R239, R240: the
steps of the engine: a claim for the first that waits, the end of a load, a row that enters, and the end of the
oldest multiply, whose flags are raised then. (In part the model's own reading or choice: assumption 40 of the log.) -/
def Obligations.PlaneLoads : Prop :=
  (∀ (c : Ctl) (s s1 : State) (e : Engine),
     let put (s : State) (e : Engine) : State :=
       s.modCore (coreOf s.cur) (fun k => { k with engine := { e with holder := some s.cur } })
     (∀ (f : Ty) (v : VReg) (xs : List Lanes), let u := matUses ((Uses.group v 64).and (Uses.ty f))
       let bs := (xs.map lanesBytes).flatten
       Ready c false u s → Reads (readGroup ((s.begun u).me.vIdx v) 64) (s.begun u) xs s1 → Reads needEngine s1 e s1 →
       (e.loading = true → exec (.ldwC c f v) s = .next s ∧ exec (.ldwK c f v) s = .next s) ∧
       (e.loading = false →
       exec (.ldwC c f v) s = .next (retire ((put s1 (latchShadow e f false (placeCols false f (flatCodes f bs)))).modMe
         (fun t => t.raise (rcFlag f bs))) .seq) ∧
       exec (.ldwK c f v) s = .next (retire ((put s1 (latchShadow e f false (placeCols true f (flatCodes f bs)))).modMe
         (fun t => t.raise (rcFlag f bs))) .seq))) ∧
     (∀ (f : Ty) (z : GenMat) (p : Nat × List Nat), let u := matUses ((Uses.genMat z).and (Uses.ty f))
       Ready c false u s → Reads (readGen 0xC1 (tyFn (genKind z) f) 1 31 z) (s.begun u) p s1 → Reads needEngine s1 e s1 →
       let ls := (List.range 32).map (genLine (matK f) z p.1 p.2)
       (e.loading = true → exec (.ldwg c f z) s = .next s) ∧
       (e.loading = false → exec (.ldwg c f z) s = .next (retire ((put s1 (latchShadow e f true (ls.map (fun l => lineCodes f l.1)))).modMe
         (fun t => t.raise (if ls.any (·.2) then flOOB else 0#7))) .seq))) ∧
     (∀ (v : VReg) (xs : List Lanes), let u := matUses (Uses.group v 8)
       Ready c false u s → Reads (readGroup (s.me.vIdx v) 8) s xs s1 → Reads needEngine s1 e s1 →
       exec (.ldws c v) s = .next (retire (put s1 { e with
         staging := (chunks 32 32 (xs.map lanesBytes).flatten).map (fun l => (chunks 2 16 l).map leNat), arm := true }) .seq)) ∧
     (Ready c false (matUses Uses.none) s → Reads needEngine s e s →
       ((e.loading = true ∨ rowsWaiting e = true) → exec (.swpw c) s = .next s) ∧
       (e.loading = false → rowsWaiting e = false → exec (.swpw c) s = .next (retire (put s { e with active := e.shadow, shadow := e.active }) .seq)))) ∧
  (∀ (s : State) (core : Nat),
     let e := (s.core core).engine
     (∀ w ws, e.holder = none → e.waiters = w :: ws → w < 16 →
       ∃ s', exec (.engineClaim core) s = .next s' ∧ (s'.core core).engine.holder = some (core * 16 + w) ∧
         (s'.core core).engine.waiters = ws ∧ (s'.core core).engine.jobs = [] ∧ (s'.thr (core * 16 + w)).wait = .claimed) ∧
     (∃ s', exec (.weightLoadComplete core) s = .next s' ∧ (s'.core core).engine = { e with loading := false } ∧
       s'.threads = s.threads ∧ s'.mem = s.mem) ∧
     (∀ e', enterRow e = some e' →
       ∃ s', exec (.mmaRowEnter core) s = .next s' ∧ (s'.core core).engine = e' ∧ s'.threads = s.threads) ∧
     (∀ t j js, e.holder = some t → e.jobs = j :: js → j.m ≤ j.next →
       ∃ s', exec (.mmaAccumulationComplete core) s = .next s' ∧ (s'.core core).engine.jobs = js ∧
         (s'.thr t).flags = (s.thr t).flags ||| j.flags))

/-- R250 to R252: a multiply whose plane, formats and rows pass the checks takes its activations, from a register group
or from a stream, appends its job, counts it, marks its accumulator rows with their kind and lets its first row
enter. One whose engine still has rows of an earlier multiply to let in, or whose stream has not the first row,
waits. R242, R251, R252: a multiply traps, before anything of it takes effect, where the active plane is empty, the
element widths differ, or a row of it is of the other kind (MATRIX_FORMAT with TVAL 2, 1 or 3), and where its stream
ends short of its rows (STREAM_END, or COPY_FAULT where a fault cut the stream); one with scales, and a generated
one, wait for earlier rows too. R67 to R69, R234, R236, R251: a row that enters: the first job with rows left lets
its next one in, and in every column the accumulator takes the products of the row in ascending k, each exact, each
added with one rounding or with the saturation of INT56; every other accumulator is left. (In part the model's own
reading or choice: assumptions 40, 41 and 92 of the log.) -/
def Obligations.Multiplies : Prop :=
  (∀ (c : Ctl) (f : Ty) (acc : BitVec 6) (m : WI) (s s1 s2 : State),
     let e := (s.core (coreOf s.cur)).engine
     let n := wiNat s.me m % 64 + 1
     let blk := wiNat s.me m / 64
     let usable (t : State) (gs : List VGroup) : Prop := vregCheck t.me gs = none ∧ t.me.owes (gs.flatMap (groupRegs t.me)) = false
     -- the thread holds the engine, its plane fits the format, and no row of the multiply has the other kind
     let fits (sc : Bool) : Prop := e.holder = some s.cur ∧ wiNat s.me m < 2 ^ 15 ∧ acc.toNat + n ≤ 64 ∧
       (∃ pf, e.active.fmt = some pf ∧ matK pf = matK f) ∧
       ∀ i, i < n → e.kind (acc.toNat + i) ≠ (if matInt e f sc then .fp else .int)
     let job (sc : Bool) (rows : List ActRow) (id : Nat) (got : List Byte) (need : Nat) (codes : List (List Nat)) : MmaJob :=
       ⟨f, acc.toNat, n, 0, rows, id, got, need, codes, matInt e f sc, sc, 0#7⟩
     let added (j : MmaJob) : Engine := (List.range n).foldl (fun x i => x.setKind (acc.toNat + i) (if j.intK then .int else .fp))
       { e with mmacnt := e.mmacnt + 1#32, jobs := e.jobs ++ [j] }
     let starts (s' : State) (j : MmaJob) (after : State → State) (o : Host.Outcome State Fault Refusal) : Prop :=
       ∃ e2, enterRow (added j) = some e2 ∧ o = .next (retire (after (s'.modCore (coreOf s.cur)
         (fun k => { k with engine := { e2 with holder := some s.cur } }))) .seq)
     let fromStream (s' : State) (k : Nat) : State := s'.modMe (fun t => t.setStream k { s.me.stream k with
       buf := (s.me.stream k).buf.drop (256 * n), toCome := (s.me.stream k).toCome - (256 * n - ((s.me.stream k).buf.take (256 * n)).length) })
     let streamJob (sc : Bool) (k : Nat) (codes : List (List Nat)) : MmaJob := job sc [] (s.me.stream k).copyId
       ((s.me.stream k).buf.take (256 * n)) (256 * n - ((s.me.stream k).buf.take (256 * n)).length) codes
     let streamHas (k : Nat) : Prop := (s.me.stream k).bound = true ∧
       256 * n ≤ (s.me.stream k).buf.length + (s.me.stream k).toCome
     let u (a : VV) := matUses ((mmaUses a m).and (Uses.ty f))
     -- mma
     (∀ r xs, Ready c false (u (.reg r)) s → wiNat s.me m < 64 → fits false →
       usable (s.begun (u (.reg r))) [(r, 2 * n)] → Reads (readGroup (s.me.vIdx r) (2 * n)) (s.begun (u (.reg r))) xs s1 →
       (rowsWaiting e = false → starts s1 (job false (regRows xs []) 0 [] 0 []) id (exec (.mma c f acc (.reg r) m) s)) ∧
       (rowsWaiting e = true → exec (.mma c f acc (.reg r) m) s = .next s)) ∧
     (∀ k : BitVec 3, Ready c false (u (.s k)) s → wiNat s.me m < 64 → fits false → streamHas k.toNat →
       (256 ≤ (s.me.stream k.toNat).buf.length → rowsWaiting e = false →
         starts (fromStream (s.begun (u (.s k))) k.toNat) (streamJob false k.toNat []) id (exec (.mma c f acc (.s k) m) s)) ∧
       ((s.me.stream k.toNat).buf.length < 256 → s.me.wait = .none → exec (.mma c f acc (.s k) m) s = .next s)) ∧
     -- mma.sc: the scale codes of row i are the 16 bytes from byte 16 · i of the scale block on
     (∀ xs codes, Reads (readGroup (4 * blk) 8) (s.begun (u (.reg (.v 0)))) xs s1 →
       codes = chunks 16 64 ((xs.map lanesBytes).flatten.map BitVec.toNat) → fits true →
       (∀ r ys, Ready c false (u (.reg r)) s →
         usable (s.begun (u (.reg r))) [(r, 2 * n), (VReg.v (BitVec.ofNat 11 (4 * blk)), 8)] →
         Reads (readGroup (s.me.vIdx r) (2 * n)) s1 ys s2 → rowsWaiting e = false →
         starts s2 (job true (regRows ys codes) 0 [] 0 []) id (exec (.mmaSc c f acc (.reg r) m) s)) ∧
       (∀ k : BitVec 3, Ready c false (u (.s k)) s →
         usable (s.begun (u (.s k))) [(VReg.v (BitVec.ofNat 11 (4 * blk)), 8)] → streamHas k.toNat →
         256 ≤ (s.me.stream k.toNat).buf.length → rowsWaiting e = false →
         starts (fromStream s1 k.toNat) (streamJob true k.toNat codes) id (exec (.mmaSc c f acc (.s k) m) s))) ∧
     -- mmag
     (∀ (z : GenMat) (p : Nat × List Nat), let u := matUses (((Uses.genMat z).and (Uses.wi m)).and (Uses.ty f))
       Ready c false u s → wiNat s.me m < 64 → fits false → Reads (readGen 0xC5 (tyFn (genKind z) f) 2 63 z) (s.begun u) p s1 →
       rowsWaiting e = false →
       let ls := (List.range n).map (genLine (matK f) z p.1 p.2)
       starts s1 (job false (ls.map (fun l => ActRow.gen l.1)) 0 [] 0 []) (fun x => x.modMe (fun t => t.raise (if ls.any (·.2) then flOOB else 0#7)))
         (exec (.mmag c f acc z m) s)) ∧
     -- the rows of a register group: row i is the bytes of registers 2 · i and 2 · i + 1
     (∀ (xs : List Lanes) (codes : List (List Nat)) (i : Nat), i < xs.length / 2 → (regRows xs codes)[i]? =
       some (.data (lanesBytes (xs.getD (2 * i) []) ++ lanesBytes (xs.getD (2 * i + 1) [])) (codes.getD i []))) ∧
     -- the row count: bits [5:0] plus one, rows that end inside the 64, BLK only where it is allowed
     (∀ (op fn wher : Nat) (b : Bool), wiNat s.me m < 2 ^ 15 → (b = false → wiNat s.me m < 64) → acc.toNat + n ≤ 64 →
       Reads (readRows op fn wher acc m b) s (n, blk) s)) ∧
  (∀ (c : Ctl) (f : Ty) (acc : BitVec 6) (m : WI) (s s1 : State) (e : Engine) (xs : List Lanes),
     let n := wiNat s.me m % 64 + 1
     let blk := wiNat s.me m / 64
     let usable (t : State) (gs : List VGroup) : Prop := vregCheck t.me gs = none ∧ t.me.owes (gs.flatMap (groupRegs t.me)) = false
     let other (sc : Bool) : Prop := ∃ i, i < n ∧ e.kind (acc.toNat + i) = (if matInt e f sc then .fp else .int)
     let wrong (sc : Bool) (v : Nat) : Prop := (v = 2 ∧ e.active.fmt = none) ∨
       (∃ pf, e.active.fmt = some pf ∧ ((v = 1 ∧ matK pf ≠ matK f) ∨ (v = 3 ∧ matK pf = matK f ∧ other sc)))
     let fits (sc : Bool) : Prop := (∃ pf, e.active.fmt = some pf ∧ matK pf = matK f) ∧ ¬ other sc
     let traps (o : Host.Outcome State Fault Refusal) (sc : Bool) : Prop :=
       (∀ v, wrong sc v → o = .next (s.trapped c 0x30 (w64 v)))
     let waits (o : Host.Outcome State Fault Refusal) (sc : Bool) : Prop := fits sc → rowsWaiting e = true → o = .next s
     let ends (o : Host.Outcome State Fault Refusal) (sc : Bool) (k : Nat) : Prop := fits sc →
       let st := s.me.stream k
       let left := st.buf.length + st.toCome
       let g := s.me.group st.grp
       ((st.bound = false ∨ (left < 256 * n ∧ st.ecode = 0)) → o = .next (s.trapped c 0x06 (w64 left))) ∧
       (st.bound = true → left < 256 * n → st.ecode ≠ 0 →
         ∃ x : State, o = .next (x.trapped c 0x40 (groupWord { g with ecode := st.ecode, epos := st.epos })) ∧
           x.me.group st.grp = (if g.err = true ∧ g.src = st.copyId
             then { g with err := false, ecode := 0, epos := 0, src := 0 } else g) ∧
           x.me.streams = s.me.streams ∧ x.cores = s.cores ∧ x.mem = s.mem)
     -- the first row's bytes have come
     let first (k : Nat) : Prop := (s.me.stream k).bound = true ∧ 256 ≤ (s.me.stream k).buf.length ∧
       256 * n ≤ (s.me.stream k).buf.length + (s.me.stream k).toCome
     let u (a : VV) := matUses ((mmaUses a m).and (Uses.ty f))
     wiNat s.me m < 2 ^ 15 → acc.toNat + n ≤ 64 →
     (∀ r, let o := exec (.mma c f acc (.reg r) m) s
       Ready c false (u (.reg r)) s → wiNat s.me m < 64 → usable (s.begun (u (.reg r))) [(r, 2 * n)] →
       Reads needEngine (s.begun (u (.reg r))) e (s.begun (u (.reg r))) → traps o false ∧ waits o false) ∧
     (∀ k : BitVec 3, let o := exec (.mma c f acc (.s k) m) s
       Ready c false (u (.s k)) s → wiNat s.me m < 64 → Reads needEngine (s.begun (u (.s k))) e (s.begun (u (.s k))) →
       traps o false ∧ ends o false k.toNat ∧ (first k.toNat → waits o false)) ∧
     (∀ r, let o := exec (.mmaSc c f acc (.reg r) m) s
       Ready c false (u (.reg r)) s → usable (s.begun (u (.reg r))) [(r, 2 * n), (VReg.v (BitVec.ofNat 11 (4 * blk)), 8)] →
       Reads (readGroup (4 * blk) 8) (s.begun (u (.reg r))) xs s1 → Reads needEngine s1 e s1 → traps o true ∧ waits o true) ∧
     (∀ k : BitVec 3, let o := exec (.mmaSc c f acc (.s k) m) s
       Ready c false (u (.s k)) s → usable (s.begun (u (.s k))) [(VReg.v (BitVec.ofNat 11 (4 * blk)), 8)] →
       Reads (readGroup (4 * blk) 8) (s.begun (u (.s k))) xs s1 → Reads needEngine s1 e s1 →
       traps o true ∧ ends o true k.toNat ∧ (first k.toNat → waits o true)) ∧
     (∀ (z : GenMat) (p : Nat × List Nat), let u := matUses (((Uses.genMat z).and (Uses.wi m)).and (Uses.ty f))
       let o := exec (.mmag c f acc z m) s
       Ready c false u s → wiNat s.me m < 64 → Reads (readGen 0xC5 (tyFn (genKind z) f) 2 63 z) (s.begun u) p s1 →
       Reads needEngine s1 e s1 → traps o false ∧ waits o false)) ∧
  ((∀ (e : Engine) (pre post : List MmaJob) (j j' : MmaJob) (row : ActRow), e.jobs = pre ++ j :: post →
     (∀ x ∈ pre, x.m ≤ x.next) → j.next < j.m → jobRow j = some (row, j') →
     let r := j.r0 + j.next
     let vals := (rowVals j.fmt row).1
     let col (c : Nat) : List Nat := e.active.elems.getD c []
     let weight (k c : Nat) : FVal := codeVal (e.active.fmt.getD j.fmt) ((col c).getD k 0)
     let scale (k c : Nat) : Option FVal :=
       if e.active.sc then some (fdec fmtBf16 ((e.active.scales.getD c []).getD (k / 32) 0)) else none
     let code (k : Nat) : Option Nat := match row with
       | .data _ l => if j.scaled then some (l.getD (k / 32) 0) else none
       | .gen _ => none
     let next (k c : Nat) (x : Nat × Fl) : Nat × Fl := match vals.getD k none with
       | none => x
       | some a => if e.active.gen = true ∧ (col c).getD k 0 = 0 then x else
         let p := product (weight k c) (scale k c) a (code k)
         let y := accAdd j.intK x.1 p.1
         (y.1, x.2 ||| p.2 ||| y.2)
     ∃ (e' : Engine) (fl : Fl) (V : Nat → Nat → Nat × Fl), enterRow e = some e' ∧
       e'.jobs = pre ++ { j' with flags := j'.flags ||| fl } :: post ∧
       (∀ c, c < 32 → V c 0 = (e.accAt r c, 0#7) ∧ (∀ k, k < min (col c).length vals.length → V c (k + 1) = next k c (V c k)) ∧
         e'.accAt r c = (V c (min (col c).length vals.length)).1) ∧
       (∀ q c, c < 32 → q ≠ r → e'.accAt q c = e.accAt q c) ∧
       (∀ b, b < 7 → fl.getLsbD b = ((rowVals j.fmt row).2.getLsbD b || (List.range 32).any (fun c =>
         (V c (min (col c).length vals.length)).2.getLsbD b))) ∧
       e'.active = e.active ∧ e'.shadow = e.shadow ∧ e'.kinds = e.kinds ∧ e'.holder = e.holder) ∧
   -- which row it is: the next of those that the multiply holds, or 256 bytes of its stream
   (∀ (j : MmaJob) (r : ActRow) (rs : List ActRow), j.next < j.m → j.rows = r :: rs →
     jobRow j = some (r, { j with rows := rs, next := j.next + 1 })) ∧
   (∀ j : MmaJob, j.next < j.m → j.rows = [] → (256 ≤ j.got.length → jobRow j =
     some (.data (j.got.take 256) (j.codes.getD j.next []), { j with got := j.got.drop 256, next := j.next + 1 })) ∧
     (j.got.length < 256 → jobRow j = none)) ∧
   -- the product, and the sum in each of the two kinds
   (∀ (w a : FVal) (ws : Option FVal), product w ws a (some 255) = (.nan, 0#7) ∧
     (product w none a none).1 = (mulVals w a).1 ∧ (product w none a none).2 = (mulVals w a).2 ∧
     (∀ (n b : Bool) (m k : Nat) (e g : Int), mulVals (.fin n m e) (.fin b k g) = (.fin (n != b) (m * k) (e + g), 0#7)) ∧
     (∀ (nw na ns : Bool) (mw ma ms : Nat) (ew ea es : Int) (k : Nat), 1 ≤ k → k < 255 →
       product (.fin nw mw ew) (some (.fin ns ms es)) (.fin na ma ea) (some k) =
         (.fin ((nw != ns) != na) (mw * ms * ma) (ew + es + ea + ((k : Int) - 127)), 0#7))) ∧
   (∀ (acc : Nat) (n : Bool) (m : Nat) (e : Int), let t := toSigned 56 acc + signedMag n m
     accAdd true acc (.fin n m e) = (if (2 ^ 55 - 1 : Int) < t then (wrapInt 56 (2 ^ 55 - 1), flOF)
       else if t < -(2 ^ 55 - 1 : Int) then (wrapInt 56 (-(2 ^ 55 - 1)), flOF) else (wrapInt 56 t, 0#7))) ∧
   (∀ (acc : Nat) (x : FVal), accAdd false acc x = addVals fmtF56 (fdec fmtF56 acc) x) ∧
   (∀ (f : FFmt) (a b : Nat), fAdd f a b = addVals f (fdec f a) (fdec f b)))

/-- R253 to R256: accumulator rows zeroed, read out, written, and the status words, with what each of them holds; a row
that an earlier multiply has still to write makes its instruction wait. (In part the model's own reading or choice:
assumption 122 of the log.) -/
def Obligations.Accumulators : Prop :=
  ∀ (c : Ctl) (s s1 s2 : State) (e : Engine),
    let put (s : State) (e : Engine) : State :=
      s.modCore (coreOf s.cur) (fun k => { k with engine := { e with holder := some s.cur } })
    (∀ (acc : BitVec 6) (m : WI) (n : Nat × Nat), Ready c false (matUses (Uses.wi m)) s →
      Reads (readRows 0xC6 0 2 acc m false) s n s → Reads needEngine s e s → rowsBusy e acc.toNat n.1 = false →
      exec (.accz c acc m) s =
        .next (retire (put s ((List.range n.1).foldl (fun x i => zeroRow x (acc.toNat + i)) e)) .seq)) ∧
    (∀ (t : Ty) (m : CvtMode) (d : VReg) (acc : BitVec 6),
      Ready c false (matUses (Uses.group d (if accWide t then 2 else 1))) s → Reads needEngine s e s →
      rowsBusy e acc.toNat 1 = false →
      let xs := (List.range 32).map (fun i => accConvert t m (e.kind acc.toNat) (e.accAt acc.toNat i))
      let r := s.me.vIdx d
      let out : State := if accWide t
        then ((put s e).putLanes r allLanes (xs.map (fun x => w32 x.1))).putLanes (r + 1) allLanes
          (xs.map (fun x => w32 (x.1 / 2 ^ 32)))
        else (put s e).putLanes r allLanes (xs.map (fun x => laneWord t x.1))
      exec (.accrd c t m d acc) s =
        .next (retire (out.modMe (fun th => th.raise (xs.foldl (fun f x => f ||| x.2) 0#7))) .seq)) ∧
    (∀ (t : Ty) (acc : BitVec 6) (v : VReg) (lo hi : Lanes),
      Ready c false (matUses (Uses.group v (if accWide t then 2 else 1))) s → Reads needEngine s e s →
      rowsBusy e acc.toNat 1 = false → Reads (readVNum (s.me.vIdx v)) s lo s1 →
      (if accWide t then Reads (readVNum (s.me.vIdx v + 1)) s1 hi s2 else hi = [] ∧ s2 = s1) →
      exec (.accwr c t acc v) s = .next (retire (put s2 (((List.range 32).foldl (fun x i =>
        x.setAcc acc.toNat i (accwrVal t (lo.getD i 0#32) (hi.getD i 0#32))) e).setKind acc.toNat (accwrKind t))) .seq)) ∧
    (∀ (d : BitVec 5) (n : WI), Ready c false (matUses ((Uses.w d).and (Uses.wi n))) s → wiWithin s.me 2 n →
      exec (.mstat c d n) s = .next (retire (s.modMe (fun t => t.setW d.toNat
        (mstatWord (s.core (coreOf s.cur)).engine s.cur (wiNat s.me n)))) .seq)) ∧
    -- the engine that a matrix instruction finds: its own, or a free one, empty (R228, R229)
    ((s.core (coreOf s.cur)).engine.holder = some s.cur → Reads needEngine s (s.core (coreOf s.cur)).engine s) ∧
    ((s.core (coreOf s.cur)).engine.holder = none → (s.core (coreOf s.cur)).engine.waiters = [] →
      Reads needEngine s Engine.free s) ∧
    -- a row still owed a result (R238)
    (∀ (acc : BitVec 6) (m : WI) (n : Nat × Nat), Ready c false (matUses (Uses.wi m)) s →
      Reads (readRows 0xC6 0 2 acc m false) s n s → Reads needEngine s e s → rowsBusy e acc.toNat n.1 = true →
      exec (.accz c acc m) s = .next s) ∧
    (∀ (t : Ty) (m : CvtMode) (v : VReg) (acc : BitVec 6),
      Ready c false (matUses (Uses.group v (if accWide t then 2 else 1))) s → Reads needEngine s e s →
      rowsBusy e acc.toNat 1 = true →
      exec (.accrd c t m v acc) s = .next s ∧ exec (.accwr c t acc v) s = .next s) ∧
    (∀ (r0 m : Nat), 0 < m → (∀ j ∈ e.jobs, 0 < j.m) →
      (rowsBusy e r0 m = true ↔ ∃ j ∈ e.jobs, ∃ r, r0 ≤ r ∧ r < r0 + m ∧ j.r0 ≤ r ∧ r < j.r0 + j.m)) ∧
    -- a row made zero, and a row written: its values and its kind, and no other row
    (∀ (r q i : Nat), i < 32 → (zeroRow e r).accAt q i = (if q = r then 0 else e.accAt q i) ∧
      (zeroRow e r).kind q = (if q = r then .empty else e.kind q)) ∧
    (∀ (r q i : Nat) (k : AccKind) (f : Nat → Nat), i < 32 →
      let e' := ((List.range 32).foldl (fun x j => x.setAcc r j (f j)) e).setKind r k
      e'.accAt q i = (if q = r then f i else e.accAt q i) ∧ e'.kind q = (if q = r then k else e.kind q)) ∧
    (∀ lo hi : W32,
      accwrVal .i32 lo hi = (lo.signExtend 56).toNat ∧ accwrVal .i64 lo hi = ((hi ++ lo).extractLsb' 0 56).toNat ∧
      accwrVal .f56 lo hi = ((hi ++ lo).extractLsb' 0 56).toNat ∧
      accwrVal .f32 lo hi = (convert .f56 .f32 ⟨false, 0#2⟩ lo.toNat).1 ∧
      accwrVal .bf16 lo hi = (convert .f56 .bf16 ⟨false, 0#2⟩ (lo.extractLsb' 0 16).toNat).1) ∧
    accwrKind .i32 = .int ∧ accwrKind .i64 = .int ∧ accwrKind .bf16 = .fp ∧ accwrKind .f32 = .fp ∧ accwrKind .f56 = .fp ∧
    -- an accumulator read out: an FP row from FP56, an INT row from its 56 bits, an EMPTY row as 0 (R254)
    (∀ (t : Ty) (m : CvtMode) (x : Nat), x < 2 ^ 56 →
      let v := toSigned 56 x
      let lo := (intRange t).1
      let hi := (intRange t).2
      accConvert t m .fp x = (if t = .f56 then (x, 0#7) else convert t .f56 m x) ∧
      accConvert .i64 m .int x = (wrapInt 64 v, 0#7) ∧
      (tyFloat t = false → tyWidth t ≤ 56 → accConvert t m .int x =
        (if m.sat = true ∧ v < lo then (wrapInt (tyWidth t) lo, flOF)
         else if m.sat = true ∧ hi < v then (wrapInt (tyWidth t) hi, flOF) else (wrapInt (tyWidth t) v, 0#7))) ∧
      (tyFloat t = true → v = 0 → accConvert t m .int x = ((tyFmt t).signed false 0, 0#7)) ∧
      (tyFloat t = true → v ≠ 0 → accConvert t m .int x = roundNz (tyFmt t) m.mode m.sat (decide (v < 0)) v.natAbs 0) ∧
      accConvert t m .empty x = accConvert t m .int 0) ∧
    -- the status words (R241)
    (∀ (t : Nat),
      let code (p : Plane) : Nat := match p.fmt with | some f => (tyCode f).toNat | none => 15
      let w (n : Nat) := mstatWord e t n
      (e.holder ≠ some t → w 0 = w64 (min e.waiters.length 15 * 2 ^ 32) ∧ w 1 = 0#64 ∧ w 2 = 0#64) ∧
      (e.holder = some t →
        (w 0).getLsbD 63 = true ∧ (w 0).getLsbD 62 = (e.loading || !e.jobs.isEmpty) ∧ (w 0).getLsbD 61 = e.arm ∧
        (w 0).extractLsb' 56 5 = 0#5 ∧ ((w 0).extractLsb' 52 4).toNat = code e.active ∧ (w 0).getLsbD 51 = e.active.sc ∧
        (w 0).extractLsb' 48 3 = 0#3 ∧ ((w 0).extractLsb' 44 4).toNat = code e.shadow ∧ (w 0).getLsbD 43 = e.shadow.sc ∧
        (w 0).extractLsb' 36 7 = 0#7 ∧ ((w 0).extractLsb' 32 4).toNat = min e.waiters.length 15 ∧
        (w 0).extractLsb' 0 32 = e.mmacnt ∧
        ∀ i, i < 64 → (w 1).getLsbD i = (e.kind i == .fp) ∧ (w 2).getLsbD i = (e.kind i == .int)))

/-! ## Copies -/

/-- R260 to R268: a copy that passes its checks goes to the end of the queue of the task's engine with its parameters,
and is counted in its group; a stream destination is bound to it, for as many bytes as it will bring. One with 32
outstanding in the task, or 256 at the engine, or behind a fence of its class, waits. A busy stream raises
STREAM_BUSY, and a descriptor field that fails its check COPY_DESC with the lowest such lane. (In part the model's
own reading or choice: assumptions 19 and 95 of the log.) -/
def Obligations.CopiesStart : Prop :=
  ∀ (c : Ctl) (s : State) (grp : BitVec 2) (spc : CpySpace),
    let e := s.me.copyEng
    let room : Prop := s.me.outAll < 32 ∧ (s.engine e).length < 256 ∧ s.accessOpen s.cur .cp = true
    -- checks 3 to 5
    let fits (x : CopyArgs) (tgt : CopyTo) : Prop := match tgt with
      | .sp a => x.nrows = 0 ∨ (a % 8 = 0 ∧ x.sbase % 8 = 0 ∧
          a + (x.nrows - 1) * x.dstride + x.rowb ≤ s.spSize (s.prt s.me.part))
      | .stream n => (x.nrows = 0 ∨ x.sbase % 8 = 0) ∧ streamFree s (s.me.stream n) = true
    -- what becomes of a copy
    let accepted (x : CopyArgs) (tgt : CopyTo) (o : Host.Outcome State Fault Refusal) : Prop :=
      (fits x tgt → room → ∃ s' k, o = .next s' ∧ s'.engine e = s.engine e ++ [k] ∧ k.id = s.nextId ∧ k.thr = s.cur ∧
        k.task = s.me.task ∧ k.part = s.me.part ∧ k.kind = x.kind ∧ k.space = x.space ∧ k.grp = x.grp ∧ k.sbase = x.sbase ∧
        k.ibase = x.ibase ∧ k.nrows = x.nrows ∧ k.rowb = x.rowb ∧ k.sstride = x.sstride ∧ k.dstride = x.dstride ∧
        k.bound = x.bound ∧ k.started = false ∧ k.row = 0 ∧ k.opened = 0 ∧ k.rows = [] ∧ k.indexed = 0 ∧ k.bad = none ∧
        k.fault = none ∧ k.finished = false ∧ (s'.me.group x.grp).out = (s.me.group x.grp).out + 1 ∧
        (∀ a, tgt = .sp a → k.dst = a ∧ k.stream = none ∧ s'.me.streams = s.me.streams) ∧
        (∀ n, tgt = .stream n → k.stream = some n ∧ s'.me.stream n = ⟨true, s.nextId, x.grp, [], x.nrows * x.rowb, 0, 0⟩) ∧
        s'.me.stk = s.me.stk ∧ s'.mem = s.mem) ∧
      (fits x tgt → ¬ room → o = .next s) ∧
      (∀ n, tgt = .stream n → (x.nrows = 0 ∨ x.sbase % 8 = 0) → streamFree s (s.me.stream n) = false →
        o = .next (s.trapped c 0x41 (w64 n)))
    (∀ (d a : WG) (len : WI), Ready c false ((((Uses.wg d).and (Uses.wg a)).and (Uses.wi len)).and { conflict := some 0xD0 }) s →
      wiNat s.me len % 8 = 0 → wiNat s.me len ≤ 2 ^ 24 - 8 →
      accepted ⟨.cpy, spc, grp.toNat, (wgVal s.me a).toNat, 0, wiNat s.me len / 8, 8, 8, 8, 0⟩ (.sp (wgVal s.me d).toNat)
        (exec (.cpy c grp spc d a len) s)) ∧
    (∀ (k : BitVec 3) (a : WG) (len : WI), Ready c false (((Uses.wg a).and (Uses.wi len)).and { conflict := some 0xD4 }) s →
      wiNat s.me len % 8 = 0 → wiNat s.me len ≤ 2 ^ 24 - 8 →
      accepted ⟨.cpy, spc, grp.toNat, (wgVal s.me a).toNat, 0, wiNat s.me len / 8, 8, 8, 8, 0⟩ (.stream k.toNat)
        (exec (.cbind c grp spc k a len) s)) ∧
    (∀ (d : CpyDst) (desc : VReg) (strict keep : Bool),
      let u (op : Nat) := ((Uses.cpyDst d).and (Uses.vr desc)).and { conflict := some op }
      let ls := s.me.vreg (s.me.vIdx desc)
      let lane (i : Nat) : Nat := (ls.getD i 0#32).toNat
      let base := lane 0 + lane 1 * 2 ^ 32
      let tgt : CopyTo := match d with | .sp w => .sp (s.me.w w.toNat).toNat | .stream k => .stream k.toNat
      let described (kind : CopyKind) (spc2 : CpySpace) (x : CopyArgs) (o : Host.Outcome State Fault Refusal) : Prop :=
        (descBad kind spc2 (cpyToStream d) ls = [] → accepted x tgt o) ∧
        (∀ i is, descBad kind spc2 (cpyToStream d) ls = i :: is → o = .next (s.trapped c 0x42 (w64 i)))
      (Ready c false (u 0xD1) s → described (.cpyg strict) spc
        ⟨.cpyg strict, spc, grp.toNat, base, lane 2 + lane 3 * 2 ^ 32, lane 4, lane 5, lane 6, lane 7, lane 8⟩
        (exec (.cpyg c strict grp spc d desc) s)) ∧
      (Ready c false (u 0xD2) s → described (.cpyx keep) .dm
        ⟨.cpyx keep, .dm, grp.toNat, base, 0, lane 4, if keep then 136 else 128, 128, lane 7, 0⟩
        (exec (.cpyx c keep grp d desc) s)) ∧
      (Ready c false (u 0xD3) s → described .cpys spc
        ⟨.cpys, spc, grp.toNat, base, lane 2 + lane 3 * 2 ^ 32, lane 4, lane 5, lane 6, lane 7, lane 8⟩
        (exec (.cpys c grp spc d desc) s))) ∧
    -- check 2: the fields of a descriptor that fail, ascending
    (∀ (kind : CopyKind) (spc2 : CpySpace) (str : Bool) (ls : Lanes),
      let lane (i : Nat) : Nat := (ls.getD i 0#32).toNat
      let x : Prop := ∃ b, kind = .cpyx b
      (descBad kind spc2 str ls).Pairwise (· < ·) ∧ (∀ i, i ∈ descBad kind spc2 str ls ↔
        (i = 0 ∧ (x ∧ lane 0 % 128 ≠ 0 ∨ ¬ x ∧ lane 0 % 8 ≠ 0)) ∨ (i = 1 ∧ spc2 = .sp ∧ lane 1 ≠ 0) ∨
        (i = 2 ∧ (∃ b, kind = .cpyg b) ∧ lane 2 % 4 ≠ 0) ∨ (i = 4 ∧ 2 ^ 24 ≤ lane 4) ∨
        (i = 5 ∧ ¬ x ∧ (lane 5 % 8 ≠ 0 ∨ lane 5 < 8 ∨ 65536 < lane 5)) ∨ (i = 6 ∧ ¬ x ∧ lane 6 % 8 ≠ 0) ∨
        (i = 7 ∧ str = false ∧ lane 7 % 8 ≠ 0)))

/-- R269 to R271: `cwait` goes on once few enough copies of the group are out, or takes the group's fault and clears it;
`ccancel` drops the group's copies and counts them done; `cstat` reads the group's word. R258, R259, R268, R272: the
steps of a copy at its engine: it starts in its turn; a finished one leaves and is counted in its group, with its
fault; a read that fails ends it; bytes that have arrived go to its stream. (In part the model's own reading or
choice: assumptions 42, 45, 123, 125 and 126 of the log.) -/
def Obligations.CopyGroups : Prop :=
  (∀ (c : Ctl) (grp : BitVec 2) (s : State),
     let g := s.me.group grp.toNat
     (∀ n, Ready c false (Uses.wi n) s → wiWithin s.me 32 n →
       (g.out ≤ wiNat s.me n → g.err = false → exec (.cwait c grp n) s = .next (retire s .seq)) ∧
       (wiNat s.me n < g.out → exec (.cwait c grp n) s = .next s) ∧
       (g.out ≤ wiNat s.me n → g.err = true → exec (.cwait c grp n) s = .next (takeTrap
         (s.modMe (fun t => t.clearGroupFault grp.toNat)) s.cur false 0x40 (groupWord g) (guardOf s.me c) s.me.ip))) ∧
     (Ready c false { conflict := some 0xD6 } s →
       ∃ s', exec (.ccancel c grp) s = .next s' ∧
         s'.me.group grp.toNat = ⟨0, g.done + w32 g.out, false, 0, 0, 0⟩ ∧
         s'.engine s.me.copyEng = (s.engine s.me.copyEng).filter
           (fun x => !(x.thr == s.cur && x.task == s.me.task && x.grp == grp.toNat))) ∧
     (∀ d, Ready c false (Uses.w d) s →
       exec (.cstat c grp d) s = .next (retire (s.modMe (fun t => t.setW d.toNat (groupWord g))) .seq)) ∧
     -- the fields of the word
     (∀ y : Group, ((groupWord y).extractLsb' 56 8).toNat = y.out % 256 ∧ ((groupWord y).extractLsb' 52 4).toNat = y.ecode % 16 ∧
       ((groupWord y).extractLsb' 32 20).toNat = min y.epos (2 ^ 20 - 1) ∧ (groupWord y).extractLsb' 0 32 = y.done)) ∧
  (∀ (s : State) (e i : Nat) (k : Copy), (s.engine e)[i]? = some k →
     (k.started = false → ((s.engine e).take i).all (fun x => x.started) = true →
       ∃ s', exec (.copyStart e i) s = .next s' ∧ (s'.engine e)[i]? = some { k with started := true } ∧ s'.mem = s.mem) ∧
     (k.over = true → (∀ x ∈ (s.engine e).take i, ¬ (x.thr = k.thr ∧ x.task = k.task ∧ x.grp = k.grp)) →
       (s.thr k.thr).active = true → (s.thr k.thr).task = k.task →
       ∃ s', exec (.copyFinish e i) s = .next s' ∧ s'.engine e = (s.engine e).eraseIdx i ∧
         ((s'.thr k.thr).group k.grp).out = ((s.thr k.thr).group k.grp).out - 1 ∧
         ((s'.thr k.thr).group k.grp).done = ((s.thr k.thr).group k.grp).done + 1#32 ∧
         (k.fault ≠ none → ((s'.thr k.thr).group k.grp).err = true)) ∧
     (∀ code, copyNext s e k = .fault code → k.stream = none →
       ∃ s', exec (.copySourceFault e i) s = .next s' ∧
         (s'.engine e)[i]? = some { k with fault := some code, finished := true } ∧ s'.mem = s.mem) ∧
     (∀ n, k.stream = some n → (s.thr k.thr).active = true → (s.thr k.thr).task = k.task →
       ((s.thr k.thr).stream n).copyId = k.id → k.ready ≠ [] → (s.core (coreOf k.thr)).engine.jobs = [] →
       ((s.thr k.thr).stream n).buf.length + k.ready.length ≤ 4096 →
       ∃ s', exec (.streamBytesArrive e i) s = .next s' ∧
         ((s'.thr k.thr).stream n).buf = ((s.thr k.thr).stream n).buf ++ k.ready ∧ s'.mem = s.mem))

/-! ## System -/

/-- R335: `csrr` reads a system register; the forms of `csrw` write it, leaving its RO fields; a register that is RO, or
RW(T) outside trap mode, makes them ILLEGAL; an access to FLAGS waits for every earlier matrix instruction of the
thread, loads among them (R240). What a system register reads after a write (R92, R102, R105, R164, R203, R331): the
fields that software may write take the written bits, and an illegal WSTK is ignored as a whole. -/
def Obligations.SystemRegisters : Prop :=
  (∀ (c : Ctl) (n : BitVec 15) (s s1 : State) (v : W64),
     let e := (s.core (coreOf s.cur)).engine
     let busy : Prop := n.toNat = 0x007 ∧ e.holder = some s.cur ∧ (e.loading = true ∨ e.jobs ≠ [])
     (∀ d, Ready c false ((Uses.w d).and { extra := sysRegs s n.toNat }) s →
       (¬ busy → exec (.csrr c d n) s = .next (retire (s.modMe (fun t => t.setW d.toNat (sysRead s n.toNat))) .seq)) ∧
       (busy → exec (.csrr c d n) s = .next s)) ∧
     (∀ a, let u := (Uses.src a).and { extra := sysRegs s n.toNat }
       Ready c false u s →
       (sysClass n.toNat = .rw ∨ (sysClass n.toNat = .rwT ∧ s.me.tm = true) →
         (¬ busy → Reads (readSrc64 .b64 a) (s.begun u) v s1 →
           exec (.csrw c n a) s = .next (retire (sysWrite s1 n.toNat v) .seq) ∧
           exec (.csrwSet c n a) s = .next (retire (sysWrite s1 n.toNat (sysRead s1 n.toNat ||| v)) .seq) ∧
           exec (.csrwClr c n a) s = .next (retire (sysWrite s1 n.toNat (sysRead s1 n.toNat &&& ~~~v)) .seq)) ∧
         (busy → exec (.csrw c n a) s = .next s ∧ exec (.csrwSet c n a) s = .next s ∧ exec (.csrwClr c n a) s = .next s)) ∧
       (sysClass n.toNat = .ro ∨ (sysClass n.toNat = .rwT ∧ s.me.tm = false) →
         exec (.csrw c n a) s = .next (s.trapped c 0x01 (illegalTval 0 0 0xE1 0 2)) ∧
         exec (.csrwSet c n a) s = .next (s.trapped c 0x01 (illegalTval 0 1 0xE1 0 2)) ∧
         exec (.csrwClr c n a) s = .next (s.trapped c 0x01 (illegalTval 0 2 0xE1 0 2))))) ∧
  (∀ (s : State) (v : W64), s.me.active = true →
     sysRead (sysWrite s 0x003 v) 0x003 = v &&& 0xFFFFFFFFFFFFFFFC#64 ∧
     sysRead (sysWrite s 0x005 v) 0x005 = v &&& 0xFFFFFFFFFFFFFFFC#64 ∧
     sysRead (sysWrite s 0x007 v) 0x007 = v &&& 0x7F#64 ∧
     sysRead (sysWrite s 0x008 v) 0x008 = v ∧
     sysRead (sysWrite s 0x009 v) 0x009 = v &&& 0xFFFFFFFFFFFFFFFC#64 ∧
     sysRead (sysWrite s 0x00A v) 0x00A = v &&& 0xFFFFFFFFFFFFFFFC#64 ∧
     sysRead (sysWrite s 0x011 v) 0x011 = v ∧
     sysRead (sysWrite s 0x012 v) 0x012 = v &&& 0x00000000FFFF001F#64 ∧
     sysRead (sysWrite s 0x021 v) 0x021 = v ∧
     sysRead (sysWrite s 0x060 v) 0x060 = v &&& 0x800003FFFFFFFFFF#64 ∧
     (sysRead (sysWrite s 0x030 v) 0x030).extractLsb' 0 8 = v.extractLsb' 0 8 ∧
     (sysRead (sysWrite s 0x004 v) 0x004).getLsbD 1 = v.getLsbD 1 ∧
     (sysRead (sysWrite s 0x004 v) 0x004).getLsbD 0 = (sysRead s 0x004).getLsbD 0 ∧
     (¬ (fieldOf v 16 16 ≤ fieldOf v 0 16 ∧ fieldOf v 0 16 ≤ fieldOf v 16 16 + 9) →
       sysRead (sysWrite s 0x010 v) 0x010 = sysRead s 0x010) ∧
     (fieldOf v 16 16 ≤ fieldOf v 0 16 → fieldOf v 0 16 ≤ fieldOf v 16 16 + 9 →
       sysRead (sysWrite s 0x010 v) 0x010 = v &&& 0xFFFFFFFF#64) ∧
     (∀ n, sysClass n = .ro → sysWrite s n v = s))

/-- R336: `tlbinv` waits for the thread's accesses, and for those of others that were translated through what it removes;
it removes the partition's translations, of one page or of all, from every buffer, and leaves those of other
partitions; R337: `ckpt` waits for accesses and copies, closes the interval at every home, and gives the new
INTERVAL. (In part the model's own reading or choice: assumptions 44 and 97 of the log.) -/
def Obligations.TranslationsAndCheckpoints : Prop :=
  ∀ (c : Ctl) (s : State),
    (s.pending s.me.task [.ls, .nb] = true →
      (∀ a, Ready c false (Uses.w a) s → exec (.tlbinvPage c a) s = .next s) ∧
      (Ready c false Uses.none s → exec (.tlbinvAll c) s = .next s)) ∧
    (s.pending s.me.task [.ls, .nb] = false →
      (∀ a, Ready c false (Uses.w a) s → let page := (s.me.w a.toNat).toNat / 2 ^ 21
        (usesPage s s.me.part (some page) = false →
          exec (.tlbinvPage c a) s = .next (retire (dropPages s s.me.part (some page)) .seq)) ∧
        (usesPage s s.me.part (some page) = true → exec (.tlbinvPage c a) s = .next (dropPages s s.me.part (some page)))) ∧
      (Ready c false Uses.none s →
        (usesPage s s.me.part none = false → exec (.tlbinvAll c) s = .next (retire (dropPages s s.me.part none) .seq)) ∧
        (usesPage s s.me.part none = true → exec (.tlbinvAll c) s = .next (dropPages s s.me.part none)))) ∧
    (∀ b p page e, e ∈ SMap.get [] (dropPages s p page).tlbs b ↔
      e ∈ SMap.get [] s.tlbs b ∧ ¬ (e.part = p ∧ (∀ pg, page = some pg → e.page = pg))) ∧
    (∀ d, Ready c false (Uses.w d) s → (s.pending s.me.task [.ls, .nb, .am] = true ∨ s.copiesPending s.me.task = true) →
      exec (.ckpt c d) s = .next s) ∧
    (∀ d, Ready c false (Uses.w d) s → s.pending s.me.task [.ls, .nb, .am] = false → s.copiesPending s.me.task = false →
      ∃ s', exec (.ckpt c d) s = .next s' ∧ (s'.prt s.me.part).interval = (s.prt s.me.part).interval + 1#32 ∧
        (s'.prt s.me.part).ckptEff = (s.prt s.me.part).cfReg 0x60 ∧ (∀ h, (s'.home h).log s.me.part = []) ∧
        s'.me.w d.toNat = ((s.prt s.me.part).interval + 1#32).setWidth 64 ∧ s'.mem = s.mem)

/-! ## At the homes -/

/-- R75, R153, R158, R160, R163, R164, R176, R180: the access at the head of a port of a home is accepted whole and
performed at that moment: it is refused where the home's check of the frame fails, meets poison, or reads and writes
memory, and its answer goes back. (In part the model's own reading or choice: assumptions 7, 18, 47 and 113 of the
log.) -/
def Obligations.HomeAccesses : Prop :=
  ∀ (s : State) (h i : Nat) (m : Msg) (loc : Bool), h < 256 → inboxNext s (homeEp h) loc = some (i, m) →
    (s.prt m.part).discard = false →
    let src : AcceptSrc := if loc then .localPort (homeEp h) else .router (homeEp h)
    let s1 := inboxTake s (homeEp h) loc i
    (∀ l n, m.req = .load l n →
      let s2 := noteLoc s1 l n m.tag
      (locRefused s m.part l = true → exec (.homeAccept src) s = .next (s1.answer m (.refusal (locAddr l)))) ∧
      (locRefused s m.part l = false → locBad s2 l n = true →
        exec (.homeAccept src) s = .next (s2.answer m (.poison (locAddr l)))) ∧
      (locRefused s m.part l = false → locBad s2 l n = false →
        exec (.homeAccept src) s = .next (s2.answer m (.bytes (readLoc s2 m.part l n))))) ∧
    (∀ l data, m.req = .store l data →
      let s2 := noteLoc s1 l data.length m.tag
      (locRefused s m.part l = true → exec (.homeAccept src) s = .next (s1.answer m (.refusal (locAddr l)))) ∧
      (locRefused s m.part l = false → (isSparse l = false ∨ locBad s2 l data.length = false) →
        exec (.homeAccept src) s = .next (writeLoc s2 m.part l data))) ∧
    (∀ op l b cmp, m.req = .atomic op l b cmp →
      let s2 := noteLoc s1 l (atBytes op) m.tag
      let r := atomicStep op (readLoc s2 m.part l (atBytes op)) b cmp
      (locRefused s m.part l = true → exec (.homeAccept src) s = .next (s1.answer m (.refusal (locAddr l)))) ∧
      (locRefused s m.part l = false → locBad s2 l (atBytes op) = true →
        exec (.homeAccept src) s = .next (s2.answer m (.poison (locAddr l)))) ∧
      (locRefused s m.part l = false → locBad s2 l (atBytes op) = false →
        exec (.homeAccept src) s = .next ((writeLoc s2 m.part l (r.2.1.map some)).answer m (.word r.1 r.2.2)))) ∧
    (∀ l t mask data, m.req = .rowadd (.dm l) t mask data →
      let s2 := noteSpans s1 l.home (rowSpans l) m.tag
      (frameOk s m.part l = false → exec (.homeAccept src) s = .next (s1.answer m (.refusal (w64 l.va)))) ∧
      (frameOk s m.part l = true → rowBad s2 l = true → exec (.homeAccept src) s = .next (s2.answer m (.poison (w64 l.va)))) ∧
      (frameOk s m.part l = true → rowBad s2 l = false →
        exec (.homeAccept src) s = .next ((performRowadd s2 m.part l t mask data).1.answer m
          (.flags (performRowadd s2 m.part l t mask data).2)))) ∧
    (∀ l minv, m.req = .rowld (.dm l) minv →
      let s2 := noteSpans s1 l.home (rowSpans l) m.tag
      let ver := bytesWord (s.mem.readN (rowVersionKey l) 8)
      (frameOk s m.part l = false → exec (.homeAccept src) s = .next (s1.answer m (.refusal (w64 l.va)))) ∧
      (frameOk s m.part l = true → rowBad s2 l = true → exec (.homeAccept src) s = .next (s2.answer m (.poison (w64 l.va)))) ∧
      (frameOk s m.part l = true → rowBad s2 l = false →
        exec (.homeAccept src) s = .next ((if ver.toNat < minv.toNat
          then s2.modPart m.part (fun p => { p with stalecnt := p.stalecnt + 1#64 }) else s2).answer m
            (.row (s.mem.readN l.key 256) ver))))

/-- What a store does to memory (R75, R147, R152, R156, R180): with no log in force, exactly the bytes stored change, and
they read as stored; the offsets of a VERSIONED page that hold no data take nothing; the first write to a line in an
interval appends its old bytes and its address to the undo log, in the log frames too, and no later one does.
`rowadd` adds to the words that its guard names, in one step with the row's version, which rises by one (R163); and
what each atomic gives back and writes (R160, R161). (In part the model's own reading or choice: assumptions 87 and
131 of the log.) -/
def Obligations.StoresChangeMemory : Prop :=
  ∀ (s : State) (p : Nat),
    (∀ (l : DmLoc) (bs : List Byte), l.attr ≠ 2#2 → (l.attr = 3#2 → l.off + bs.length ≤ 63488 ∨ 65536 ≤ l.off) →
      (∀ q ∈ logParts s p l, logCnt (s.prt q) = 0) →
      (∀ a, (writeLoc s p (.dm l) (bs.map some)).mem.read a =
        if l.key ≤ a ∧ a < l.key + bs.length then bs.getD (a - l.key) 0#8 else s.mem.read a) ∧
      readLoc (writeLoc s p (.dm l) (bs.map some)) p (.dm l) bs.length = bs) ∧
    (∀ (l : DmLoc) (data : List (Option Byte)), l.attr = 3#2 → 63488 ≤ l.off → l.off + data.length ≤ 65536 →
      writeLoc s p (.dm l) data = s) ∧
    (∀ (a k : Nat) (b : Byte), (writeLoc s p (.sp a) [some b]).mem.read k =
      if spKey s (s.prt p) a = k then b else s.mem.read k) ∧
    (∀ (h line : Nat), logCnt (s.prt p) ≠ 0 →
      (((s.home (homeEp h)).log p).any (fun e => e.line == line) = false →
        ((logLine s h p line).home (homeEp h)).log p =
          (s.home (homeEp h)).log p ++ [⟨line, s.mem.readN (line * 64) 64, spanBad s h (line * 64) 64⟩] ∧
        (logLine s h p line).mem.readN (h * 2 ^ 31 + (logFrame (s.prt p) + ((s.home (homeEp h)).log p).length / 16384) * 2 ^ 21 +
          ((s.home (homeEp h)).log p).length % 16384 * 128) 72 = s.mem.readN (line * 64) 64 ++ leBytes 8 (line * 64)) ∧
      (((s.home (homeEp h)).log p).any (fun e => e.line == line) = true → logLine s h p line = s)) ∧
    (∀ (l : DmLoc) (t : Ty) (mask : W32) (data : List W32), (∀ q ∈ logParts s p l, logCnt (s.prt q) = 0) →
      let r := performRowadd s p l t mask data
      let old (k : Nat) : W32 := (bytesLanes 64 (s.mem.readN l.key 256)).getD k 0#32
      let sum (k : Nat) : Nat × Fl := rowWord t (old k).toNat (data.getD k 0#32).toNat
      let acts (k : Nat) : Bool := mask.getLsbD (k % 32)
      r.1.mem.readN (rowVersionKey l) 8 = wordBytes (bytesWord (s.mem.readN (rowVersionKey l) 8) + 1#64) ∧
      (l.attr = 3#2 → 65536 ≤ l.off → ∀ k, k < 64 → (bytesLanes 64 (r.1.mem.readN l.key 256)).getD k 0#32 =
        if acts k then w32 (sum k).1 else old k) ∧
      (∀ b, b < 7 → r.2.getLsbD b = (List.range 64).any (fun k => acts k && (sum k).2.getLsbD b))) ∧
    -- the words that `rowadd` adds: two BF16 elements, or one element
    (∀ x y : Nat, (rowWord .bf16 x y).1 = (fAdd fmtBf16 (x % 2 ^ 16) (y % 2 ^ 16)).1 + 2 ^ 16 * (fAdd fmtBf16 (x / 2 ^ 16) (y / 2 ^ 16)).1 ∧
      (rowWord .bf16 x y).2 = (fAdd fmtBf16 (x % 2 ^ 16) (y % 2 ^ 16)).2 ||| (fAdd fmtBf16 (x / 2 ^ 16) (y / 2 ^ 16)).2 ∧
      rowWord .f32 x y = fAdd fmtF32 x y ∧ rowWord .i32 x y = ((x + y) % 2 ^ 32, 0#7)) ∧
    -- the atomics: the old value as the destination receives it, the new bytes, the flags
    (∀ (bs : List Byte) (b cmp : W64), let old := leNat bs
      let x := b.toNat
      let wide (new : Nat) (f : Fl) : W64 × List Byte × Fl := (w64 old, leBytes 8 new, f)
      let word (new : Nat) (f : Fl) : W64 × List Byte × Fl := (w64 old, leBytes 4 new, f)
      atomicStep .addI64 bs b cmp = wide ((old + x) % 2 ^ 64) 0#7 ∧
      atomicStep .addI32 bs b cmp = (w64 (sextNat 32 64 old), leBytes 4 ((old + x) % 2 ^ 32), 0#7) ∧
      atomicStep .minI64 bs b cmp = wide (if toSigned 64 old ≤ b.toInt then old else x) 0#7 ∧
      atomicStep .maxI64 bs b cmp = wide (if toSigned 64 old ≤ b.toInt then x else old) 0#7 ∧
      atomicStep .minB64 bs b cmp = wide (min old x) 0#7 ∧ atomicStep .maxB64 bs b cmp = wide (max old x) 0#7 ∧
      atomicStep .andB64 bs b cmp = wide (old &&& x) 0#7 ∧ atomicStep .orB64 bs b cmp = wide (old ||| x) 0#7 ∧
      atomicStep .xorB64 bs b cmp = wide (old ^^^ x) 0#7 ∧ atomicStep .swapB64 bs b cmp = wide x 0#7 ∧
      atomicStep .swapB32 bs b cmp = word (x % 2 ^ 32) 0#7 ∧
      atomicStep .casB64 bs b cmp = wide (if old = cmp.toNat then x else old) 0#7 ∧
      atomicStep .casB32 bs b cmp = word (if old = cmp.toNat % 2 ^ 32 then x % 2 ^ 32 else old) 0#7 ∧
      atomicStep .faddF32 bs b cmp = word (fAdd fmtF32 old (x % 2 ^ 32)).1 (fAdd fmtF32 old (x % 2 ^ 32)).2 ∧
      atomicStep .faddF56 bs b cmp = wide (fAdd fmtF56 (old % 2 ^ 56) (x % 2 ^ 56)).1 (fAdd fmtF56 (old % 2 ^ 56) (x % 2 ^ 56)).2 ∧
      -- `addfx`: the FP32 value in units of 2^-32, rounded to nearest and held to 64 bits
      (let added (n : Int) (f : Fl) : Prop := atomicStep .addfx bs b cmp = wide (wrapInt 64 ((old : Int) + n)) f
       let A := fdec fmtF32 (x % 2 ^ 32)
       (A = .nan → added 0 flIV) ∧ (A = .inf false → added (2 ^ 63 - 1) flIV) ∧ (A = .inf true → added (-(2 ^ 63)) flIV) ∧
       (∀ n m e k, A = .fin n m e → Quanta 0#2 n m (e + 32) 0 k → let y := signedMag n k
         (y < -(2 ^ 63) → added (-(2 ^ 63)) flIV) ∧ ((2 ^ 63 : Int) - 1 < y → added (2 ^ 63 - 1) flIV) ∧
         (-(2 ^ 63) ≤ y → y ≤ (2 ^ 63 : Int) - 1 → added y (if QuantaExact m (e + 32) 0 k then 0#7 else flNX)))))

/-- R165 to R168, R174, R258: the accesses performed elsewhere: host memory (an access of more than 8 bytes by aligned
pieces), a peer's memory, the words of mailboxes, configuration registers, and the accesses of copies. A write of
PREEMPT that starts nothing sets its fields, unless it sets GO while a request is in progress (R342). R151, R153,
R157, R184: the writes of configuration registers that are steps of their own: an SP region and PTROOT take the bits
that software writes, and leave the buffers as they are; CKPTCFG takes them only where the partition accepts feature
7 and owns the log frames, and is in force from the next close. Bytes stored in SP under one swizzle are not moved:
R151's number names the bank at which the old entry stored what a read under the new one returns. (In part the
model's own reading or choice: assumptions 46, 48, 49, 61 and 86 of the log.) -/
def Obligations.OtherAccesses : Prop :=
  (∀ (s : State) (i : Nat) (m : Msg),
     (inboxNext s hostEp false = some (i, m) → let s1 := inboxTake s hostEp false i
       (∀ a n, m.req = .hmLoad a n [] → 1 ≤ n → n ≤ 8 →
         exec (.homeAccept (.router hostEp)) s = .next (s1.answer m (.bytes (s.hostMem.readN a n)))) ∧
       (∀ a data, m.req = .hmStore a data → data.length ≤ 8 →
         exec (.homeAccept (.router hostEp)) s = .next { s1 with hostMem := writeSome s.hostMem a data }) ∧
       (∀ a data, m.req = .hmStore a data → 8 < data.length →
         ∃ s', exec (.homeAccept (.router hostEp)) s = .next s' ∧
           s'.hostMem = writeSome s.hostMem a (data.take 8) ∧ s'.mem = s.mem)) ∧
     (∀ port, port < 8 → inboxNext s (peerEp port) false = some (i, m) → let s1 := inboxTake s (peerEp port) false i
       (∀ va n, m.req = .pmLoad va n → exec (.homeAccept (.router (peerEp port))) s =
         .next (s1.answer m (.bytes (s.peerMem.readN (peerKey port va) n)))) ∧
       (∀ va data, m.req = .pmStore va data → exec (.homeAccept (.router (peerEp port))) s =
         .next { s1 with peerMem := writeSome s.peerMem (peerKey port va) data })) ∧
     (∀ p, p < 48 → inboxNext s (mbEp p) false = some (i, m) → let s1 := inboxTake s (mbEp p) false i
       (∀ mb w out, m.req = .mbRead mb w out → exec (.homeAccept (.router (mbEp p))) s =
         .next (s1.answer m (.word (SMap.get 0#64 (if out then ((s.prt p).mbox mb).outbound
           else ((s.prt p).mbox mb).inbound) w) 0#7))) ∧
       (∀ mb w v, m.req = .mbWrite mb w v → ∃ s', exec (.homeAccept (.router (mbEp p))) s = .next s' ∧
         SMap.get 0#64 ((s'.prt p).mbox mb).outbound w = v ∧
         ((s'.prt p).mbox mb).ready = (((s.prt p).mbox mb).ready || w == 7) ∧ s'.mem = s.mem) ∧
       (∀ n, m.req = .cfRead n → exec (.homeAccept (.router (mbEp p))) s =
         .next (s1.answer m (.word (cfRead s p (coreDie m.src) n) 0#7))) ∧
       (∀ n v, m.req = .cfWrite n v → cfOwnStep (s.prt p).preempt n v = false → cfClass n = .rw → n ≠ 0xD4 →
         ∃ s', exec (.homeAccept (.router (mbEp p))) s = .next s' ∧ (s'.prt p).cfReg n = v &&& cfMask n ∧
           (∀ k, k ≠ n → (s'.prt p).cfReg k = (s.prt p).cfReg k) ∧ s'.mem = s.mem) ∧
       (∀ v, m.req = .cfWrite 0xD4 v → cfOwnStep (s.prt p).preempt 0xD4 v = false →
         ∃ s', exec (.homeAccept (.router (mbEp p))) s = .next s' ∧ s'.mem = s.mem ∧
           (s'.prt p).preempt = if bitOf v 63 then (s.prt p).preempt else
             { (s.prt p).preempt with word := v &&& 0x0FFFFFFFC00007FF#64 })) ∧
     (∀ e k c s1, (s.engine e)[i]? = some k → copyNext s e k = .go c s1 →
       exec (.homeAccept (.copy e i)) s = .next (putCopy s1 e i c))) ∧
  (∀ (s : State) (p i n : Nat) (v : W64), cfHead s p = some (i, n, v) →
     (n < 0x40 → ∃ s', exec (.spRegionWrite p) s = .next s' ∧ (s'.prt p).cfReg n = v &&& 0x007FFFFFFFFFF000#64 ∧
       s'.mem = s.mem) ∧
     (n = 0x41 → ∃ s', exec (.ptrootWrite p) s = .next s' ∧ (s'.prt p).cfReg n = v &&& 0x001FE000000003FF#64 ∧
       s'.tlbs = s.tlbs ∧ s'.mem = s.mem) ∧
     (n = 0x60 → (∃ s', exec (.ckptcfgWrite p) s = .next s' ∧ (s'.prt p).ckptEff = (s.prt p).ckptEff ∧ s'.mem = s.mem ∧
       (s'.prt p).cfReg n = if bitOf (s.prt p).accept 7 && logFramesOwned s p v then v &&& 0xFFFF03FF000003FF#64
         else (s.prt p).cfReg n)) ∧
     -- a placement changed in between: a read at bank b returns what the old entry stored at bank b XOR f_new XOR f_old
     (∀ old new row b i : Nat, row < 8 → b < 32 → i < 16 →
       let f (z : Nat) : Nat := if 1 ≤ z ∧ z ≤ 6 then row * (2 ^ (z + 3) / 16) % 32 else 0
       swizzle new (row * 512 + b * 16 + i) = swizzle old (row * 512 + (b ^^^ f new ^^^ f old) * 16 + i)))

/-! ## What arrives -/

/-- R79, R284, R299: a message is delivered once every earlier one of its source and endpoint has been: a request joins
the endpoint's port, bytes the landing buffer of its thread, and the late flags of a `rowadd` the thread's FLAGS at
once (R64). A PM message that fails at its port is answered with PEER_ERROR. What is for a task that has moved is
sent on to its new core (R297). A route's header reserves its path link by link, waits where a link is reserved, in
arrival order, and reaches its channel (R290); a channel takes the route that reached it first (R291). R97, R144,
R158, R161, R164: a reply lands where it is owed, and is owed no longer: in a register, extended by its type; in the
lanes of a vector register that its mask names; a refusal, poison or a peer's error is a trap that waits for the next
boundary. R152, R157, R165: a walk or an ATS translation that ends lets its thread go on, with the entry held in the
buffers that serve its core, or makes the waiting instruction fault, with poison where a table's line is
uncorrectable (R182). An ATS invalidation removes a page of a partition everywhere. (In part the model's own reading
or choice: assumptions 17, 18, 32, 84 and 85 of the log.) -/
def Obligations.RepliesLand : Prop :=
  (∀ (s : State) (i : Nat),
     (∀ m, s.net[i]? = some m →
       let k := pairKey m.src m.dst
       let s1 := { s with net := s.net.eraseIdx i, seqIn := SMap.set 0 s.seqIn k (m.seq + 1) }
       (m.seq = SMap.get 0 s.seqIn k → isReply m.req = false → ∃ s', exec (.messageDelivery i) s = .next s' ∧
         (s'.home m.dst).router = (s.home m.dst).router ++ [m] ∧ s'.net = s.net.eraseIdx i ∧
         SMap.get 0 s'.seqIn k = m.seq + 1 ∧ s'.threads = s.threads ∧ s'.mem = s.mem) ∧
       (m.seq = SMap.get 0 s.seqIn k → (∃ f, m.req = .flags f) ∨ (∃ bs, m.req = .bytes bs) → s.isFor m = true →
         ∃ s', exec (.messageDelivery i) s = .next s' ∧ s'.net = s.net.eraseIdx i ∧ s'.homes = s.homes ∧ s'.mem = s.mem ∧
           (∀ f, m.req = .flags f → (s'.thr m.thr).flags = (s.thr m.thr).flags ||| f ∧
             (s'.thr m.thr).landing = (s.thr m.thr).landing ∧ (s'.thr m.thr).stk = (s.thr m.thr).stk) ∧
           (∀ bs, m.req = .bytes bs → (s'.thr m.thr).landing = (s.thr m.thr).landing ++ [⟨m.tok, .bytes bs⟩] ∧
             (s'.thr m.thr).flags = (s.thr m.thr).flags)) ∧
       (m.seq ≠ SMap.get 0 s.seqIn k → exec (.messageDelivery i) s = .next s) ∧
       (∀ a n, m.seq = SMap.get 0 s.seqIn k → m.req = .pmLoad a n →
         exec (.peerFlitFailure i) s = .next (s1.answer m (.peerError (w64 a))))) ∧
     (∀ core m f, (s.core core).fwdIn[i]? = some m → s.fwdOf core m.task = some f →
       exec (.forwardMessage core i) s = .next (freeFwd ((s.modCore core (fun c => { c with fwdIn := c.fwdIn.eraseIdx i })).inject
         { m with src := core, dst := coreOf f.newThr, thr := f.newThr }) core)) ∧
     (∀ r, s.routes[i]? = some r → r.complete = false →
       let held (l : Nat) : Prop := ∃ x ∈ s.routes, x.id ≠ r.id ∧ l ∈ x.links.take x.taken
       let awaited (l : Nat) : Prop := ∃ x ∈ s.routes, x.id ≠ r.id ∧ x.waitNo ≠ 0 ∧ x.links[x.taken]? = some l ∧
         (r.waitNo = 0 ∨ x.waitNo < r.waitNo)
       let becomes (y : Route) : List Route := s.routes.map (fun (x : Route) => if x.id == r.id then y else x)
       (∀ l, r.links[r.taken]? = some l →
         (¬ held l → ¬ awaited l → exec (.routeComplete i) s =
           .next { s with routes := becomes { r with taken := r.taken + 1, waitNo := 0 } }) ∧
         (held l ∨ awaited l → r.waitNo = 0 → exec (.routeComplete i) s =
           .next { s with nextId := s.nextId + 1, routes := becomes { r with waitNo := s.nextId } }) ∧
         (held l ∨ awaited l → r.waitNo ≠ 0 → exec (.routeComplete i) s = .next s)) ∧
       (r.links[r.taken]? = none → exec (.routeComplete i) s = .next (settle
         { s with nextId := s.nextId + 1, routes := becomes { r with complete := true, reachNo := s.nextId } } r.dst r.chan))) ∧
     (∀ core chan id, nextRoute s core chan = some id → ∃ x ∈ s.routes, x.id = id ∧ x.dst = core ∧ x.chan = chan ∧
       x.complete = true ∧ ∀ y ∈ s.routes, y.dst = core → y.chan = chan → y.complete = true → x.reachNo ≤ y.reachNo)) ∧
  (∀ (s : State) (t : Nat) (l : Landing) (rest : List Landing) (o : Owed), (s.thr t).active = true →
     (s.thr t).landing = l :: rest → (s.thr t).owed.find? (fun x => x.tok == l.tok) = some o →
     let left := (s.thr t).owed.filter (fun x => x.tok != l.tok)
     (∀ bs d ty n, l.req = .bytes bs → o.fill = .w d ty n → d.holds = true →
       ∃ s', exec (.replyLand t) s = .next s' ∧ (s'.thr t).readP d = w64 (extendTo ty 64 (leNat ((overlay bs o.heldBytes).take n))) ∧
         (∀ r, r ≠ d → (s'.thr t).readP r = (s.thr t).readP r) ∧ (s'.thr t).owed = left ∧ (s'.thr t).landing = rest ∧
         (s'.thr t).ip = (s.thr t).ip ∧ s'.mem = s.mem) ∧
     (∀ w f d, l.req = .word w f → o.fill = .word d → d.holds = true →
       ∃ s', exec (.replyLand t) s = .next s' ∧ (s'.thr t).readP d = w ∧ (s'.thr t).flags = (s.thr t).flags ||| f ∧
         (s'.thr t).owed = left ∧ (s'.thr t).landing = rest ∧ s'.mem = s.mem) ∧
     (∀ bs d mask, l.req = .bytes bs → o.fill = .v d mask →
       ∃ s', exec (.replyLand t) s = .next s' ∧
         (∀ i, i < 32 → (s'.thr t).lane d i = if mask.getLsbD i then (bytesLanes 32 (overlay bs o.heldBytes)).getD i 0#32
           else (s.thr t).lane d i) ∧
         (s'.thr t).owed = left ∧ (s'.thr t).landing = rest ∧ s'.mem = s.mem) ∧
     (∀ c, replyTrap l.req = some c →
       ∃ s', exec (.replyLand t) s = .next s' ∧ (s'.thr t).async = (s.thr t).async ++ [c] ∧ (s'.thr t).owed = left ∧
         (s'.thr t).landing = rest ∧ (s'.thr t).stk = (s.thr t).stk ∧ (s'.thr t).v = (s.thr t).v ∧ s'.mem = s.mem)) ∧
  (∀ (s : State) (t : Nat),
     (∀ page, (s.thr t).wait = .walk page →
       (∀ e, walkPage s (s.thr t).part page = some e → ∃ s', exec (.tableWalkComplete t) s = .next s' ∧
         (s'.thr t).wait = .none ∧ bufEntry s' (coreBufs (coreOf t)).1 (s.thr t).part page = some e ∧
         bufEntry s' (coreBufs (coreOf t)).2 (s.thr t).part page = some e ∧ s'.mem = s.mem) ∧
       (walkTables s (s.thr t).part page = .absent → exec (.tableWalkComplete t) s =
         .next (s.modThr t (fun x => { x with wait := .walkFault page }))) ∧
       (walkTables s (s.thr t).part page = .poison → exec (.tableWalkComplete t) s =
         .next (s.modThr t (fun x => { x with wait := .walkPoison page })))) ∧
     (∀ page hpage, t < 2 ^ 20 → (s.thr t).wait = .ats page →
       (∃ s', exec (.atsTranslationComplete t true hpage) s = .next s' ∧ (s'.thr t).wait = .none ∧
         (s'.ats.find? (fun e => e.1 == atsKey (s.thr t).part (coreDie (coreOf t)) page)).map (·.2) = some hpage) ∧
       exec (.atsTranslationComplete t false hpage) s = .next (s.modThr t (fun x => { x with wait := .atsFault page }))) ∧
     (∀ p page, ∃ s', exec (.atsInvalidation p page) s = .next s' ∧ s'.mem = s.mem ∧
       ∀ e, e ∈ s'.ats ↔ e ∈ s.ats ∧ ∀ d, d < 4 → e.1 ≠ atsKey p d page))

/-! ## Queues, counter blocks, tags -/

/-- R191, R192, R340: a record that arrives at its home joins the end of its queue, in hardware while an entry is free
and nothing has spilled, else in the spill region; with no room there it is refused, and of a contained partition it
is discarded; so is one whose anchor's frame the home refuses, which its sender is told (R176). A record refused
before keeps its place before those that its sender sent after it. A record accepted leaves OUT of its core. R192,
R194, R196, R197, R206, R207: a refused record is sent again, the oldest first; a queue decides its near takes and
its steals, each granted the record that qualifies, or nothing; a home publishes what its queues can spare; a near
slot draws among the queues that offer a take. R188, R194 to R196: a near take examines the eight oldest entries,
from the oldest, a steal the eight youngest, from the youngest, and each takes the first that is eligible and
overlap-clean: whose anchor, if O = 1, shares no byte with that of an older task of the queue that is queued or live.
(In part the model's own reading or choice: assumptions 20, 50, 51, 52 and 96 of the log.) -/
def Obligations.QueuesDecide : Prop :=
  (∀ (s : State) (h i : Nat) (loc : Bool) (m : Msg) (r : Rec) (counted : Bool),
     inboxNext s (homeEp h) loc = some (i, m) → m.req = .record r counted →
     let s1 := inboxTake s (homeEp h) loc i
     let q := hdrQnum (Rec.header r)
     let x := (s.home (homeEp h)).queue m.part q
     (s.halted m.part = true → exec (.recordArrival h loc) s = .next (discardMsg s1 m)) ∧
     let owned : Prop := ∀ l, m.loc = some l → frameOk s m.part l = true
     (∀ l, s.halted m.part = false → m.loc = some l → frameOk s m.part l = false →
       exec (.recordArrival h loc) s = .next ((discardMsg s1 m).answer m (.refusal (w64 l.va)))) ∧
     (s.halted m.part = false → owned → olderRecord s1 m = true →
       exec (.recordArrival h loc) s = .next (refuseRecord s1 m r counted)) ∧
     (olderRecord s1 m = true ↔ ∃ y ∈ s1.inFlight, sameFlow m.src m.dst m y = true ∧ y.tok < m.tok) ∧
     (∀ y r' c, y.req = .record r' c → (sameFlow m.src m.dst m y = true ↔
       y.part = m.part ∧ hdrQnum (Rec.header r') = q ∧ y.src = m.src ∧ y.dst = m.dst)) ∧
     (s.halted m.part = false → owned → olderRecord s1 m = false →
       (x.hw < 48 → x.spilled = 0 → ∃ s', exec (.recordArrival h loc) s = .next s' ∧
         (s'.home (homeEp h)).queue m.part q =
           { x with entries := x.entries ++ [⟨x.nextNum, r, none⟩], nextNum := x.nextNum + 1 } ∧
         (s'.core (coreOf m.thr)).spawnOut = (s.core (coreOf m.thr)).spawnOut - (if counted then 1 else 0) ∧
         s'.net = s.net ∧ s'.mem = s.mem) ∧
       (∀ s2, ¬ (x.hw < 48 ∧ x.spilled = 0) → x.noSpill = false → x.used < x.spsize →
         spillWrite s1 h m.part (spillVa x x.tail) r = some s2 → ∃ s', exec (.recordArrival h loc) s = .next s' ∧
           s'.mem = s2.mem ∧ ∃ y, (s'.home (homeEp h)).queue m.part q = y ∧
             y.entries = x.entries ++ [⟨x.nextNum, r, some x.tail⟩] ∧ y.used = x.used + 1 ∧ y.tail = nextPlace x x.tail) ∧
       (¬ (x.hw < 48 ∧ x.spilled = 0) → (x.noSpill = true ∨ x.spsize ≤ x.used) →
         exec (.recordArrival h loc) s = .next (refuseRecord s1 m r counted)))) ∧
  ((∀ (s : State) (core i : Nat) (m : Msg), (s.core core).resend[i]? = some m →
     let older : Prop := ∃ x ∈ (s.core core).resend, sameFlow m.src m.dst m x = true ∧ x.tok < m.tok
     (¬ older → exec (.recordResend core i) s =
       .next ((s.modCore core (fun c => { c with resend := c.resend.eraseIdx i })).post m)) ∧
     (older → exec (.recordResend core i) s = .next s)) ∧
   (∀ (s : State) (h p q k : Nat) (m : Msg) (any : Bool) (e : QEntry),
     let x := (s.home (homeEp h)).queue p q
     let s0 := s.modQueue h p q (fun y => { y with takes := [], steals := [] })
     (x.takes = [] → x.steals = [m] → (m.req = .steal q any ∨ (any = false ∧ ∃ thief, m.req = .schedSteal q thief)) →
       ((s.halted p = true ∨ (if any then x.depth < 1 else x.depth ≤ x.thresh)) →
         exec (.queueDecide h p q) s = .next (s0.answer m (.grant none q (homeEp h)))) ∧
       -- no entry qualifies: the steal is refused
       (farChoice s0 h p q m.src = none → exec (.queueDecide h p q) s = .next (s0.answer m (.grant none q (homeEp h)))) ∧
       (s.halted p = false → (if any then 1 ≤ x.depth else x.thresh < x.depth) → farChoice s0 h p q m.src = some e →
         e.spilled = none → exec (.queueDecide h p q) s = .next ((settleQueue (s0.modQueue h p q (fun y =>
           { y with entries := y.entries.filter (fun z => z.num != e.num) })) h p q).answer m
             (.grant (some e.recd) q (homeEp h))))) ∧
     (x.takes = [k] → x.steals = [] → k < 6 → takesNear s h p = true → s.slotFree (homeEp h * 16 + k) = true →
       nearChoice s0 h p q = some e → ∃ s', exec (.queueDecide h p q) s = .next s' ∧
         (s'.core (homeEp h)).granted = (s.core (homeEp h)).granted ++ [(k, e.recd, q, some ⟨h, p, q, e.num⟩)]) ∧
     -- no entry qualifies, or the slot is taken: the take is given nothing
     (x.takes = [k] → x.steals = [] → (nearChoice s0 h p q = none ∨ takesNear s h p = false ∨ s.slotFree (homeEp h * 16 + k) = false) →
       exec (.queueDecide h p q) s = .next s0)) ∧
   (∀ (s : State) (h : Nat), ∃ s', exec (.queuePublication h) s = .next s' ∧ s'.mem = s.mem ∧ s'.homes = s.homes ∧
     ∀ x ∈ (s.home (homeEp h)).queues, x.1 < 1024 → (∀ y ∈ (s.home (homeEp h)).queues, y.1 = x.1 → y = x) →
       SMap.get 0 s'.pub (pubKey h (x.1 / 16) (x.1 % 16)) = x.2.depth - x.2.thresh) ∧
   -- a thief that waited for a publication decides again
   (∀ (s s' : State) (h c : Nat), exec (.queuePublication h) s = .next s' →
     (s'.core c).decisions = (s.core c).decisions.filter (fun d => !d.2.waiting)) ∧
   (∀ (s : State) (t k : Nat), let c := coreOf t
     let x := nextX (s.core c).genX
     1024 ≤ c → c < 1280 → slotOf t < 6 → s.slotFree t = true → takePendingAt s (c - 1024) (slotOf t) = false →
     nextHandler s c = none → draw x (nearOffers s (c - 1024)) = some k → ∃ s', exec (.cellarSlotDraw t) s = .next s' ∧
       (s'.core c).genX = x ∧ ((s'.home c).queue (k / 16) (k % 16)).takes =
         ((s.home c).queue (k / 16) (k % 16)).takes ++ [slotOf t])) ∧
  (∀ (s : State) (h p q core : Nat) (e : QEntry),
     let x := (s.home (homeEp h)).queue p q
     let hd (y : QEntry) : W64 := Rec.header y.recd
     let shares (a : W64) (m : Nat) (b : W64) (n : Nat) : Prop := a.getLsbD 63 = b.getLsbD 63 ∧
       ∃ k, a.toNat ≤ k ∧ k < a.toNat + m ∧ b.toNat ≤ k ∧ k < b.toNat + n
     let clean (y : QEntry) : Prop := overlapClean (liveNear s h p q) x.entries y = true
     let near (y : QEntry) : Prop := hdrN (hd y) = true ∧ hdrGran (hd y) ≤ 8 ∧ clean y
     let far (y : QEntry) : Prop := hdrF (hd y) = true ∧ hdrS (hd y) = true ∧ hdrGran (hd y) ≤ 32 ∧
       (hdrM (hd y) = true ∨ h / 64 = coreDie core) ∧ clean y
     let first (l : List QEntry) (ok : QEntry → Prop) : Prop := ∃ pre post, l = pre ++ e :: post ∧ ok e ∧ ∀ y ∈ pre, ¬ ok y
     (clean e ↔ (hdrO (hd e) = true →
       (∀ y ∈ x.entries, y.num < e.num → ¬ shares (Rec.abase y.recd) (Rec.alen y.recd) (Rec.abase e.recd) (Rec.alen e.recd)) ∧
       ∀ y ∈ liveNear s h p q, y.1 < e.num → ¬ shares y.2.1 y.2.2.1 (Rec.abase e.recd) (Rec.alen e.recd))) ∧
     -- a near body that was taken is live until it has ended and its accesses are performed
     (∀ y, y ∈ liveNear s h p q ↔ y ∈ x.nearLive ∧
       let here (l : Option LiveIn) : Prop := l = some ⟨h, p, q, y.1⟩
       ((∃ g ∈ (s.core (homeEp h)).granted, here g.2.2.2) ∨ (∃ t ∈ s.coreThreads (homeEp h), here (s.thr t).live) ∨
         (∃ c ∈ s.saved, here c.thread.live) ∨ (∃ m ∈ s.inFlight, m.task = y.2.2.2 ∧ m.part = p ∧ isAccess m.req = true) ∨
         ∃ g ∈ s.copies, ∃ c ∈ g.2, c.task = y.2.2.2 ∧ c.part = p)) ∧
     (nearChoice s h p q = some e ↔ first (x.entries.take 8) near) ∧
     (nearChoice s h p q = none ↔ ∀ y ∈ x.entries.take 8, ¬ near y) ∧
     (farChoice s h p q core = some e ↔ first (x.entries.reverse.take 8) far) ∧
     (farChoice s h p q core = none ↔ ∀ y ∈ x.entries.reverse.take 8, ¬ far y))

/-- R198, R199, R222: a decrement, a deposit or a `setdep` at the head of a port of a home is taken whole: each of the
three is refused, met with poison, or performed on the block; what the three do to it, in one step of the undo log
(R181). (In part the model's own reading or choice: assumptions 7, 20, 47, 96 and 102 of the log.) -/
def Obligations.CounterBlocks : Prop :=
  (∀ (s : State) (h i : Nat) (loc : Bool) (m : Msg) (l : DmLoc), inboxNext s (homeEp h) loc = some (i, m) →
    (s.prt m.part).discard = false →
    let s1 := inboxTake s (homeEp h) loc i
    let count := blockCount s1 m.part l
    let st := blockState s1 m.part l
    let words : Nat × Nat := (0, 16)
    let record : Nat × Nat := (128, 128)
    let at_ (y : Nat × Nat) : Loc := .dm { l with va := l.va + y.1 }
    -- `x` is the state in which the home answers, `f` what it does to the block; poison counts in what is read alone
    let taken (e : Instr) (x : State) (reads writes : List (Nat × Nat)) (f : State → State) : Prop :=
      (frameOk s m.part l = false → exec e s = .next (x.answer m (.refusal (w64 l.va)))) ∧
      (frameOk s m.part l = true → (∃ y ∈ reads, locBad s1 (at_ y) y.2 = true) →
        exec e s = .next (x.answer m (.poison (w64 l.va)))) ∧
      (frameOk s m.part l = true → (∀ y ∈ reads, locBad s1 (at_ y) y.2 = false) →
        exec e s = .next (f ((reads ++ writes).foldl (fun s y => noteLoc s (at_ y) y.2 m.tag) x)))
    (m.req = .decrement (.dm l) → taken (.counterDecrement h loc) s1
      (words :: (if count = 1 ∧ st = 1#64 then [record] else [])) [] (fun x => decrementBlock x m.part l)) ∧
    (∀ r, m.req = .deposit (.dm l) r →
      taken (.counterDeposit h loc) (lowerOut s1 (coreOf m.thr)) [words]
        (if st = 1#64 ∨ st = 2#64 ∨ count ≤ 0 then [] else [record]) (fun x => depositBlock x m.part l r)) ∧
    (∀ n r, m.req = .setdep (.dm l) n r → taken (.setdepArrival h loc) s1 []
      (words :: (if r.isSome = true ∧ 1 ≤ n.toInt then [record] else [])) (fun x => setBlock x m.part l n r))) ∧
  (∀ (s : State) (p : Nat) (l : DmLoc) (r : Rec) (n : W64),
    let shut (x : State) : State := closeDm x p l
    let put (x : State) (off : Nat) (v : W64) : State := setBlockWord x p l off v
    (2 ≤ blockCount s p l → decrementBlock s p l = shut (put s 0 (BitVec.ofInt 64 (blockCount s p l - 1)))) ∧
    (blockCount s p l = 1 → blockState s p l ≠ 1#64 → decrementBlock s p l = shut (put (put s 0 0#64) 8 2#64)) ∧
    (blockCount s p l = 1 → blockState s p l = 1#64 → decrementBlock s p l =
      homeSend (shut (put (put s 0 0#64) 8 2#64)) l.home p l.va (blockHeld s p l)) ∧
    (blockCount s p l ≤ 0 → decrementBlock s p l = (shut (put s 0 0#64)).modPart p (deplogUf l.va)) ∧
    (blockState s p l = 1#64 → depositBlock s p l r = s.modPart p (deplogBusy l.va)) ∧
    (blockState s p l = 2#64 ∨ (blockState s p l ≠ 1#64 ∧ blockCount s p l ≤ 0) →
      depositBlock s p l r = homeSend (shut (put s 8 2#64)) l.home p l.va r) ∧
    (blockState s p l ≠ 1#64 → blockState s p l ≠ 2#64 → 1 ≤ blockCount s p l →
      depositBlock s p l r = shut (put (setBlockHeld s p l r) 8 1#64)) ∧
    (1 ≤ n.toInt → setBlock s p l n (some r) = shut (put (setBlockHeld (put s 0 n) p l r) 8 1#64)) ∧
    (n.toInt ≤ 0 → setBlock s p l n (some r) = homeSend (shut (put (put s 0 n) 8 2#64)) l.home p l.va r) ∧
    (l.attr = 1#2 → l.va % 256 = 0 → (∀ q ∈ logParts s p l, logCnt (s.prt q) = 0) →
      bytesWord ((setBlock s p l n none).mem.readN l.key 8) = n ∧
      bytesWord ((setBlock s p l n none).mem.readN (l.key + 8) 8) = 0#64 ∧
      (∀ a, a < l.key ∨ l.key + 16 ≤ a → (setBlock s p l n none).mem.read a = s.mem.read a)))

/-- R172, R285 to R288: `bind` sets the entry of its tag and `unbind` clears it; an active message whose tag is bound
waits at the core in arrival order, and one whose tag is not is dropped; each of the three is refused where the home
does not let the partition use the frame that its address names (R176); a free slot starts the oldest, with the
message's arguments in `w0` to `w7` and one granule. (In part the model's own reading or choice: assumptions 54 and
109 of the log.) -/
def Obligations.ActiveMessages : Prop :=
  (∀ (s : State) (h i : Nat) (loc : Bool) (m : Msg), inboxNext s (homeEp h) loc = some (i, m) →
    let s1 := inboxTake s (homeEp h) loc i
    let refused : Host.Outcome State Fault Refusal → Prop := fun o =>
      ∀ l, m.loc = some l → frameOk s m.part l = false → o = .next (s1.answer m (.refusal (w64 l.va)))
    let owned : Prop := ∀ l, m.loc = some l → frameOk s m.part l = true
    (∀ tag e, m.req = .bind tag e → refused (exec (.bindArrival h loc) s)) ∧
    (∀ tag, m.req = .unbind tag → refused (exec (.unbindArrival h loc) s)) ∧
    (∀ tag rtag args, m.req = .amsg tag rtag args → refused (exec (.amArrival h loc) s)) ∧
    (∀ tag e, m.req = .bind tag e → owned → ∃ s', exec (.bindArrival h loc) s = .next s' ∧
      SMap.get 0#64 (s'.home (homeEp h)).tags (tagKey m.part tag) = align4 e ||| 1#64 ∧ s'.mem = s.mem) ∧
    (∀ tag, m.req = .unbind tag → owned → ∃ s', exec (.unbindArrival h loc) s = .next s' ∧
      SMap.get 0#64 (s'.home (homeEp h)).tags (tagKey m.part tag) = 0#64 ∧ s'.mem = s.mem) ∧
    (∀ tag rtag args, m.req = .amsg tag rtag args → owned → s.halted m.part = false →
      let e := SMap.get 0#64 (s.home (homeEp h)).tags (tagKey m.part tag)
      (e ≠ 0#64 → ∃ s', exec (.amArrival h loc) s = .next s' ∧
        (s'.home (homeEp h)).amq = (s.home (homeEp h)).amq ++ [⟨m.part, align4 e, rtag, args⟩] ∧ s'.mem = s.mem) ∧
      (e = 0#64 → exec (.amArrival h loc) s = .next (s1.modPart m.part (amdrop tag rtag))))) ∧
  (∀ (s : State) (t : Nat) (a : AmEntry), let c := coreOf t
    1024 ≤ c → c < 1280 → slotOf t < 8 → s.slotFree t = true → takePendingAt s (c - 1024) (slotOf t) = false →
    1 ≤ granulesLeft s c → nextHandler s c = some a → ∃ s', exec (.handlerStart t) s = .next s' ∧
      (s'.home c).amq = (s.home c).amq.erase a ∧ (s'.thr t).active = true ∧ (s'.thr t).kind = .handler ∧
      (s'.thr t).part = a.part ∧ (s'.thr t).ip = align4 a.entry ∧ (s'.thr t).gran = 1 ∧
      (∀ j, j < 8 → (s'.thr t).w j = a.args.getD j 0#64) ∧ (s'.thr t).gReg 10 = a.rtag.setWidth 64 ∧
      (s'.thr t).budEn = true ∧ (s'.thr t).budRem = 4096 ∧ s'.mem = s.mem)

/-! ## What runs where -/

/-- R201, R204, R205, R207: a free slot draws a class by lottery and takes its oldest record, or asks a queue for one; a
launch instance joins the class of its record, or waits at the core until an entry is free. R204 to R207: how a draw
chooses: the first candidate whose running sum of tickets exceeds x modulo their sum, the lowest where none holds a
ticket; and how a thief does: level by level, from the largest published excess, one request at a time; a grant ends
its search, and so does the fourth refusal. R201, R218: the instances of launches at a core. (In part the model's own
reading or choice: assumptions 22, 53, 101 and 109 of the log.) -/
def Obligations.Dispatching : Prop :=
  (∀ (s : State) (t p : Nat), let c := coreOf t
     let x := nextX (s.core c).genX
     let d := (s.core c).decision (slotOf t)
     mayChoose s t = some p →
     (∀ k it rest, d = Decision.init → (s.core c).runCount ≠ 0 → draw x (classTickets s c p) = some k →
       (s.core c).runlist k = it :: rest → ∃ s', exec (.dispatch t) s = .next s' ∧ (s'.core c).genX = x ∧
         (s'.core c).runlist k = rest ∧ (s'.core c).starting = (s.core c).starting ++ [(slotOf t, it)] ∧
         s'.threads = s.threads ∧ s'.mem = s.mem) ∧
     (d = Decision.init → (s.core c).runCount = 0 → exec (.dispatch t) s = .next (stealStep s t p)) ∧
     (d ≠ Decision.init ∨ (s.core c).runCount = 0 → exec (.stealDecision t) s = .next (stealStep s t p)) ∧
     (nextCand s c p d = none → ((stealStep s t p).core c).decision (slotOf t) = { d with waiting := true }) ∧
     (∀ level key, nextCand s c p d = some (level, key) →
       ((stealStep s t p).core c).decision (slotOf t) = { d with level := level, asked := key :: d.asked, pending := true } ∧
       ∃ m, (stealStep s t p).net = s.net ++ [m] ∧ m.src = c ∧ m.dst = homeEp (key / 1024) ∧ m.part = p ∧
         m.req = .schedSteal (key % 16) t)) ∧
  ((∀ (x : W32), nextX x = (let a := x ^^^ (x <<< 13)
     let b := a ^^^ (a >>> 17)
     b ^^^ (b <<< 5))) ∧
   (∀ (x : W32) (cs : List (Nat × Nat)),
     let sum (l : List (Nat × Nat)) : Nat := (l.map (fun y => y.2)).sum
     (sum cs = 0 → draw x cs = cs.head?.map (fun y => y.1)) ∧
     (∀ pre k n post, cs = pre ++ (k, n) :: post → sum pre ≤ x.toNat % sum cs → x.toNat % sum cs < sum pre + n →
       draw x cs = some k)) ∧
   (∀ (s : State) (c p h k n : Nat),
     ((k, n) ∈ classTickets s c p ↔ k < 4 ∧ (s.core c).runlist k ≠ [] ∧ n = fieldOf ((s.prt p).cfReg 0x70) (8 * k) 8) ∧
     (classTickets s c p).Pairwise (fun a b => a.1 < b.1) ∧
     ((k, n) ∈ nearOffers s h ↔ ∃ y ∈ (s.home (homeEp h)).queues, y.1 = k ∧ y.2.tickets = n ∧
       takesNear s h (k / 16) = true ∧ nearChoice s h (k / 16) (k % 16) ≠ none) ∧
     ((nearOffers s h).map (fun y => y.1)).Sublist ((s.home (homeEp h)).queues.map (fun y => y.1))) ∧
   (∀ (s : State) (c p : Nat) (d : Decision),
     -- an excess `n` of the queue `key` that a thief may still ask for at level `k`
     let cand (k key n : Nat) : Prop := (key, n) ∈ s.pub ∧ 0 < n ∧ key / 16 % 64 = p ∧ stealLevel c (key / 1024) = k ∧
       d.level ≤ k ∧ ((s.prt p).det = true → k = 1) ∧ key ∉ d.asked
     (∀ h, let own : Prop := clusterAt (homeX h) (homeY h) = clusterAt (coreX c) (coreY c)
       (own → stealLevel c h = 1) ∧ (¬ own → h / 64 = coreDie c → stealLevel c h = 2) ∧
       (¬ own → h / 64 ≠ coreDie c → stealLevel c h = 3)) ∧
     (∀ k key, nextCand s c p d = some (k, key) ↔ ∃ n, cand k key n ∧ ∀ k' key' n', cand k' key' n' →
       k < k' ∨ (k = k' ∧ (n' < n ∨ (n' = n ∧ key ≤ key')))) ∧
     (nextCand s c p d = none ↔ ∀ k key n, ¬ cand k key n)) ∧
   -- the answer to a thief
   (∀ (s : State) (m : Msg) (r : Option Rec) (q h : Nat), m.req = .grant r q h → m.tok = 0 →
     let c := coreOf m.thr
     let d := (s.core c).decision (slotOf m.thr)
     d.pending = true →
     (∀ x, r = some x → ((deliver s m).core c).decision (slotOf m.thr) = Decision.init ∧
       ((deliver s m).core c).granted = (s.core c).granted ++ [(slotOf m.thr, x, q, none)]) ∧
     (r = none → ((deliver s m).core c).decision (slotOf m.thr) =
         { d with pending := false, refusals := d.refusals + 1, waiting := decide (4 ≤ d.refusals + 1) } ∧
       ((deliver s m).core c).granted = (s.core c).granted))) ∧
  (∀ (s : State) (core : Nat),
     (∀ i m x, inboxNext s core false = some (i, m) → m.req = .launch x → s.halted m.part = false → core < 1024 →
       let k := hdrPrio (Rec.header x.recd)
       (roomForLaunch s core = true → (s.core core).launchWait = [] →
         ∃ s', exec (.launchInstanceArrival core) s = .next s' ∧
           (s'.core core).runlist k = (s.core core).runlist k ++ [⟨x, none⟩] ∧ s'.mem = s.mem) ∧
       ((roomForLaunch s core = false ∨ (s.core core).launchWait ≠ []) →
         ∃ s', exec (.launchInstanceArrival core) s = .next s' ∧
           (s'.core core).launchWait = (s.core core).launchWait ++ [x] ∧ s'.mem = s.mem)) ∧
     (∀ x rest, roomForLaunch s core = true → waitingMail s core = none → (s.core core).launchWait = x :: rest →
       let k := hdrPrio (Rec.header x.recd)
       ∃ s', exec (.runlistAdmit core) s = .next s' ∧ (s'.core core).launchWait = rest ∧
         (s'.core core).runlist k = (s.core core).runlist k ++ [⟨x, none⟩] ∧ s'.mem = s.mem) ∧
     (∀ x, waitingMail s core = some x → exec (.runlistAdmit core) s = .next (placeMail s x.1 x.2)) ∧
     (roomForLaunch s core = false → waitingMail s core = none → exec (.runlistAdmit core) s = .next s) ∧
     -- the bound messages of the resident core that have still to be placed come before the waiting instances (R16)
     (∀ p, partOfCore s core = some p → (s.prt p).resident = core → (roomForLaunch s core = true ↔
       (s.core core).runCount + ((List.range 4).filter (fun m =>
         ((s.prt p).mbox m).held && ((s.prt p).mbox m).bound.isSome)).length < 32)) ∧
     ((∀ p, partOfCore s core = some p → (s.prt p).resident ≠ core) →
       (roomForLaunch s core = true ↔ (s.core core).runCount < 32)))

/-- R89, R93, R95, R189: a chosen record starts on its slot once its granules are free: at its body, in frame 0, with its
arguments in `w0` to `w7` up to ARGC, the global registers of R93, its header, its flags and its budget (R331), and
every other register, predicate, stream, port and record as R89 gives it. (In part the model's own reading or choice:
assumptions 82 and 114 of the log.) -/
def Obligations.TasksStart : Prop :=
  ∀ (s : State) (t p : Nat) (r : Rec),
    let c := coreOf t
    let y := s.core c
    (s.thr t).active = false → hdrGran (Rec.header r) ≤ granulesLeft s c → dispatches s c p = true →
    (∀ it, y.starting.find? (fun x => x.1 == slotOf t) = some (slotOf t, it) → it.inst.recd = r → it.inst.part = p →
      ∃ s', exec (.taskStart t) s = .next s' ∧ s.startedAs s' t p r [it.inst.g4, it.inst.g5, it.inst.g6, it.inst.g7] ∧
        (s'.thr t).ip = align4 (Rec.far r) ∧
        (∀ m, it.mail = some m → ((s'.prt p).mbox m).busy = false)) ∧
    (∀ q l, y.starting.find? (fun x => x.1 == slotOf t) = none →
      y.granted.find? (fun x => x.1 == slotOf t) = some (slotOf t, r, q, some l) → l.part = p →
      ∃ s', exec (.taskStart t) s = .next s' ∧ s.startedAs s' t p r [0, 0, 1, 1] ∧ (s'.thr t).ip = align4 (Rec.near r)) ∧
    (∀ q, y.starting.find? (fun x => x.1 == slotOf t) = none → partOfCore s c = some p →
      y.granted.find? (fun x => x.1 == slotOf t) = some (slotOf t, r, q, none) →
      ∃ s', exec (.taskStart t) s = .next s' ∧ s.startedAs s' t p r [0, 0, 1, 1] ∧ (s'.thr t).ip = align4 (Rec.far r))

/-- R16, R17, R351, R355, R364: the words of a host's message are staged; word 7 completes it, and it is held, or
discarded with OVERRUN where the mailbox is busy. A message takes the binding in force as it completes, or, held
while its mailbox was unbound, the one that a later store gives it; then it becomes a task on class 0 of the resident
core. MBSTAT's bits clear where 1 is written; a journalled message is placed when its count is reached. (In part the
model's own reading or choice: assumptions 55 and 101 of the log.) -/
def Obligations.Mailboxes : Prop :=
  ∀ (s : State) (p m : Nat), (s.prt p).present = true → m < 4 →
    let x := (s.prt p).mbox m
    let bound : Option W64 := if bitOf ((s.prt p).cfReg (0xE0 + m)) 63 then some ((s.prt p).cfReg (0xE0 + m)) else none
    (∀ j v, j < 7 → ∃ s', exec (.mailboxWordWrite p m j v) s = .next s' ∧ SMap.get 0#64 ((s'.prt p).mbox m).staged j = v ∧
      ((s'.prt p).mbox m).inbound = x.inbound ∧ s'.mem = s.mem) ∧
    (∀ v, ∃ s', exec (.mailboxMessageComplete p m v) s = .next s' ∧ s'.mem = s.mem ∧
      (x.busy = true → (s'.prt p).mbox m = { x with staged := [], overrun := true }) ∧
      (x.busy = false → ((s'.prt p).mbox m).held = true ∧ ((s'.prt p).mbox m).busy = true ∧
        ((s'.prt p).mbox m).bound = bound ∧ ((s'.prt p).mbox m).before = hostWrites s s.hostReq ∧ SMap.get 0#64 ((s'.prt p).mbox m).inbound 7 = v ∧
        ∀ j, j < 7 → SMap.get 0#64 ((s'.prt p).mbox m).inbound j = SMap.get 0#64 x.staged j)) ∧
    (∀ v, ∃ s', exec (.mbstatWrite p m v) s = .next s' ∧
      (s'.prt p).mbox m = { x with ready := x.ready && !v.getLsbD 0, overrun := x.overrun && !v.getLsbD 1 }) ∧
    -- the writes that a requester sent before its message are performed before the task is placed; its later ones, and
    -- those of another requester, are not waited for (R351)
    (∀ r d n, (d, n) ∈ hostWrites s r ↔
      ∃ y ∈ s.inFlight, y.src = hostEp ∧ (∃ l bs, y.req = .store l bs) ∧ y.thr = r ∧ y.dst = d ∧ y.seq = n) ∧
    (canPlace s p m = true ↔ s.halted p = false ∧ x.held = true ∧ x.bound ≠ none ∧
      (s.core (s.prt p).resident).runCount < 32 ∧ ∀ w ∈ x.before, ∀ r, w ∉ hostWrites s r) ∧
    (canPlace s p m = true → ∃ s', exec (.mailboxTaskPlace p m) s = .next s' ∧ ((s'.prt p).mbox m).held = false ∧
      s'.mem = s.mem ∧ ∃ it, (s'.core (s.prt p).resident).runlist 0 = (s.core (s.prt p).resident).runlist 0 ++ [it] ∧
        it.mail = some m ∧ it.inst.part = p ∧ Rec.header it.inst.recd = devHeader ∧
        Rec.far it.inst.recd = x.bound.getD 0#64 &&& 0x0000FFFFFFFFFFFC#64 ∧
        ∀ j, j < 8 → Rec.arg it.inst.recd j = SMap.get 0#64 x.inbound j) ∧
    (canPlace s p m = false → exec (.mailboxTaskPlace p m) s = .next s) ∧
    (∀ i v, cfHead s p = some (i, 0xE0 + m, v) →
      let s1 := (inboxTake s (mbEp p) false i).modPart p (fun q =>
        let y := q.setCf (0xE0 + m) (v &&& 0x8000FFFFFFFFFFFC#64)
        y.setMbox m (takeBinding (y.mbox m) (mbBind y m)))
      exec (.mailboxBind p) s = .next (if canPlace s1 p m then placeMail s1 p m else s1)) ∧
    (∀ y b, takeBinding y b = if y.held = true ∧ y.bound = none then { y with bound := b } else y) ∧
    (∀ e rest, (s.prt p).replay = e :: rest → e.mb = m → (s.prt p).retiredTasks < e.count.toNat →
      exec (.replayMessagePlace p) s = .next s) ∧
    (∀ e rest, (s.prt p).replay = e :: rest → e.mb = m → e.count.toNat ≤ (s.prt p).retiredTasks → x.busy = false →
      s.halted p = false → bound ≠ none → (s.core (s.prt p).resident).runCount < 32 →
      ∃ s', exec (.replayMessagePlace p) s = .next s' ∧ (s'.prt p).replay = rest ∧
        ((s'.prt p).mbox m).busy = true ∧ ∃ it, (s'.core (s.prt p).resident).runlist 0 =
          (s.core (s.prt p).resident).runlist 0 ++ [it] ∧ it.mail = some m ∧
          ∀ j, j < 8 → Rec.arg it.inst.recd j = e.words.getD j 0#64)

/-! ## Units that act of themselves -/

/-- R178, R182, R183: a DRAM bank serves the oldest request where it has waited longer than AGECAP, else the oldest of
those that hit the open row, with the last tag first; the patrol goes from line to line, and corrects or poisons what
it finds. R308, R311, R316 to R320, R322, R323: a slot passes the next station that has something to do. Every
pending read of the core reads it as it arrives; one rewrite is served, that of the lowest thread slot, with the
`sladd` of its word and type that join it, and the others wait; an EMPTY slot gives SLOT_EMPTY, a slot of another
partition SLOT_PROT, and a poisoned one SLOT_POISON, after which it is EMPTY. `slboard` fails after 1,280 ring
cycles. (In part the model's own reading or choice: assumptions 7, 38, 39 and 78 of the log.) -/
def Obligations.UnitSteps : Prop :=
  ((∀ (s : State) (h bank : Nat) (r : DramReq), let x := s.home (homeEp h)
     bankChoice (SMap.get 0 s.agecap (h / 64)) x.now (SMap.get 0 x.openRow bank) (SMap.get 0#32 x.lastTag bank)
       (bankReady x bank) = some r →
     ∃ s', exec (.dramBankSchedule h bank) s = .next s' ∧ s'.mem = s.mem ∧ (s'.home (homeEp h)).dram = x.dram.erase r ∧
       (s'.home (homeEp h)).now = x.now + (Config.freeWord (drawNat s).1).toNat ∧
       SMap.get 0 (s'.home (homeEp h)).openRow bank = r.row + 1 ∧
       SMap.get 0#32 (s'.home (homeEp h)).lastTag bank = r.tag) ∧
   (∀ (cap now row : Nat) (last : W32) (o r : DramReq) (rs : List DramReq), bankChoice cap now row last (o :: rs) = some r →
     r ∈ o :: rs ∧ (cap ≠ 0 → cap < now - o.accepted → r = o) ∧
     ((cap = 0 ∨ now - o.accepted ≤ cap) →
       ((∃ x ∈ o :: rs, x.row + 1 = row) → r.row + 1 = row) ∧
       ((∃ x ∈ o :: rs, x.row + 1 = row ∧ x.tag = last) → r.tag = last))) ∧
   (∀ (s : State) (h : Nat), h < 256 → SMap.get 0 s.scrubrate (h / 64) ≠ 0 →
     let x := s.home (homeEp h)
     let line := h * 33554432 + x.scrubPos
     ∃ s', exec (.scrubVisit h) s = .next s' ∧ s'.mem = s.mem ∧
       (s'.home (homeEp h)).scrubPos = (x.scrubPos + 1) % 33554432 ∧
       (x.logged.contains line = true → (s'.home (homeEp h)).logged.contains line = false ∧
         (s'.home (homeEp h)).ecc = x.ecc) ∧
       (x.logged.contains line = false → SMap.get 0 (s'.home (homeEp h)).ecc line = 0 ∧
         (1 < SMap.get 0 x.ecc line → (s'.home (homeEp h)).poisoned.contains line = true) ∧
         (SMap.get 0 x.ecc line ≤ 1 → (s'.home (homeEp h)).poisoned = x.poisoned)))) ∧
  ((∀ (s : State) (k pos : Nat), k < ringSize → pos < ringSize → let time := passTime s k pos
     (∀ x ∈ slTimes s, time ≤ x) → exec (.slotPassage k pos) s = .next (slPass { s with
       ringTime := time, ringDone := if time = s.ringTime then k :: s.ringDone else [k] } (ringCore pos) k time)) ∧
   (∀ (s : State) (core k time : Nat), (s.slot k).err = 0 → (∀ p, p < 48 → (s.prt p).containing = .none) →
     slPass s core k time = slServe s core k time (s.slot k) false) ∧
   (∀ (s : State) (core k time : Nat) (taken : Bool),
     let x := s.slot k
     let rs := slRequests s core k time
     let own := rs.filter (fun y => x.part == (s.thr y.1).part)
     let s' := slServe s core k time x taken
     let done (t : Nat) (a : SlRes) : Prop := (s'.thr t).wait = .slotDone a
     let full : Prop := x.state = .full
     let word (r : SlReq) : W64 := if x.state = .full then x.words.getD r.word 0#64 else 0#64
     -- the requests of the core's threads for the slot
     (∀ t r, (t, r) ∈ rs ↔ t ∈ s.coreThreads core ∧ (s.thr t).wait = .slot r ∧ r.posted < time ∧
       (slIsBoard r.kind = false → poolSlot (s.prt (s.thr t).part) r.slot = k) ∧
       (slIsBoard r.kind = true → time ≤ r.posted + 1280 ∧ inPool (s.prt (s.thr t).part) k = true)) ∧
     (rs.map (fun y => y.1)).Pairwise (fun a b => a < b) ∧
     (∀ t r, (t, r) ∈ rs → x.part ≠ (s.thr t).part → slIsBoard r.kind = false → done t (.trap 0x60 (w64 r.slot))) ∧
     -- the reads
     (∀ t r, (t, r) ∈ own → x.state ≠ .poison ∨ r.kind = .hdr →
       (r.kind = .rd false → done t (.ok [word r] (x.state == .full) 0#7)) ∧
       (r.kind = .rd true → done t (.ok (if x.state = .full then x.words else List.replicate 8 0#64) (x.state == .full) 0#7)) ∧
       (∀ b, r.kind = .wait b → (word r ≠ b → done t (.ok [word r] false 0#7)) ∧ (word r = b → (s'.thr t).wait = .slot r)) ∧
       (∀ b, r.kind = .waitRev b → let n := ringRev time % 2 ^ 16
         (n ≠ b.toNat % 2 ^ 16 → done t (.ok [w64 n] false 0#7)) ∧ (n = b.toNat % 2 ^ 16 → (s'.thr t).wait = .slot r)) ∧
       (r.kind = .hdr → done t (.ok [slotHeader k x time] false 0#7))) ∧
     -- poison
     (x.state = .poison → (∃ y ∈ own, slIsBoard y.2.kind = false ∧ y.2.kind ≠ .hdr) →
       (∀ t r, (t, r) ∈ own → slIsBoard r.kind = false → r.kind ≠ .hdr → done t (.trap 0x61 (w64 r.slot))) ∧
       (taken = false → (s'.slot k).state = .empty ∧ (s'.slot k).words = List.replicate 8 0#64 ∧
         fieldOf ((s'.prt x.part).cfReg 0xC1) 24 8 = min 255 (fieldOf ((s.prt x.part).cfReg 0xC1) 24 8 + 1) ∧
         fieldOf ((s'.prt x.part).cfReg 0xC1) 0 11 = k % 2048)) ∧
     -- the rewrites
     (x.state ≠ .poison →
       let writes := own.filter (fun y => !slIsRead y.2.kind && (!slIsBoard y.2.kind || x.state == .empty))
       (taken = true ∨ writes = [] → s'.slot k = x) ∧
       (taken = true → ∀ t r, (t, r) ∈ writes → (s'.thr t).wait = .slot r) ∧
       (∀ t r rest, taken = false → writes = (t, r) :: rest →
         let old := x.words.getD r.word 0#64
         let become (w : W64) : Prop := s'.slot k = { x with words := x.words.set r.word w }
         let noSlot : Prop := done t (.trap 0x62 (w64 r.slot)) ∧ s'.slot k = x
         let joins (q : SlReq) : Prop := q.word = r.word ∧ ∃ a b c d, r.kind = .add a b ∧ q.kind = .add c d ∧
           (a = c ∨ (a ∈ [Ty.i64, .b64] ∧ c ∈ [Ty.i64, .b64]))
         (∀ u q, (u, q) ∈ rest → ¬ joins q → (s'.thr u).wait = .slot q) ∧
         (∀ b, r.kind = .swap b → (full → done t (.ok [old] false 0#7) ∧ become b) ∧ (¬ full → noSlot)) ∧
         (∀ c b, r.kind = .cas c b →
           (full → done t (.ok [old] false 0#7) ∧ become (if old = c then b else old)) ∧ (¬ full → noSlot)) ∧
         (∀ v, r.kind = .alight v →
           (full → done t (.ok (if v then x.words else [old]) true 0#7) ∧ (s'.slot k).state = .empty ∧
             (s'.slot k).words = List.replicate 8 0#64) ∧
           (¬ full → done t (.ok (if v then List.replicate 8 0#64 else [0#64]) false 0#7) ∧ s'.slot k = x)) ∧
         (∀ ws, r.kind = .board ws → done t (.ok [w64 (k - (s.prt (s.thr t).part).poolBase)] true 0#7) ∧
           s'.slot k = { x with state := .full, words := ws }) ∧
         -- the additions that join, in ascending order of thread slot
         (∀ a b, r.kind = .add a b → let js := slJoined writes r.word a
           let after (l : List (Nat × Ty × W64)) : W64 := l.foldl (fun w j => (slAdd j.2.1 w j.2.2).2.1) old
           (∀ u c d, (u, c, d) ∈ js ↔ ∃ q, (u, q) ∈ writes ∧ joins q ∧ q.kind = .add c d) ∧
           (js.map (fun y => y.1)).Sublist (writes.map (fun y => y.1)) ∧
           (full → become (after js) ∧ ∀ pre u c d post, js = pre ++ (u, c, d) :: post →
             done u (.ok [(slAdd c (after pre) d).1] false (slAdd c (after pre) d).2.2)) ∧
           (¬ full → s'.slot k = x ∧ ∀ y ∈ js, done y.1 (.trap 0x62 (w64 r.slot))))))) ∧
   -- one addition: what its thread receives, the new word, the flags
   (∀ (old b : W64),
     slAdd .i64 old b = (old, old + b, 0#7) ∧ slAdd .b64 old b = (old, old + b, 0#7) ∧
     (let r := fAdd fmtF32 (old.toNat % 2 ^ 32) (b.toNat % 2 ^ 32)
      slAdd .f32 old b = (w64 (old.toNat % 2 ^ 32), withField old 0 32 r.1, r.2)) ∧
     (let r := fAdd fmtF56 (old.toNat % 2 ^ 56) (b.toNat % 2 ^ 56)
      slAdd .f56 old b = (old, w64 r.1, r.2))) ∧
   (∀ (s : State) (t : Nat) (r : SlReq), (s.thr t).active = true → (s.thr t).wait = .slot r → slIsBoard r.kind = true →
     (∀ x ∈ slMeets s t, r.posted + 1280 < x) → (∀ x ∈ slTimes s, r.posted + 1280 ≤ x) →
     ∃ s', exec (.slboardPoolFull t) s = .next s' ∧
       (s'.thr t).wait = .slotDone (.ok [0xFFFFFFFFFFFFFFFF#64] false 0#7) ∧ s'.slots = s.slots ∧
       s'.ringTime = max s.ringTime (r.posted + 1280) ∧ s'.mem = s.mem))

/-! ## Containment -/

/-- R338 to R341, R352, R360, R365: a failure reported for a partition starts a rollback, which stops its threads, or an
unwind; a rollback ends with the logs applied and the resident program restarted with `w0` = 1 and `w1` = INTERVAL,
an unwind with `w0` = 2 and `w1` = the agreed step; a destroyed partition is gone. (In part the model's own reading
or choice: assumptions 36, 37, 57, 59, 60, 69, 89, 119 and 132 of the log.) -/
def Obligations.Containments : Prop :=
  ∀ (s : State) (p : Nat), let x := s.prt p
    let restarted (s' : State) (w0 w1 : W64) : Prop := (s'.prt p).containing = .none ∧ (s'.prt p).discard = false ∧
      (let a := s'.thr (x.resident * 16)
       a.active = true ∧ a.part = p ∧ a.kind = .resident ∧ a.ip = align4 x.entry ∧ a.depth = 0 ∧ a.w 0 = w0 ∧ a.w 1 = w1 ∧
       a.gran = 2)
    (x.present = true → p < 48 → x.containing = .none →
      ∃ s', exec (.unitFailureReport p) s = .next s' ∧ s'.mem = s.mem ∧
        fieldOf ((s'.prt p).cfReg 0xD1) 56 8 = 0xF1 ∧
        fieldOf ((s'.prt p).cfReg 0xD1) 0 32 = (fieldOf (x.cfReg 0xD1) 0 32 + 1) % 2 ^ 32 ∧
        (x.coll = false → (s'.prt p).containing = .rollback ∧ (s'.prt p).discard = true ∧
          ∀ t, ¬ ((s'.thr t).active = true ∧ (s'.thr t).part = p)) ∧
        (x.coll = true → (s'.prt p).containing = .unwind (some x.resident) [] 0#64)) ∧
    (messagesLeft s p = true → exec (.rollbackEnd p) s = .next s) ∧
    (messagesLeft s p = false → x.containing = .rollback → ∃ s', exec (.rollbackEnd p) s = .next s' ∧
      restarted s' 1#64 (x.interval.setWidth 64) ∧ s'.mem = (applyLogs s p).mem) ∧
    (messagesLeft s p = false → x.containing = .destroy → ∃ s', exec (.rollbackEnd p) s = .next s' ∧
      s'.prt p = Part.absent ∧ s'.mgmtResp = 0#64 ∧ ∀ c, (s'.core c).stopped.contains p = false) ∧
    (∀ del step, x.containing = .unwind none del step → messagesLeft s p = false → s.partThreads p = [] →
      ∃ s', exec (.unwindEnd p) s = .next s' ∧ restarted s' 2#64 step ∧ s'.mem = s.mem) ∧
    (∀ port, port < 8 → p < 48 → x.present = true → x.coll = true → x.containing = .none →
      bitOf (x.cfReg (0x48 + port)) 63 = true → ∃ s', exec (.peerUnwindToken port) s = .next s' ∧
        (s'.prt p).containing = .unwind (some x.resident) [] 0#64 ∧ s'.mem = s.mem) ∧
    (x.present = true → p < 48 → ∃ s', exec .thermalTrip s = .next s' ∧ s'.stage = 1 ∧ (s'.prt p).containing ≠ .none ∧
      s'.mem = s.mem) ∧
    (∀ ep e, (s.home ep).log p = [e] → (applyLog s ep p).mem = s.mem.writeN (e.line * 64) e.old ∧
      ((applyLog s ep p).home ep).log p = [] ∧
      (1024 ≤ ep → ((applyLog s ep p).home ep).poisoned.contains e.line = e.bad)) ∧
    exec .powerOverCap s = .next { s with overCap := true } ∧ exec .powerBelowCap s = .next { s with overCap := false }

/-! ## Pre-emption -/

/-- R296, R342 to R347: a request taken from PREEMPT: a drain stops dispatch, and is done when its slots are free; a
stop-now also stops the named threads; a restore checks every context first, ends with the status of the lowest slot
whose context is refused, and begins where none is; a migration moves one thread that holds nothing it may not;
RESUME lets dispatch go on; a core outside the partition gives PLACE. R297, R343 to R347: how requests go on: a drain
that finds its slots free is done; a thread that is ready is saved, and its slot is free, or the save fails; its
context holds the header, the registers and the sections at their places (read back here in a page that is STRIPED or
HOMED). A context is placed once its resources are free, with the registers that it holds, their reserved fields 0,
and with what the saves that its sections name held beside them, as often as it is restored; a thread that moves has
all it had, on its new core. (In part the model's own reading or choice: assumptions 58, 62, 63, 64, 91, 97, 98, 104,
118, 124, 127, 135, 136 and 137 of the log.) -/
def Obligations.Preemption : Prop :=
  (∀ (s : State) (p i c : Nat) (v : W64), preemptHead s p = some (i, v) →
     let asks (kind : Nat) (resume : Bool) : Prop := bitOf v 57 = resume ∧ fieldOf v 58 2 = kind
     let ks := slotList { Preempt.init with slots := fieldOf v 41 16 }
     let dest := (s.prt p).coreAt (fieldOf v 30 11)
     let ends (e : Instr) (st : Nat) : Prop := ∃ s', exec e s = .next s' ∧ (s'.prt p).preempt.go = false ∧
       (s'.prt p).preempt.status = st ∧ s'.threads = s.threads ∧ s'.mem = s.mem
     let begins (e : Instr) (todo : List Nat) (after : State → Prop) : Prop := ∃ s', exec e s = .next s' ∧
       (s'.prt p).preempt.go = true ∧ (s'.prt p).preempt.status = 1 ∧ (s'.prt p).preempt.todo = todo ∧ s'.mem = s.mem ∧ after s'
     (physCore s p (fieldOf v 0 11) = none →
       (asks 0 false → ends (.preemptDrain p) 4) ∧ (asks 1 false → ends (.preemptStopNow p) 4) ∧
       (asks 2 false → ends (.preemptMigrate p) 4) ∧ (asks 3 false → ends (.preemptRestore p) 4) ∧
       (bitOf v 57 = true → ends (.preemptResume p) 4)) ∧
     (physCore s p (fieldOf v 0 11) = some c →
       (asks 0 false → begins (.preemptDrain p) ks (fun s' => dispatches s' c p = false ∧ s'.threads = s.threads)) ∧
       (asks 1 false → occupied s c p ks ≠ [] →
         begins (.preemptStopNow p) (occupied s c p ks) (fun s' => dispatches s' c p = false ∧
           ∀ k ∈ occupied s c p ks, (s'.thr (c * 16 + k)).stop ≠ 0)) ∧
       (asks 1 false → occupied s c p ks = [] → ∃ s', exec (.preemptStopNow p) s = .next s' ∧
         (s'.prt p).preempt.go = false ∧ (s'.prt p).preempt.status = 0 ∧ dispatches s' c p = false) ∧
       (asks 2 false → dest = none → ends (.preemptMigrate p) 4) ∧
       (∀ d k, asks 2 false → dest = some d → ks = [k] → isCellar c = false → occupied s c p [k] ≠ [] →
         migrateRefused (s.thr (c * 16 + k)) = false → begins (.preemptMigrate p) [k] (fun s' => s'.threads = s.threads)) ∧
       (∀ d k, asks 2 false → dest = some d → ks = [k] → migrateRefused (s.thr (c * 16 + k)) = true →
         ends (.preemptMigrate p) 2) ∧
       (let slots := ks.filter (fun k => decide (k < slotsOf c))
        (asks 3 false → slots = [] → ends (.preemptRestore p) 0) ∧
        (asks 3 false → slots ≠ [] → (∀ k ∈ slots, ctxStatus s p c k = 0) →
          begins (.preemptRestore p) slots (fun s' => s'.threads = s.threads)) ∧
        (∀ pre k post, asks 3 false → slots = pre ++ k :: post → (∀ j ∈ pre, ctxStatus s p c j = 0) →
          ctxStatus s p c k ≠ 0 → ends (.preemptRestore p) (ctxStatus s p c k))) ∧
       -- the checks of a context: FAULT 5, PLACE 4, FEATURE 3
       (∀ slot, ctxRdHeader s p c slot = none → ctxStatus s p c slot = 5) ∧
       (∀ slot pte h s1, ctxRdHeader s p c slot = some (pte, h, s1) →
         let w0 := h.getD 0 0#64
         let w3 := h.getD 3 0#64
         let version : Prop := fieldOf w0 48 16 = 1
         let mine : Prop := fieldOf w3 0 6 = p
         let feats : Prop := h.getD 2 0#64 &&& ~~~(s.prt p).accept = 0#64
         let place : Prop := bitOf w3 8 = isCellar c ∧ (isCellar c = true → fieldOf w3 16 11 = c)
         let quiet : Prop := bitOf w0 37 = true → s.coreThreads c = [] ∧ ∀ k, k < 16 → (s.core c).q k = []
         (¬ version → ctxStatus s p c slot = 5) ∧ (version → ¬ mine → ctxStatus s p c slot = 4) ∧
         (version → mine → ¬ feats → ctxStatus s p c slot = 3) ∧
         (version → mine → feats → ¬ (place ∧ quiet) → ctxStatus s p c slot = 4) ∧
         (version → mine → feats → place → quiet →
           ctxBad s1 pte (ctxVa (s.prt p) slot) h (ctxReadWords s1 p pte (ctxVa (s.prt p) slot + 64) 56) = false →
           ctxStatus s p c slot = 0)) ∧
       (bitOf v 57 = true → ∃ s', exec (.preemptResume p) s = .next s' ∧ (s'.prt p).preempt.go = false ∧
         (s'.prt p).preempt.status = 0 ∧ (s'.core c).stopped.contains p = false ∧ s'.mem = s.mem))) ∧
  (∀ (s : State) (p c n : Nat),
     let x := (s.prt p).preempt
     (physCore s p x.core = some c → x.go = true → x.kind = 0 →
       (occupied s c p (slotList x) = [] → ∃ s', exec (.drainDone p) s = .next s' ∧ (s'.prt p).preempt.go = false ∧
         (s'.prt p).preempt.status = 0 ∧ s'.threads = s.threads) ∧
       (occupied s c p (slotList x) ≠ [] → exec (.drainDone p) s = .next s)) ∧
     ((s.thr n).active = true → (s.thr n).part = p → (s.thr n).stop = 1 → x.go = true → x.kind = 1 → readyToSave s n = true →
       x.coreSlot ≠ some (slotOf n) →
       (∀ pte s1, ctxPte s p (coreOf n) (ctxVa (s.prt p) (slotOf n)) = some (pte, s1) →
         (let l := pteLoc pte (ctxVa (s.prt p) (slotOf n))
          l.attr = 2#2 → (s.home (homeEp l.home)).poisoned = [] ∧ (s.home (homeEp l.home)).ecc = []) →
         ∃ s', exec (.contextSaveComplete n) s = .next s' ∧ s'.thr n = Thread.free ∧
           ∃ y ∈ s'.saved, y.part = p ∧ y.slot = slotOf n ∧ y.thread.task = (s.thr n).task ∧ y.thread.ip = (s.thr n).ip ∧
             (∀ k, k < 8 → y.thread.closedPorts.getLsbD k = decide ((s.thr n).port k ≠ .unbound)) ∧
             y.copies = threadCopies s n ∧ y.thread.held = (s.thr n).held ∧ y.thread.streams = (s.thr n).streams ∧
             -- a claim of the engine that no instruction has used is given back (R246)
             y.engine = (if (s.core (coreOf n)).engine.holder = some n ∧ (s.thr n).wait ≠ .claimStall
               then some (s.core (coreOf n)).engine else none)) ∧
       -- what stands in the context (R345)
       (∀ pte s1, let t := s.thr n
         let va := ctxVa (s.prt p) (slotOf n)
         ctxPte s p (coreOf n) va = some (pte, s1) → ((pteLoc pte va).attr = 0#2 ∨ (pteLoc pte va).attr = 1#2) →
         p < 48 → (s.prt p).cfReg 0xD5 % 524288#64 = 0#64 → t.depth - t.low ≤ 7 → t.gran ≤ 48 → (threadCopies s n).length ≤ 32 →
         t.held.length ≤ 64 → t.streams.length ≤ 8 →
         ∃ s', exec (.contextSaveComplete n) s = .next s' ∧
           let words (off k : Nat) : W64 := (ctxReadWords s' p pte (va + off) (k + 1)).getD k 0#64
           let reg (k : Nat) : W64 := words 64 k
           fieldOf (words 0 0) 48 16 = 1 ∧ words 0 1 = t.task ∧ words 0 2 = t.featUsed ∧ fieldOf (words 0 3) 0 6 = p ∧
           bitOf (words 0 3) 8 = isCellar (coreOf n) ∧ (let i := (s.prt p).coreIndex (coreOf n)
             i < 2048 → fieldOf (words 0 3) 16 11 = i ∧ fieldOf (words 0 3) 28 4 = slotOf n) ∧
           ((List.range 24).map reg = [t.ip, t.cause, t.tval, t.eip, tstatWord t, t.tvec, t.flags.setWidth 64,
             t.livep.setWidth 64, t.lc, t.ls, t.le, t.as,
             (t.ae &&& 0xFFFFFFFFFFFFFFFE#64) ||| (if t.loopOn then 1#64 else 0#64), wstkWord t, t.wsp, t.wacc, budgetWord t, t.rver,
             cstatWord t, specWord t, migrnWord t, barWord t.bar, t.header, t.cont]) ∧
           (∀ k, k < 16 → reg (24 + k) = t.gReg k) ∧ (∀ k, k < 4 → reg (40 + k) = groupWord (t.group k)) ∧
           (∀ k, k < 8 → (reg 44).getLsbD k = decide (t.port k ≠ .unbound)) ∧ (∀ k, 45 ≤ k → k < 56 → reg k = 0#64) ∧
           (∀ k, 1 ≤ k → k < 16 → t.livep.getLsbD k = true →
             leNat (readLoc s' p (.dm (pteLoc pte (va + 508 + 4 * k))) 4) = (t.pred k).toNat) ∧
           (t.tm = true ∨ t.trapWin ≠ [] → ∀ k, k < 32 → words 576 k = SMap.get 0#64 t.trapWin k) ∧
           (∀ k, k < 24 * (t.depth - t.low) + 32 → words 1024 k = SMap.get 0#64 t.stk ((24 * t.low + k) % 256)) ∧
           (∀ r, r < 64 * t.gran → ctxRead s' p pte (va + 94208 + 128 * r) 16 = lanesBytes (t.vreg r)) ∧
           -- the sections without a layout name the save
           (∃ y ∈ s'.saved, y.part = p ∧ y.thread.task = t.task ∧ y.copies = threadCopies s n ∧ y.thread.held = t.held ∧
             y.thread.streams = t.streams ∧ (y.copies ≠ [] → words 3072 0 = w64 y.num) ∧ (t.held ≠ [] → words 5120 0 = w64 y.num) ∧
             (t.streams ≠ [] → words 20480 0 = w64 y.num) ∧ (y.engine ≠ none → words 57344 0 = w64 y.num))) ∧
       (ctxPte s p (coreOf n) (ctxVa (s.prt p) (slotOf n)) = none →
         ∃ s', exec (.contextSaveComplete n) s = .next s' ∧ (s'.thr n).active = true ∧ (s'.prt p).preempt.go = false ∧
           (s'.prt p).preempt.status = 5 ∧ s'.mem = s.mem)) ∧
     (∀ slot pte h s1, physCore s p x.core = some c → x.go = true → x.kind = 3 → x.todo.contains slot = true →
       ctxRdHeader s p c slot = some (pte, h, s1) →
       let w := ctxReadWords s1 p pte (ctxVa (s1.prt p) slot + 64) 56
       let t := c * 16 + slot
       let st := ctxStatus s p c slot
       -- a context without the core section lets the one that carries it go first
       let turn := bitOf (h.getD 0 0#64) 37 || !x.todo.any (fun k => match ctxRdHeader s p c k with
         | some (_, g, _) => bitOf (g.getD 0 0#64) 37
         | none => false)
       let engine : Prop := bitOf (h.getD 0 0#64) 39 = true →
         (s1.core c).engine.holder = none ∧ servedNext (s1.core c).engine.waiters (32 + slot) = true
       (st ≠ 0 → ∃ s', exec (.restorePlace p slot) s = .next s' ∧ (s'.prt p).preempt.go = false ∧
         (s'.prt p).preempt.status = st ∧ s'.threads = s.threads) ∧
       (st = 0 → turn = false → exec (.restorePlace p slot) s = .next s) ∧
       (st = 0 → turn = true → ctxRoom s1 t w = false → bitOf (h.getD 0 0#64) 39 = false →
         exec (.restorePlace p slot) s = .next s) ∧
       (slot < 16 → st = 0 → turn = true → ctxRoom s1 t w = true → engine → ∃ s', exec (.restorePlace p slot) s = .next s' ∧
         let y := s'.thr t
         let x (k : Nat) : W64 := w.getD k 0#64
         let code (k : Nat) : W64 := x k &&& 0xFFFFFFFFFFFFFFFC#64
         let va := ctxVa (s1.prt p) slot
         y.active = true ∧ y.part = p ∧ y.stop = 0 ∧ s'.mem = s.mem ∧
         y.ip = code 0 ∧ y.cause = x 1 &&& 0x80000000000000FF#64 ∧ y.tval = x 2 ∧ y.eip = code 3 ∧ y.tm = (x 4).getLsbD 0 ∧
         y.ptm = (x 4).getLsbD 1 ∧ y.tstatG = w32 (fieldOf (x 4) 32 32) ∧ y.tvec = code 5 ∧ y.flags = (x 6).setWidth 7 ∧
         y.livep = (x 7).setWidth 16 &&& 0xFFFE#16 ∧ y.lc = x 8 ∧ y.ls = code 9 ∧ y.le = code 10 ∧ y.as = code 11 ∧
         y.ae = code 12 ∧ y.loopOn = (x 12).getLsbD 0 ∧ y.depth = fieldOf (x 13) 0 16 ∧ y.low = fieldOf (x 13) 16 16 ∧
         y.wsp = x 14 ∧ y.wacc = x 15 &&& waccMask ∧ y.budEn = (x 16).getLsbD 63 ∧ y.budRem = fieldOf (x 16) 0 42 ∧
         y.rver = x 17 ∧ y.oobcnt = fieldOf (x 18) 56 8 ∧ y.specOn = (x 19).getLsbD 63 ∧
         y.migCount = w32 (fieldOf (x 20) 32 32) ∧ y.migCore = (s.prt p).coreIndex c ∧
         y.bar.valid = (x 21).getLsbD 63 ∧ y.bar.bar = fieldOf (x 21) 8 7 ∧ y.bar.gen = (x 21).setWidth 8 ∧
         ((x 21).getLsbD 62 = true → y.bar.done = true) ∧
         y.header = x 22 ∧ y.cont = x 23 ∧ (∀ k, k < 16 → y.gReg k = x (24 + k)) ∧ y.gran = fieldOf (x 39) 0 8 ∧
         (∀ k, k < 4 → (y.group k).out = fieldOf (x 18) (16 + 8 * k) 8 ∧ (y.group k).ecode = fieldOf (x (40 + k)) 52 4 ∧
           (y.group k).epos = fieldOf (x (40 + k)) 32 20 ∧ (y.group k).err = (x 18).getLsbD (48 + k)) ∧
         y.closedPorts = x 44 ∧ (∀ k, k < 8 → y.port k = .unbound) ∧
         -- the predicates, the windows, the vectors
         (∀ k, 1 ≤ k → k < 16 → y.pred k = if (x 7).getLsbD k
           then w32 (leNat (readLoc s1 p (.dm (pteLoc pte (va + 508 + 4 * k))) 4)) else 0#32) ∧
         (bitOf (h.getD 0 0#64) 33 = true → ∀ k, k < 32 →
           SMap.get 0#64 y.trapWin k = (ctxReadWords s1 p pte (va + 576) 32).getD k 0#64) ∧
         (bitOf (h.getD 0 0#64) 33 = false → y.trapWin = []) ∧
         (∀ k, k < min 248 (24 * (y.depth - y.low) + 32) → SMap.get 0#64 y.stk ((24 * y.low + k) % 256) =
           (ctxReadWords s1 p pte (va + 1024) (k + 1)).getD k 0#64) ∧
         (∀ r, r < 64 * y.gran → lanesBytes (y.vreg r) = ctxRead s1 p pte (va + 94208 + 128 * r) 16) ∧
         -- what the saves that its sections name kept of the thread beside the words; the saves stay for another restore
         (let marked (k : Nat) : Prop := bitOf (h.getD 0 0#64) (32 + k) = true
          let named (off : Nat) : Option SavedCtx := s1.saved.find? (fun z => z.part == p &&
            w64 z.num == (ctxReadWords s1 p pte (va + off) 1).getD 0 0#64)
          (∀ z, wordsSave s1 p (h.getD 1 0#64) w = some z → y.live = z.thread.live ∧ y.fences = z.thread.fences) ∧
          (∀ z, marked 3 → named 3072 = some z →
            s'.engine (copyEngineOf c) = s.engine (copyEngineOf c) ++ z.copies.map (resumeCopy t)) ∧
          (¬ marked 3 → s'.engine (copyEngineOf c) = s.engine (copyEngineOf c)) ∧
          (∀ z, marked 4 → named 5120 = some z → y.held.length = z.thread.held.length) ∧ (¬ marked 4 → y.held = []) ∧
          (∀ z q, marked 5 → named 15360 = some z → z.queues = some q →
            (s'.core c).queues = q.queues ∧ (s'.core c).bars = q.bars ∧ s'.barSet c = q.barSet) ∧
          (∀ z, marked 6 → named 20480 = some z → y.streams = z.thread.streams) ∧ (¬ marked 6 → y.streams = []) ∧
          (∀ z e, marked 7 → named 57344 = some z → z.engine = some e →
            ∃ ws, (s'.core c).engine = { e with holder := some t, waiters := ws }) ∧
          (∀ z ∈ s1.saved, ∃ z' ∈ s'.saved, z'.num = z.num ∧ z'.part = z.part ∧ z'.thread = z.thread ∧ z'.copies = z.copies ∧
            z'.engine = z.engine ∧ z'.queues = z.queues)))) ∧
     (∀ slot, physCore s p x.core = some c → x.go = true → x.kind = 3 → x.todo.contains slot = true →
       ctxRdHeader s p c slot = none → ∃ s', exec (.restorePlace p slot) s = .next s' ∧ (s'.prt p).preempt.go = false ∧
         (s'.prt p).preempt.status = 5 ∧ s'.threads = s.threads) ∧
     (∀ d k new, physCore s p x.core = some c → (s.prt p).coreAt x.dest = some d → x.todo = [k] → k < 16 → c ≠ d →
       x.go = true → x.kind = 2 → occupied s c p [k] ≠ [] → let t := c * 16 + k
       migrateRefused (s.thr t) = false → (s.thr t).wait.landed = false → (s.thr t).stop = 0 →
       moveSlot s d = some new → moveRoom s t d = true → ∃ s', exec (.liveMigrationMove p) s = .next s' ∧
         s'.thr t = Thread.free ∧
         -- all the thread had: its registers, loop, traps and flags, what it is owed, its landing buffer, its held messages
         -- and its streams; an instruction that waits begins anew
         s'.thr new = { s.thr t with
           migCount := (s.thr t).migCount + 1#32, migCore := (s.prt p).coreIndex d, moved := true, yieldAt := [],
           held := (s.thr t).held.map (moveHeld d new), wait := .none, pre := [], word := none, half := none, outTaken := false } ∧
         ((s.core c).engine.holder = some t → (s.thr t).wait ≠ .claimStall →
           (s'.core d).engine = { (s.core c).engine with holder := some new, waiters := (s.core d).engine.waiters }) ∧
         -- an unused claim of the engine is given back; what the thread is owed comes through the old core (R246, R297)
         ((s.thr t).wait = .claimStall → (s'.core c).engine.holder ≠ some t ∧ (s'.core d).engine.holder = (s.core d).engine.holder) ∧
         (owedBehind s t = true → (∃ f ∈ (s'.core c).fwd, f.task = (s.thr t).task ∧ f.newThr = new)) ∧
         (∀ (e i : Nat) (k : Copy), (s.engine e)[i]? = some k → k.thr = t → k.task = (s.thr t).task → k.part = p →
           (s'.engine e)[i]? = some { k with thr := new, via := c :: k.via }) ∧
         (s'.prt p).preempt.status = 0 ∧ (s'.prt p).preempt.go = false ∧ s'.mem = s.mem))

/-! ## From outside the package -/

/-- R166, R299, R300, R353, R361: what hosts and peers ask. A host access through a window, of up to 512 bytes written or
4,096 read, leaves for the home of its place, or in two pieces where it crosses a granule; a read completes when all
of it has come; a refused one is counted in HPERR, and a read then completes with all ones; one outside every window
completes as unsupported and changes nothing. A peer's access is performed at its home and answered; a store on the
index address is taken as a remote enqueue, whose pull ends with the record queued; a peer's own pull is answered
with the record that the partition exports, or dropped. R353 to R355, R357: the requests of a host to the BARs. A
read of BAR0 completes with the word of its place, a write sets a request word, rings DOORBELL, stages a word of a
message, completes it, or clears bits of MBSTAT, and is ignored elsewhere; BAR2 is the windows; what is not 8 bytes,
aligned, within BAR0, or what no window of BAR2 holds, completes as unsupported and changes nothing. R342, R356 to
R358, R363, R365: the other commands. ATTEST reports the digests of ROM, firmware, FEAT0, and of a partition's CREATE
words and image as loaded, and the nonce, and signs them; FWUPDATE keeps an image for the next reset; a command that
the stage reached does not offer answers STAGE, and none is taken while a DESTROY is in work. (In part the model's
own reading or choice: assumptions 3, 65, 66, 67, 71, 72, 100, 105 and 140 of the log.) -/
def Obligations.OutsideRequests : Prop :=
  (∀ (s : State) (p port off : Nat) (v va : W64),
     (∀ w n (bs : List Byte), windowAt s off n = some w → bs.length = n → 1 ≤ n → n ≤ 4096 →
       let a := w.va + (off - w.off)
       let k := 4096 - a % 4096
       let fits (l : DmLoc) (i : Nat) : Prop := l.attr = 2#2 → l.off + i ≤ sparseLimit
       let load (s : State) (l : DmLoc) (i : Nat) : State :=
         { s with nextId := s.nextId + 1 }.inject (hostMsg w.part 0 l s.nextId (.load (.dm l) i))
       let store (s : State) (l : DmLoc) (d : List Byte) : State := s.inject (hostMsg w.part s.hostReq l 0 (.store (.dm l) (d.map some)))
       -- in one granule of 4 KiB
       (∀ l, n ≤ k → walkVa s w.part a = some l → fits l n →
         exec (.hostDmRead ⟨off, n⟩) s = .next { load s l n with hostReads := s.hostReads ++ [[⟨s.nextId, none⟩]] } ∧
         (n ≤ 512 → w.wr = true → l.wr = true → exec (.hostDmWrite off bs) s = .next (store s l bs)) ∧
         (n ≤ 512 → (w.wr = false ∨ l.wr = false) → exec (.hostDmWrite off bs) s = .next (s.modPart w.part hperr))) ∧
       -- across two
       (∀ l1 l2, k < n → walkVa s w.part a = some l1 → walkVa s w.part (a + k) = some l2 → fits l1 k → fits l2 (n - k) →
         exec (.hostDmRead ⟨off, n⟩) s = .next { load (load s l1 k) l2 (n - k) with
           hostReads := s.hostReads ++ [[⟨s.nextId, none⟩, ⟨s.nextId + 1, none⟩]] } ∧
         (n ≤ 512 → w.wr = true → l1.wr = true → l2.wr = true →
           exec (.hostDmWrite off bs) s = .next (store (store s l1 (bs.take k)) l2 (bs.drop k)))) ∧
       ((walkVa s w.part a = none ∨ (k < n ∧ walkVa s w.part (a + k) = none)) →
         exec (.hostDmRead ⟨off, n⟩) s = .next ((s.modPart w.part hperr).complete (.data (List.replicate n 0xFF#8))) ∧
         (n ≤ 512 → exec (.hostDmWrite off bs) s = .next (s.modPart w.part hperr)))) ∧
     (∀ n, (windowAt s off n = none ∨ n = 0 ∨ 4096 < n) → exec (.hostDmRead ⟨off, n⟩) s = .next (s.complete .unsupported)) ∧
     (∀ bs : List Byte, (windowAt s off bs.length = none ∨ bs = [] ∨ 512 < bs.length) →
       exec (.hostDmWrite off bs) s = .next (s.complete .unsupported)) ∧
     (∀ c, s.complete c = { s with completions := s.completions ++ [c] }) ∧
     -- the answer to a part of a read: the read completes once no other part is still to come
     (∀ (m : Msg) (l : Loc) (n : Nat) (bs : List Byte) (a : W64) (pre post : List HostPart), m.src = hostEp → m.req = .load l n →
       s.hostReads = [pre ++ ⟨m.tok, none⟩ :: post] → (∀ x ∈ pre ++ post, x.tok ≠ m.tok) →
       let data (d : List Byte) : List Byte := pre.flatMap (fun x => x.got.getD []) ++ d ++ post.flatMap (fun x => x.got.getD [])
       ((∀ x ∈ pre ++ post, x.got ≠ none) →
         s.answer m (.bytes bs) = { s with hostReads := [] }.complete (.data (data bs)) ∧
         s.answer m (.refusal a) =
           ({ s with hostReads := [] }.modPart m.part hperr).complete (.data (data (List.replicate n 0xFF#8)))) ∧
       ((∃ x ∈ pre ++ post, x.got = none) →
         s.answer m (.bytes bs) = { s with hostReads := [pre ++ ⟨m.tok, some bs⟩ :: post] })) ∧
     (portBound s p port = true → port < 8 →
       (isTail s p port va = true →
         exec (.remoteEnqueueIndex p port va v) s = .next { s with pulls := s.pulls ++ [(p, port, v)] } ∧
         exec (.peerMemoryRequest p port (.store va (wordBytes v))) s =
           .next { s with pulls := s.pulls ++ [(p, port, v)], peerSent := s.peerSent ++ [(p, port, .done)] }) ∧
       -- what is answered to a peer's accesses, and what they do
       (let asked (r : PeerReq) (s' : State) (a : PeerReply) : Prop :=
          exec (.peerMemoryRequest p port r) s = .next { s' with peerSent := s'.peerSent ++ [(p, port, a)] }
        -- the place of n bytes, or none
        let place (va n : Nat) (write : Bool) (l : DmLoc) : Prop := walkVa s p va = some l ∧ va % n = 0 ∧
          (write = true → l.wr = true) ∧ frameOk s p l = true
        let noPlace (va n : Nat) (write : Bool) : Prop := walkVa s p va = none ∨ va % n ≠ 0 ∨ ∃ l, walkVa s p va = some l ∧
          ((write = true ∧ l.wr = false) ∨ frameOk s p l = false)
        let a := va.toNat
        (∀ bs, ¬ (bs.length = 8 ∧ isTail s p port va = true) →
          (∀ l, place a bs.length true l →
            ((s.prt p).discard = true → asked (.store va bs) s .done) ∧
            ((s.prt p).discard = false → l.attr ≠ 2#2 → asked (.store va bs) (writeLoc s p (.dm l) (bs.map some)) .done)) ∧
          (noPlace a bs.length true → asked (.store va bs) s .error)) ∧
        (∀ n, (∀ l, place a n false l →
            (locBad s (.dm l) n = false → asked (.load va n) s (.bytes (readLoc s p (.dm l) n))) ∧
            (locBad s (.dm l) n = true → asked (.load va n) s .poison)) ∧
          (noPlace a n false → asked (.load va n) s .error)) ∧
        (∀ b cmp, ∀ op ∈ [AtOp.addI64, .addI32, .casB64, .casB32],
          (noPlace a (atBytes op) true → asked (.atomic op va b cmp) s .error) ∧
          (∀ l, place a (atBytes op) true l →
            (l.attr = 2#2 → asked (.atomic op va b cmp) s .error) ∧
            (l.attr ≠ 2#2 → (s.prt p).discard = false → locBad s (.dm l) (atBytes op) = false →
              let x := atomicStep op (readLoc s p (.dm l) (atBytes op)) b cmp
              asked (.atomic op va b cmp) (writeLoc s p (.dm l) (x.2.1.map some)) (.word x.1 x.2.2)))) ∧
        -- the records that this partition exports (R300)
        (let e := (s.prt p).cfReg (0xA0 + port)
         let at_ := fieldOf e 7 41 * 128 + 128 * v.toNat
         ((e.getLsbD 63 = false ∨ fieldOf e 48 15 ≤ v.toNat) → asked (.pull v) s .dropped) ∧
         (e.getLsbD 63 = true → v.toNat < fieldOf e 48 15 →
           (∀ l, place at_ 128 false l → locBad s (.dm l) 128 = false → asked (.pull v) s (.bytes (readLoc s p (.dm l) 128))) ∧
           (noPlace at_ 128 false → asked (.pull v) s .error))))) ∧
     (∀ x, s.pulls.find? (fun y => y.1 == p && y.2.1 == port) = some x → (s.prt p).present = true → port < 8 →
       let s1 := { s with pulls := s.pulls.erase x }
       exec (.remoteRecordPull p port none) s = .next (s1.modPart p remerr) ∧
       (∀ ws, recordTarget s p ((List.range 16).map (fun k => ws.getD k 0#64)) = none →
         exec (.remoteRecordPull p port (some ws)) s = .next (s1.modPart p remerr)) ∧
       (∀ ws tgt, recordTarget s p ((List.range 16).map (fun k => ws.getD k 0#64)) = some tgt →
         ∃ s' m, exec (.remoteRecordPull p port (some ws)) s = .next s' ∧ s'.pulls = s.pulls.erase x ∧ s'.net = s.net ++ [m] ∧
           m.src = peerEp port ∧ m.dst = homeEp tgt.home ∧ m.part = p ∧ (tgt.block = none →
             m.req = .record ((List.range 16).map (fun k => ws.getD k 0#64)) false)))) ∧
  (∀ (s : State) (rest : List Turn) (r off p m k : Nat) (v : W64),
     let s0 : State := { s with agenda := rest }
     -- a write says which requester sent it (R351)
     let sr : State := { s0 with hostReq := r }
     let b := 0x100000 + 0x1000 * p + 0x100 * m
     let x := (s.prt p).mbox m
     let reads (o : Nat) (w : W64) : Prop := s.agenda = .hostRead 0 o 8 :: rest → step s = .next (s0.complete (.data (wordBytes w)))
     let writes (o : Nat) (a : Host.Outcome State Fault Refusal) : Prop := s.agenda = .hostWrite r 0 o (wordBytes v) :: rest → step s = a
     (k < 128 → reads (8 * k) (SMap.get 0#64 s.mgmtReq k) ∧ reads (0x400 + 8 * k) (s.mgmtResult.getD k 0#64) ∧
       writes (8 * k) (.next { sr with mgmtReq := SMap.set 0#64 s.mgmtReq k v }) ∧ writes (0x400 + 8 * k) (.next sr)) ∧
     reads 0x800 (if mgmtFree s = true then 0#64 else 1#64) ∧ reads 0x808 s.mgmtResp ∧
     reads 0x810 (w64 (s.stage + (if s.recovery then 256 else 0))) ∧ writes 0x808 (.next sr) ∧ writes 0x810 (.next sr) ∧
     (p < 48 → m < 4 →
       (k < 8 → reads (b + 8 * k) 0#64 ∧ reads (b + 0x40 + 8 * k) (SMap.get 0#64 x.outbound k) ∧
         writes (b + 0x40 + 8 * k) (.next sr)) ∧
       reads (b + 0x80) (w64 ((if x.busy then 4 else 0) + (if x.overrun then 2 else 0) + (if x.ready then 1 else 0))) ∧
       (k < 7 → writes (b + 8 * k) (exec (.mailboxWordWrite p m k v) sr)) ∧
       writes (b + 0x38) (exec (.mailboxMessageComplete p m v) sr) ∧ writes (b + 0x80) (exec (.mbstatWrite p m v) sr)) ∧
     -- DOORBELL runs the command of word 0
     (v ≠ 1#64 → writes 0x800 (.next sr)) ∧
     (∀ c ∈ [(0x01, Instr.attest), (0x02, Instr.fwupdate), (0x03, Instr.zero), (0x04, Instr.status), (0x10, Instr.create),
         (0x11, Instr.destroy), (0x12, Instr.grant), (0x13, Instr.keyshare), (0x14, Instr.peerbind), (0x15, Instr.preempt),
         (0x16, Instr.powercap), (0x17, Instr.frames), (0x18, Instr.tune), (0x20, Instr.replay)],
       v = 1#64 → (SMap.get 0#64 s.mgmtReq 0).toNat = c.1 →
       writes 0x800 (exec (c.2 ((List.range 128).map (fun j => SMap.get 0#64 s.mgmtReq j))) sr)) ∧
     -- BAR2, and what the device does not allow
     (∀ n, s.agenda = .hostRead 2 off n :: rest → step s = exec (.hostDmRead ⟨off, n⟩) s0) ∧
     (∀ bs, s.agenda = .hostWrite r 2 off bs :: rest → step s = exec (.hostDmWrite off bs) sr) ∧
     (∀ bar size, bar ≠ 0 ∧ bar ≠ 2 ∨ (bar = 0 ∧ (size ≠ 8 ∨ off % 8 ≠ 0 ∨ 2 ^ 22 ≤ off)) →
       (s.agenda = .hostRead bar off size :: rest → step s = .next (s0.complete .unsupported)) ∧
       (∀ bs : List Byte, bs.length = size → s.agenda = .hostWrite r bar off bs :: rest → step s = .next (sr.complete .unsupported)))) ∧
  (∀ (s : State) (ws : List W64), mgmtFree s = true → s.recovery = false → s.stage = 3 →
     let gives (e : Instr) (st : Nat) (after : State → Prop) : Prop := ∃ s', exec e s = .next s' ∧ s'.mgmtResp = w64 st ∧
       s'.mem = s.mem ∧ s'.threads = s.threads ∧ after s'
     (let p := (reqW ws 5).toNat
      (p = 63 ∨ (p < 48 ∧ (s.prt p).present = true) → gives (.attest ws) 0 (fun s' => ∀ j, j < 32 →
        s'.hostMem.read ((reqW ws 6).toNat + 384 + j) =
          (wordsBytes ((List.range 4).map (fun k => reqW ws (1 + k)))).getD j 0#8)) ∧
      let fw := if s.firmware = [] then Config.shippedFirmware else s.firmware
      (p = 63 ∨ (p < 48 ∧ (s.prt p).present = true) → gives (.attest ws) 0 (fun s' => ∀ j, j < 64 →
        let at_ (o : Nat) (bs : List Byte) : Prop := s'.hostMem.read ((reqW ws 6).toNat + o + j) = (shake256 bs).getD j 0#8
        at_ 64 Config.rom ∧ at_ 128 fw ∧ at_ 192 (wordBytes feat0) ∧
        (p ≠ 63 → at_ 256 (wordsBytes (s.prt p).created) ∧ at_ 320 (s.prt p).image))) ∧
      -- the signature, under the key of the firmware's measurement, over everything before it
      (p = 63 ∨ (p < 48 ∧ (s.prt p).present = true) → gives (.attest ws) 0 (fun s' => ∃ no, ∀ j, j < 1280 →
        s'.hostMem.read ((reqW ws 6).toNat + 416 + j) =
          Config.falconSign (Config.signingKey (shake256 fw)) (s'.hostMem.readN (reqW ws 6).toNat 416) no j)) ∧
      (p ≠ 63 → (48 ≤ p ∨ (s.prt p).present = false) → gives (.attest ws) 7 (fun s' => s'.hostMem = s.hostMem))) ∧
     gives (.fwupdate ws) 0 (fun s' => s'.fwPending = some (s.hostMem.readN (reqW ws 1).toNat (reqW ws 2).toNat) ∧
       s'.firmware = s.firmware) ∧
     gives (.status ws) 0 (fun s' => s'.mgmtResult.head? = some (w64 s.stage)) ∧
     (let p := (reqW ws 1).toNat
      let n := (reqW ws 2).toNat
      let q := (reqW ws 3).toNat
      p < 48 → (s.prt p).present = true → n < 8 → q < 48 →
        (s.disabled.contains (unitPeer n) = false →
          gives (.peerbind ws) 0 (fun s' => (s'.prt p).cfReg (0x48 + n) = w64 (2 ^ 63 + q))) ∧
        (s.disabled.contains (unitPeer n) = true → gives (.peerbind ws) 4 (fun s' => s'.parts = s.parts))) ∧
     (let p := (reqW ws 1).toNat
      p < 48 → (s.prt p).present = true → (s.prt p).preempt.go = false → gives (.preempt ws) 0 (fun s' =>
        ∃ m, (s'.home (mbEp p)).router = (s.home (mbEp p)).router ++ [m] ∧ m.part = p ∧ m.req = .cfWrite 0xD4 (reqW ws 2))) ∧
     gives (.powercap ws) 0 (fun s' => s'.powerCap = (reqW ws 1).toNat) ∧
     (let d := fieldOf (reqW ws 1) 0 2
      gives (.tune ws) 0 (fun s' =>
        SMap.get 0 s'.agecap d = (if bitOf (reqW ws 1) 8 then fieldOf (reqW ws 2) 0 32 else SMap.get 0 s.agecap d) ∧
        SMap.get 0 s'.scrubrate d = (if bitOf (reqW ws 1) 9 then fieldOf (reqW ws 3) 0 20 else SMap.get 0 s.scrubrate d) ∧
        SMap.get 0 s'.imbal d = (if bitOf (reqW ws 1) 10 then fieldOf (reqW ws 4) 0 16 else SMap.get 0 s.imbal d))) ∧
     (∀ s2 : State, mgmtFree s2 = true → s2.stage ≠ 3 → ∀ e ∈ [Instr.create ws, .destroy ws, .grant ws, .keyshare ws,
         .peerbind ws, .preempt ws, .powercap ws, .frames ws, .tune ws, .replay ws],
       exec e s2 = .next (s2.resp 6 [])) ∧
     (∀ s2 : State, mgmtFree s2 = false → ∀ e ∈ [Instr.attest ws, .fwupdate ws, .zero ws, .status ws, .create ws, .destroy ws,
         .grant ws, .keyshare ws, .peerbind ws, .preempt ws, .powercap ws, .frames ws, .tune ws, .replay ws],
       exec e s2 = .next s2))

/-- R356 to R358, R360, R362 to R365: the commands of the management channel that make and unmake what partitions have:
CREATE checks in its order, an image that host memory does not deliver among them, and starts the resident program;
DESTROY stops everything; ZERO, FRAMES, KEYSHARE and GRANT. What the classes of CREATE refuse (R360): the fields of
its words; a value out of its range; a rectangle that R11 forbids, an id or a cluster in use, a disabled cluster; a
feature that the device does not offer, or an option whose feature is not accepted; too little SRAM, slots that are
not free, too few striped blocks, no frame for a table. (In part the model's own reading or choice: assumptions 4,
13, 60, 68 and 99 of the log.) -/
def Obligations.PartitionCommands : Prop :=
  (∀ (s : State) (ws : List W64), mgmtFree s = true → s.recovery = false → s.stage = 3 →
     let gives (e : Instr) (st : Nat) (after : State → Prop) : Prop := ∃ s', exec e s = .next s' ∧ s'.mgmtResp = w64 st ∧ after s'
     (let a := createArgs ws
      let pt := createPart a
      (createRange a = false → gives (.create ws) 7 (fun s' => s'.parts = s.parts)) ∧
      (createRange a = true → createShape s a = false → gives (.create ws) 2 (fun s' => s'.parts = s.parts)) ∧
      (createRange a = true → createShape s a = true → createFeat a = false →
        gives (.create ws) 3 (fun s' => s'.parts = s.parts)) ∧
      (createRange a = true → createShape s a = true → createFeat a = true → createPlan s a pt = none →
        gives (.create ws) 4 (fun s' => s'.parts = s.parts)) ∧
      (∀ plan, createRange a = true → createShape s a = true → createFeat a = true → createPlan s a pt = some plan →
        (s.hostReadFails = true ∨ splitImage (s.hostMem.readN a.image a.imageLen) = none) →
        gives (.create ws) 5 (fun s' => s'.parts = s.parts ∧ s'.mem = s.mem)) ∧
      (∀ plan body fulls, createRange a = true → createShape s a = true → createFeat a = true → createPlan s a pt = some plan →
        s.hostReadFails = false → splitImage (s.hostMem.readN a.image a.imageLen) = some (body, fulls) → a.load + body.length ≤ a.pages * 2 ^ 21 →
        (∀ k ∈ fulls, k < a.size) → gives (.create ws) 0 (fun s' => (s'.prt a.id).present = true ∧
          (s'.prt a.id).accept = a.accept ∧ (s'.prt a.id).containing = .none ∧ (s'.prt a.id).cfReg 0x70 = 0x10101010#64 ∧
          (s'.prt a.id).interval = 0#32 ∧ let t := s'.thr (pt.resident * 16)
            t.active = true ∧ t.part = a.id ∧ t.ip = align4 a.entry ∧ t.w 0 = 0#64 ∧ t.w 1 = 0#64))) ∧
     (let p := (reqW ws 1).toNat
      (p < 48 → (s.prt p).present = true → ∃ s', exec (.destroy ws) s = .next s' ∧ (s'.prt p).containing = .destroy ∧
        (s'.prt p).keyAlive = false ∧ (∀ t, ¬ ((s'.thr t).active = true ∧ (s'.thr t).part = p)) ∧ s'.mem = s.mem) ∧
      ((48 ≤ p ∨ (s.prt p).present = false) → gives (.destroy ws) 7 (fun s' => s'.parts = s.parts))) ∧
     gives (.zero ws) 0 (fun s' => ∀ a, s'.mem.read a = if ownedByte s a then s.mem.read a else 0#8) ∧
     (let w := reqW ws 1
      let d := fieldOf (reqW ws 2) 0 2
      let n := fieldOf (reqW ws 2) 32 8
      ∀ o, framesOwner s w = some o → 0 < n → n < 128 → bitOf w 16 = false →
        (mayOwn s o d = false → gives (.frames ws) 7 (fun s' => s'.blockOwner = s.blockOwner ∧ s'.chanOwner = s.chanOwner)) ∧
        (mayOwn s o d = true → bitOf w 17 = true →
        let ms := if s.degraded d then [] else lowest n (blockFree s d)
        (ms.length < n → gives (.frames ws) 4 (fun s' => s'.blockOwner = s.blockOwner)) ∧
        (n ≤ ms.length → gives (.frames ws) 0 (fun s' => s'.mgmtResult = w64 n :: ms.map (fun m => w64 (64 * m)) ∧
          ∀ m ∈ ms, SMap.get Owner.nobody s'.blockOwner (d * 1024 + m) = o)))) ∧
     (∀ p d, mayOwn s (.part p) d = (s.prt p).dies.contains d) ∧
     (let k := fieldOf (reqW ws 1) 0 6
      let n := fieldOf (reqW ws 1) 8 4
      let ps := (List.range n).map (fun i => fieldOf (reqW ws (2 + i)) 0 6)
      let new := ps.foldl (fun l p => if l.contains p then l else l ++ [p]) (SMap.get [] s.keys k)
      k ≠ 0 → n ≠ 0 → n ≤ 8 → (∀ p ∈ ps, (s.prt p).present = true) →
        (new.length ≤ 8 → gives (.keyshare ws) 0 (fun s' => SMap.get [] s'.keys k = new)) ∧
        (8 < new.length → gives (.keyshare ws) 4 (fun s' => s'.keys = s.keys))) ∧
     (let p := fieldOf (reqW ws 1) 0 6
      let off := (reqW ws 2).toNat
      let len := (reqW ws 3).toNat
      let va := (reqW ws 4).toNat
      (s.prt p).present = true → p < 48 → off % 2097152 = 0 → len % 2097152 = 0 → off + len ≤ 2 ^ 36 → bitOf (reqW ws 1) 9 = false →
        va % 2097152 = 0 → (∀ x ∈ s.windows, off + len ≤ x.off ∨ x.off + x.len ≤ off) →
        gives (.grant ws) 0 (fun s' => s'.windows = ⟨p, off, len, va, bitOf (reqW ws 1) 8⟩ :: s.windows)) ∧
     (let cws := ws.drop 2
      let n := (reqW ws 2).toNat
      ((reqW ws 1).toNat % 4096 ≠ 0 ∨ n = 0 ∨ 8192 < n ∨ (createArgs cws).det = false → gives (.replay ws) 7 (fun s' => s'.parts = s.parts)) ∧
      ((reqW ws 1).toNat % 4096 = 0 → n ≠ 0 → n ≤ 8192 → (createArgs cws).det = true → (createCmd s cws).mgmtResp = 0#64 →
        gives (.replay ws) 0 (fun s' => ((s'.prt (createArgs cws).id).replay).length = n)))) ∧
  (∀ (s : State) (ws : List W64),
     let a := createArgs ws
     let pt := createPart a
     let w (k : Nat) := reqW ws k
     (a.id = ((w 1).extractLsb' 0 6).toNat ∧ a.cx = ((w 1).extractLsb' 8 3).toNat ∧ a.cy = ((w 1).extractLsb' 12 3).toNat ∧
       a.lw = ((w 1).extractLsb' 16 2).toNat ∧ a.lh = ((w 1).extractLsb' 20 2).toNat ∧ a.coll = (w 1).getLsbD 24 ∧
       a.det = (w 1).getLsbD 25 ∧ a.jrnl = (w 1).getLsbD 26 ∧ a.hgrant = (w 1).getLsbD 27 ∧
       a.spq = ((w 2).extractLsb' 0 16).toNat ∧ a.base = ((w 2).extractLsb' 32 11).toNat ∧
       a.size = ((w 2).extractLsb' 48 11).toNat ∧ a.seed = (w 3).extractLsb' 0 32 ∧ a.accept = w 4 ∧
       a.unwslot = ((w 5).extractLsb' 0 11).toNat ∧ a.image = (w 6).toNat ∧ a.imageLen = (w 7).toNat ∧ a.load = (w 8).toNat ∧
       a.entry = w 9 ∧ a.pages = (w 10).toNat ∧ a.jaddr = w 11) ∧
     (createRange a = false ↔ 48 ≤ a.id ∨ a.pages = 0 ∨ 8190 < a.pages ∨ 1280 < a.base + a.size ∨
       (a.coll = true ∧ a.size ≤ a.unwslot) ∨ (a.jrnl = true ∧ a.jaddr.toNat % 4096 ≠ 0)) ∧
     (createShape s a = false ↔ a.cx % 2 ^ a.lw ≠ 0 ∨ a.cy % 2 ^ a.lh ≠ 0 ∨ 8 < a.cx + 2 ^ a.lw ∨ 8 < a.cy + 2 ^ a.lh ∨
       (s.prt a.id).present = true ∨ ∃ x y, a.cx ≤ x ∧ x < a.cx + 2 ^ a.lw ∧ a.cy ≤ y ∧ y < a.cy + 2 ^ a.lh ∧
         ((∃ p ∈ s.partitions, (s.prt p).hasTile (4 * x) (4 * y) = true) ∨
          (∃ i j, i < 4 ∧ j < 4 ∧ (4 * y + j) * 32 + 4 * x + i ∈ s.disabled) ∨
          (∃ i, i < 4 ∧ cellarAt (4 * x + i) (4 * y + 1) ∈ s.disabled))) ∧
     (createFeat a = false ↔ (∃ k, 8 ≤ k ∧ a.accept.getLsbD k = true) ∨ (a.det = true ∧ a.accept.getLsbD 5 = false) ∨
       (a.jrnl = true ∧ a.accept.getLsbD 6 = false)) ∧
     -- resources: a die to hold the pages, SRAM in every covered slice, free slots, striped blocks, a frame for a table
     (s.spDies pt = [] → createPlan s a pt = none) ∧
     (∀ d ∈ s.spDies pt, spBaseOn s a.spq d = none → createPlan s a pt = none) ∧
     (∀ n d, spBaseOn s n d = none ↔ ∀ b, b + n ≤ 256 → ∃ p ∈ s.partitions, d ∈ s.spDies (s.prt p) ∧
       SMap.get 0 (s.prt p).spbase d < b + n ∧ b < SMap.get 0 (s.prt p).spbase d + (s.prt p).spq) ∧
     (∀ i, i < a.size → ((s.slot (a.base + i)).part ≠ 63 ∨ (s.slot (a.base + i)).state = .poison) → createPlan s a pt = none) ∧
     (∀ d ds, s.spDies pt = d :: ds → (((List.range 1024).filter (blockFree s d)).length < (a.pages + 63) / 64 ∨
       ∀ c m, c < 64 → m < 1024 → channelWorks s (64 * d + c) = true → frameFree s (64 * d + c) m = false) →
       createPlan s a pt = none))

/-! ## Reset and the whole machine -/

/-- R8, R184, R283, R356: after reset the package is in Stage A, with no partition, no thread and nothing on its way; the
stages follow one another; Stage C initialises every home, queue and generator; reset goes back to Stage A with the
image of the last FWUPDATE, and takes nothing from memory. The canonical form of memory holds at reset. (What the
memory of the package reads as before anything is written is the model's choice, notes/assumptions.) (In part the
model's own reading or choice: assumptions 2, 3, 14, 15 and 70 of the log.) -/
def Obligations.ResetAndStages : Prop :=
  State.reset.memOk = true ∧ State.reset.stage = 1 ∧ (∀ p, State.reset.prt p = Part.absent) ∧
  (∀ t, State.reset.thr t = Thread.free) ∧ State.reset.net = [] ∧ State.reset.routes = [] ∧
  (∀ (good : Bool) (s : State), ∃ s', exec (.reset good) s = .next s' ∧ s'.stage = 1 ∧ s'.recovery = !good ∧
    (∀ p, s'.prt p = Part.absent) ∧ (∀ t, s'.thr t = Thread.free) ∧ s'.mem = s.mem ∧ s'.hostMem = s.hostMem ∧
    s'.firmware = s.fwPending.getD s.firmware ∧ s'.fwPending = none) ∧
  (∀ (failed : List Nat) (s : State), s.stage = 1 → s.recovery = false → ∃ s', exec (.stageB failed) s = .next s' ∧
    s'.stage = 2 ∧ ∀ u, u ∈ s'.disabled ↔ u ∈ failed ∧ u < 2600) ∧
  (∀ s : State, s.stage = 2 → ∃ s', exec .stageC s = .next s' ∧ s'.stage = 3 ∧ s'.disabled = s.disabled ∧
    (∀ d, d < 4 → SMap.get 0 s'.agecap d = 2048 ∧ SMap.get 0 s'.scrubrate d = 1000 ∧ SMap.get 0 s'.imbal d = 8) ∧
    (∀ h, h < 256 → (s'.core (homeEp h)).genX = startX 0#32 (homeEp h)) ∧ (∀ k, s'.slot k = RSlot.init) ∧ s'.mem = s.mem)

/-- AN INVARIANT: every step keeps the canonical form of the package's memory, of host memory and of the peers' memory,
so that memories which read alike are equal data. -/
def Obligations.MemoryStaysCanonical : Prop :=
  ∀ s s' : State, s.memOk = true → step s = .next s' → s'.memOk = true

/-- A RULE OF THE WHOLE MACHINE (R75): memory changes only where an access is accepted, never at the instruction that
asks for it: no instruction word, whatever it is and however it ends, changes a byte of any memory in its own step. -/
def Obligations.WordsLeaveMemory : Prop :=
  ∀ (i : Instr) (w : BitVec 96) (s s' : State), encodeWord i = some w → exec i s = .next s' →
    s'.mem = s.mem ∧ s'.hostMem = s.hostMem ∧ s'.peerMem = s.peerMem
end

