-- ==== Sys2Proof/Laws/Maps.lean ====
section
/-!
SUPPORT. Sparse maps and memory: what a write changes, what it leaves, and that every write keeps the canonical form.
-/
namespace Sys2Proof

theorem SMap.get_ins {α : Type} (d : α) (k : Nat) (v : α) (m : SMap α) (j : Nat) :
    SMap.get d (SMap.ins k v m) j = if k = j then v else SMap.get d m j := by
  induction m with
  | nil => simp [SMap.ins, SMap.get]
  | cons e m ih =>
    obtain ⟨k', v'⟩ := e
    simp only [SMap.ins]
    split <;> rename_i h
    · subst h; simp only [SMap.get]; split <;> rfl
    · split
      · simp [SMap.get]
      · simp only [SMap.get, ih]; split <;> split <;> simp_all

theorem SMap.get_del {α : Type} (d : α) (k : Nat) (m : SMap α) (j : Nat) :
    SMap.get d (SMap.del k m) j = if k = j then d else SMap.get d m j := by
  induction m with
  | nil => simp [SMap.del, SMap.get]
  | cons e m ih =>
    obtain ⟨k', v'⟩ := e
    simp only [SMap.del]
    split <;> rename_i h
    · subst h; simp only [SMap.get, ih]; split <;> simp_all
    · simp only [SMap.get, ih]; split <;> split <;> simp_all

/-- A key reads as it was last written, and every other key as before. -/
theorem SMap.get_set {α : Type} [DecidableEq α] (d : α) (m : SMap α) (k : Nat) (v : α) (j : Nat) :
    SMap.get d (SMap.set d m k v) j = if k = j then v else SMap.get d m j := by
  unfold SMap.set
  split
  · rename_i h; subst h; exact SMap.get_del v k m j
  · exact SMap.get_ins d k v m j

@[simp] theorem SMap.get_set_self {α : Type} [DecidableEq α] (d : α) (m : SMap α) (k : Nat) (v : α) :
    SMap.get d (SMap.set d m k v) k = v := by simp [SMap.get_set]

theorem SMap.get_set_ne {α : Type} [DecidableEq α] (d : α) (m : SMap α) {k j : Nat} (v : α) (h : k ≠ j) :
    SMap.get d (SMap.set d m k v) j = SMap.get d m j := by simp [SMap.get_set, h]

@[simp] theorem SMap.get_nil {α : Type} (d : α) (k : Nat) : SMap.get d [] k = d := rfl

/-- A map whose values are all changed in one way, which leaves the default as it is. -/
theorem SMap.get_map {α : Type} (d : α) (f : α → α) (h : f d = d) (m : SMap α) (k : Nat) :
    SMap.get d (m.map (fun e => (e.1, f e.2))) k = f (SMap.get d m k) := by
  induction m with
  | nil => exact h.symm
  | cons e m ih => simp only [List.map_cons, SMap.get]; split <;> simp_all

end Sys2Proof

namespace Sys2Proof.Machine

open Sys2Proof

/-! ## The canonical form -/

/-- Every key of a map lies above a bound, and the keys rise. -/
def Rising : Option Nat → Memory → Prop
  | _, [] => True
  | b, (k, v) :: m => (∀ x, b = some x → x < k) ∧ v ≠ Memory.blank ∧ Rising (some k) m

theorem Rising.weaken {b c : Option Nat} {m : Memory} (h : Rising b m) (hc : ∀ x, c = some x → ∃ y, b = some y ∧ x ≤ y) :
    Rising c m := by
  cases m with
  | nil => trivial
  | cons e m =>
    obtain ⟨h1, h2, h3⟩ := h
    refine ⟨fun x hx => ?_, h2, h3⟩
    obtain ⟨y, hy, hxy⟩ := hc x hx
    exact Nat.lt_of_le_of_lt hxy (h1 y hy)

theorem Memory.wf_iff_rising (m : Memory) : Memory.wf m = true ↔ Rising none m := by
  have key : ∀ (m : Memory) (k : Nat) (v : Byte), Memory.wf ((k, v) :: m) = true ↔ v ≠ Memory.blank ∧ Rising (some k) m := by
    intro m
    induction m with
    | nil => intro k v; simp [Memory.wf, Rising]
    | cons e m ih =>
      intro k v
      obtain ⟨k', v'⟩ := e
      simp only [Memory.wf, Bool.and_eq_true, decide_eq_true_eq, bne_iff_ne, ne_eq, Rising, ih]
      constructor
      · rintro ⟨⟨h1, h2⟩, h3, h4⟩
        exact ⟨h2, fun x hx => by cases hx; exact h1, h3, h4⟩
      · rintro ⟨h2, h1, h3, h4⟩
        exact ⟨⟨h1 k rfl, h2⟩, h3, h4⟩
  cases m with
  | nil => simp [Memory.wf, Rising]
  | cons e m => obtain ⟨k, v⟩ := e; rw [key]; simp [Rising]

theorem Rising.ins {b : Option Nat} {m : Memory} (h : Rising b m) {k : Nat} {v : Byte} (hv : v ≠ Memory.blank)
    (hb : ∀ x, b = some x → x < k) : Rising b (SMap.ins k v m) := by
  induction m generalizing b with
  | nil => exact ⟨hb, hv, trivial⟩
  | cons e m ih =>
    obtain ⟨k', v'⟩ := e
    obtain ⟨h1, h2, h3⟩ := h
    simp only [SMap.ins]
    split <;> rename_i hk
    · subst hk; exact ⟨hb, hv, h3⟩
    · split <;> rename_i hlt
      · exact ⟨hb, hv, fun x hx => by cases hx; exact hlt, h2, h3⟩
      · exact ⟨h1, h2, ih h3 (fun x hx => by cases hx; omega)⟩

theorem Rising.del {b : Option Nat} {m : Memory} (h : Rising b m) (k : Nat) : Rising b (SMap.del k m) := by
  induction m generalizing b with
  | nil => trivial
  | cons e m ih =>
    obtain ⟨k', v'⟩ := e
    obtain ⟨h1, h2, h3⟩ := h
    simp only [SMap.del]
    split
    · refine ih (h3.weaken ?_)
      intro x hx; exact ⟨k', rfl, Nat.le_of_lt (h1 x hx)⟩
    · exact ⟨h1, h2, ih h3⟩

theorem Rising.filter {b : Option Nat} {m : Memory} (h : Rising b m) (p : Nat × Byte → Bool) : Rising b (m.filter p) := by
  induction m generalizing b with
  | nil => trivial
  | cons e m ih =>
    obtain ⟨k', v'⟩ := e
    obtain ⟨h1, h2, h3⟩ := h
    simp only [List.filter]
    split
    · exact ⟨h1, h2, ih h3⟩
    · refine ih (h3.weaken ?_)
      intro x hx; exact ⟨k', rfl, Nat.le_of_lt (h1 x hx)⟩

/-- A write of one byte keeps the canonical form. -/
theorem Memory.wf_write {m : Memory} (h : Memory.wf m = true) (a : Nat) (b : Byte) : Memory.wf (m.write a b) = true := by
  rw [Memory.wf_iff_rising] at *
  unfold Memory.write SMap.set
  split
  · exact h.del a
  · exact h.ins ‹_› (by simp)

/-- Taking entries out keeps it. -/
theorem Memory.wf_filter {m : Memory} (h : Memory.wf m = true) (p : Nat × Byte → Bool) : Memory.wf (m.filter p) = true := by
  rw [Memory.wf_iff_rising] at *
  exact h.filter p

/-- A write of several bytes keeps it. -/
theorem Memory.wf_writeN {m : Memory} (h : Memory.wf m = true) (a : Nat) (bs : List Byte) :
    Memory.wf (m.writeN a bs) = true := by
  induction bs generalizing m a with
  | nil => exact h
  | cons b bs ih => exact ih (Memory.wf_write h a b) (a + 1)

/-! ## Reading what was written -/

theorem Memory.read_write (m : Memory) (a : Nat) (b : Byte) (x : Nat) :
    (m.write a b).read x = if a = x then b else m.read x := SMap.get_set _ _ _ _ _

/-- Bytes below a write, and at or above its end, read as before. -/
theorem Memory.read_writeN_outside (m : Memory) (a : Nat) (bs : List Byte) (x : Nat)
    (h : x < a ∨ a + bs.length ≤ x) : (m.writeN a bs).read x = m.read x := by
  induction bs generalizing m a with
  | nil => rfl
  | cons b bs ih =>
    simp only [List.length_cons] at h
    rw [Memory.writeN, ih _ _ (by omega), Memory.read_write, if_neg (by omega)]

/-- The bytes written are read back. -/
theorem Memory.readN_writeN (m : Memory) (a : Nat) (bs : List Byte) : (m.writeN a bs).readN a bs.length = bs := by
  induction bs generalizing m a with
  | nil => rfl
  | cons b bs ih =>
    simp only [List.length_cons, Memory.readN, Memory.writeN, ih]
    rw [Memory.read_writeN_outside _ _ _ _ (by omega), Memory.read_write, if_pos rfl]

theorem Memory.readN_length (m : Memory) (a n : Nat) : (m.readN a n).length = n := by
  induction n generalizing a with
  | zero => rfl
  | succ n ih => simp [Memory.readN, ih]

end Sys2Proof.Machine
end

