-- ==== Sys2Proof/Laws/State.lean ====
section
/-!
SUPPORT. The state's record: what each setter leaves as it was, field by field, and what it sets.
-/
namespace Sys2Proof.Machine

open Sys2Proof

@[simp] theorem State.setThr_agenda (s : State) (t : Nat) (x : Thread) : (s.setThr t x).agenda = s.agenda := rfl
@[simp] theorem State.setThr_cur (s : State) (t : Nat) (x : Thread) : (s.setThr t x).cur = s.cur := rfl
@[simp] theorem State.setThr_cores (s : State) (t : Nat) (x : Thread) : (s.setThr t x).cores = s.cores := rfl
@[simp] theorem State.setThr_homes (s : State) (t : Nat) (x : Thread) : (s.setThr t x).homes = s.homes := rfl
@[simp] theorem State.setThr_parts (s : State) (t : Nat) (x : Thread) : (s.setThr t x).parts = s.parts := rfl
@[simp] theorem State.setThr_mem (s : State) (t : Nat) (x : Thread) : (s.setThr t x).mem = s.mem := rfl
@[simp] theorem State.setThr_hostMem (s : State) (t : Nat) (x : Thread) : (s.setThr t x).hostMem = s.hostMem := rfl
@[simp] theorem State.setThr_peerMem (s : State) (t : Nat) (x : Thread) : (s.setThr t x).peerMem = s.peerMem := rfl
@[simp] theorem State.setThr_net (s : State) (t : Nat) (x : Thread) : (s.setThr t x).net = s.net := rfl
@[simp] theorem State.setThr_seqOut (s : State) (t : Nat) (x : Thread) : (s.setThr t x).seqOut = s.seqOut := rfl
@[simp] theorem State.setThr_seqIn (s : State) (t : Nat) (x : Thread) : (s.setThr t x).seqIn = s.seqIn := rfl
@[simp] theorem State.setThr_copies (s : State) (t : Nat) (x : Thread) : (s.setThr t x).copies = s.copies := rfl
@[simp] theorem State.setThr_routes (s : State) (t : Nat) (x : Thread) : (s.setThr t x).routes = s.routes := rfl
@[simp] theorem State.setThr_tlbs (s : State) (t : Nat) (x : Thread) : (s.setThr t x).tlbs = s.tlbs := rfl
@[simp] theorem State.setThr_ats (s : State) (t : Nat) (x : Thread) : (s.setThr t x).ats = s.ats := rfl
@[simp] theorem State.setThr_pub (s : State) (t : Nat) (x : Thread) : (s.setThr t x).pub = s.pub := rfl
@[simp] theorem State.setThr_blockOwner (s : State) (t : Nat) (x : Thread) : (s.setThr t x).blockOwner = s.blockOwner := rfl
@[simp] theorem State.setThr_chanOwner (s : State) (t : Nat) (x : Thread) : (s.setThr t x).chanOwner = s.chanOwner := rfl
@[simp] theorem State.setThr_keys (s : State) (t : Nat) (x : Thread) : (s.setThr t x).keys = s.keys := rfl
@[simp] theorem State.setThr_windows (s : State) (t : Nat) (x : Thread) : (s.setThr t x).windows = s.windows := rfl
@[simp] theorem State.setThr_pulls (s : State) (t : Nat) (x : Thread) : (s.setThr t x).pulls = s.pulls := rfl
@[simp] theorem State.setThr_slots (s : State) (t : Nat) (x : Thread) : (s.setThr t x).slots = s.slots := rfl
@[simp] theorem State.setThr_ringTime (s : State) (t : Nat) (x : Thread) : (s.setThr t x).ringTime = s.ringTime := rfl
@[simp] theorem State.setThr_ringDone (s : State) (t : Nat) (x : Thread) : (s.setThr t x).ringDone = s.ringDone := rfl
@[simp] theorem State.setThr_stage (s : State) (t : Nat) (x : Thread) : (s.setThr t x).stage = s.stage := rfl
@[simp] theorem State.setThr_recovery (s : State) (t : Nat) (x : Thread) : (s.setThr t x).recovery = s.recovery := rfl
@[simp] theorem State.setThr_disabled (s : State) (t : Nat) (x : Thread) : (s.setThr t x).disabled = s.disabled := rfl
@[simp] theorem State.setThr_agecap (s : State) (t : Nat) (x : Thread) : (s.setThr t x).agecap = s.agecap := rfl
@[simp] theorem State.setThr_scrubrate (s : State) (t : Nat) (x : Thread) : (s.setThr t x).scrubrate = s.scrubrate := rfl
@[simp] theorem State.setThr_imbal (s : State) (t : Nat) (x : Thread) : (s.setThr t x).imbal = s.imbal := rfl
@[simp] theorem State.setThr_mgmtReq (s : State) (t : Nat) (x : Thread) : (s.setThr t x).mgmtReq = s.mgmtReq := rfl
@[simp] theorem State.setThr_mgmtResp (s : State) (t : Nat) (x : Thread) : (s.setThr t x).mgmtResp = s.mgmtResp := rfl
@[simp] theorem State.setThr_mgmtResult (s : State) (t : Nat) (x : Thread) : (s.setThr t x).mgmtResult = s.mgmtResult := rfl
@[simp] theorem State.setThr_powerCap (s : State) (t : Nat) (x : Thread) : (s.setThr t x).powerCap = s.powerCap := rfl
@[simp] theorem State.setThr_overCap (s : State) (t : Nat) (x : Thread) : (s.setThr t x).overCap = s.overCap := rfl
@[simp] theorem State.setThr_firmware (s : State) (t : Nat) (x : Thread) : (s.setThr t x).firmware = s.firmware := rfl
@[simp] theorem State.setThr_fwPending (s : State) (t : Nat) (x : Thread) : (s.setThr t x).fwPending = s.fwPending := rfl
@[simp] theorem State.setThr_hostReadFails (s : State) (t : Nat) (x : Thread) : (s.setThr t x).hostReadFails = s.hostReadFails := rfl
@[simp] theorem State.setThr_hostReads (s : State) (t : Nat) (x : Thread) : (s.setThr t x).hostReads = s.hostReads := rfl
@[simp] theorem State.setThr_hostReq (s : State) (t : Nat) (x : Thread) : (s.setThr t x).hostReq = s.hostReq := rfl
@[simp] theorem State.setThr_completions (s : State) (t : Nat) (x : Thread) : (s.setThr t x).completions = s.completions := rfl
@[simp] theorem State.setThr_tokensSent (s : State) (t : Nat) (x : Thread) : (s.setThr t x).tokensSent = s.tokensSent := rfl
@[simp] theorem State.setThr_peerSent (s : State) (t : Nat) (x : Thread) : (s.setThr t x).peerSent = s.peerSent := rfl
@[simp] theorem State.setThr_saved (s : State) (t : Nat) (x : Thread) : (s.setThr t x).saved = s.saved := rfl
@[simp] theorem State.setThr_nextId (s : State) (t : Nat) (x : Thread) : (s.setThr t x).nextId = s.nextId := rfl
@[simp] theorem State.setThr_freeCtr (s : State) (t : Nat) (x : Thread) : (s.setThr t x).freeCtr = s.freeCtr := rfl
@[simp] theorem State.setThr_lastIssued (s : State) (t : Nat) (x : Thread) : (s.setThr t x).lastIssued = s.lastIssued := rfl
@[simp] theorem State.setCore_agenda (s : State) (c : Nat) (x : Core) : (s.setCore c x).agenda = s.agenda := rfl
@[simp] theorem State.setCore_cur (s : State) (c : Nat) (x : Core) : (s.setCore c x).cur = s.cur := rfl
@[simp] theorem State.setCore_threads (s : State) (c : Nat) (x : Core) : (s.setCore c x).threads = s.threads := rfl
@[simp] theorem State.setCore_homes (s : State) (c : Nat) (x : Core) : (s.setCore c x).homes = s.homes := rfl
@[simp] theorem State.setCore_parts (s : State) (c : Nat) (x : Core) : (s.setCore c x).parts = s.parts := rfl
@[simp] theorem State.setCore_mem (s : State) (c : Nat) (x : Core) : (s.setCore c x).mem = s.mem := rfl
@[simp] theorem State.setCore_hostMem (s : State) (c : Nat) (x : Core) : (s.setCore c x).hostMem = s.hostMem := rfl
@[simp] theorem State.setCore_peerMem (s : State) (c : Nat) (x : Core) : (s.setCore c x).peerMem = s.peerMem := rfl
@[simp] theorem State.setCore_net (s : State) (c : Nat) (x : Core) : (s.setCore c x).net = s.net := rfl
@[simp] theorem State.setCore_seqOut (s : State) (c : Nat) (x : Core) : (s.setCore c x).seqOut = s.seqOut := rfl
@[simp] theorem State.setCore_seqIn (s : State) (c : Nat) (x : Core) : (s.setCore c x).seqIn = s.seqIn := rfl
@[simp] theorem State.setCore_copies (s : State) (c : Nat) (x : Core) : (s.setCore c x).copies = s.copies := rfl
@[simp] theorem State.setCore_routes (s : State) (c : Nat) (x : Core) : (s.setCore c x).routes = s.routes := rfl
@[simp] theorem State.setCore_tlbs (s : State) (c : Nat) (x : Core) : (s.setCore c x).tlbs = s.tlbs := rfl
@[simp] theorem State.setCore_ats (s : State) (c : Nat) (x : Core) : (s.setCore c x).ats = s.ats := rfl
@[simp] theorem State.setCore_pub (s : State) (c : Nat) (x : Core) : (s.setCore c x).pub = s.pub := rfl
@[simp] theorem State.setCore_blockOwner (s : State) (c : Nat) (x : Core) : (s.setCore c x).blockOwner = s.blockOwner := rfl
@[simp] theorem State.setCore_chanOwner (s : State) (c : Nat) (x : Core) : (s.setCore c x).chanOwner = s.chanOwner := rfl
@[simp] theorem State.setCore_keys (s : State) (c : Nat) (x : Core) : (s.setCore c x).keys = s.keys := rfl
@[simp] theorem State.setCore_windows (s : State) (c : Nat) (x : Core) : (s.setCore c x).windows = s.windows := rfl
@[simp] theorem State.setCore_pulls (s : State) (c : Nat) (x : Core) : (s.setCore c x).pulls = s.pulls := rfl
@[simp] theorem State.setCore_slots (s : State) (c : Nat) (x : Core) : (s.setCore c x).slots = s.slots := rfl
@[simp] theorem State.setCore_ringTime (s : State) (c : Nat) (x : Core) : (s.setCore c x).ringTime = s.ringTime := rfl
@[simp] theorem State.setCore_ringDone (s : State) (c : Nat) (x : Core) : (s.setCore c x).ringDone = s.ringDone := rfl
@[simp] theorem State.setCore_stage (s : State) (c : Nat) (x : Core) : (s.setCore c x).stage = s.stage := rfl
@[simp] theorem State.setCore_recovery (s : State) (c : Nat) (x : Core) : (s.setCore c x).recovery = s.recovery := rfl
@[simp] theorem State.setCore_disabled (s : State) (c : Nat) (x : Core) : (s.setCore c x).disabled = s.disabled := rfl
@[simp] theorem State.setCore_agecap (s : State) (c : Nat) (x : Core) : (s.setCore c x).agecap = s.agecap := rfl
@[simp] theorem State.setCore_scrubrate (s : State) (c : Nat) (x : Core) : (s.setCore c x).scrubrate = s.scrubrate := rfl
@[simp] theorem State.setCore_imbal (s : State) (c : Nat) (x : Core) : (s.setCore c x).imbal = s.imbal := rfl
@[simp] theorem State.setCore_mgmtReq (s : State) (c : Nat) (x : Core) : (s.setCore c x).mgmtReq = s.mgmtReq := rfl
@[simp] theorem State.setCore_mgmtResp (s : State) (c : Nat) (x : Core) : (s.setCore c x).mgmtResp = s.mgmtResp := rfl
@[simp] theorem State.setCore_mgmtResult (s : State) (c : Nat) (x : Core) : (s.setCore c x).mgmtResult = s.mgmtResult := rfl
@[simp] theorem State.setCore_powerCap (s : State) (c : Nat) (x : Core) : (s.setCore c x).powerCap = s.powerCap := rfl
@[simp] theorem State.setCore_overCap (s : State) (c : Nat) (x : Core) : (s.setCore c x).overCap = s.overCap := rfl
@[simp] theorem State.setCore_firmware (s : State) (c : Nat) (x : Core) : (s.setCore c x).firmware = s.firmware := rfl
@[simp] theorem State.setCore_fwPending (s : State) (c : Nat) (x : Core) : (s.setCore c x).fwPending = s.fwPending := rfl
@[simp] theorem State.setCore_hostReadFails (s : State) (c : Nat) (x : Core) : (s.setCore c x).hostReadFails = s.hostReadFails := rfl
@[simp] theorem State.setCore_hostReads (s : State) (c : Nat) (x : Core) : (s.setCore c x).hostReads = s.hostReads := rfl
@[simp] theorem State.setCore_hostReq (s : State) (c : Nat) (x : Core) : (s.setCore c x).hostReq = s.hostReq := rfl
@[simp] theorem State.setCore_completions (s : State) (c : Nat) (x : Core) : (s.setCore c x).completions = s.completions := rfl
@[simp] theorem State.setCore_tokensSent (s : State) (c : Nat) (x : Core) : (s.setCore c x).tokensSent = s.tokensSent := rfl
@[simp] theorem State.setCore_peerSent (s : State) (c : Nat) (x : Core) : (s.setCore c x).peerSent = s.peerSent := rfl
@[simp] theorem State.setCore_saved (s : State) (c : Nat) (x : Core) : (s.setCore c x).saved = s.saved := rfl
@[simp] theorem State.setCore_nextId (s : State) (c : Nat) (x : Core) : (s.setCore c x).nextId = s.nextId := rfl
@[simp] theorem State.setCore_freeCtr (s : State) (c : Nat) (x : Core) : (s.setCore c x).freeCtr = s.freeCtr := rfl
@[simp] theorem State.setCore_lastIssued (s : State) (c : Nat) (x : Core) : (s.setCore c x).lastIssued = s.lastIssued := rfl
@[simp] theorem State.setHome_agenda (s : State) (e : Nat) (x : Home) : (s.setHome e x).agenda = s.agenda := rfl
@[simp] theorem State.setHome_cur (s : State) (e : Nat) (x : Home) : (s.setHome e x).cur = s.cur := rfl
@[simp] theorem State.setHome_threads (s : State) (e : Nat) (x : Home) : (s.setHome e x).threads = s.threads := rfl
@[simp] theorem State.setHome_cores (s : State) (e : Nat) (x : Home) : (s.setHome e x).cores = s.cores := rfl
@[simp] theorem State.setHome_parts (s : State) (e : Nat) (x : Home) : (s.setHome e x).parts = s.parts := rfl
@[simp] theorem State.setHome_mem (s : State) (e : Nat) (x : Home) : (s.setHome e x).mem = s.mem := rfl
@[simp] theorem State.setHome_hostMem (s : State) (e : Nat) (x : Home) : (s.setHome e x).hostMem = s.hostMem := rfl
@[simp] theorem State.setHome_peerMem (s : State) (e : Nat) (x : Home) : (s.setHome e x).peerMem = s.peerMem := rfl
@[simp] theorem State.setHome_net (s : State) (e : Nat) (x : Home) : (s.setHome e x).net = s.net := rfl
@[simp] theorem State.setHome_seqOut (s : State) (e : Nat) (x : Home) : (s.setHome e x).seqOut = s.seqOut := rfl
@[simp] theorem State.setHome_seqIn (s : State) (e : Nat) (x : Home) : (s.setHome e x).seqIn = s.seqIn := rfl
@[simp] theorem State.setHome_copies (s : State) (e : Nat) (x : Home) : (s.setHome e x).copies = s.copies := rfl
@[simp] theorem State.setHome_routes (s : State) (e : Nat) (x : Home) : (s.setHome e x).routes = s.routes := rfl
@[simp] theorem State.setHome_tlbs (s : State) (e : Nat) (x : Home) : (s.setHome e x).tlbs = s.tlbs := rfl
@[simp] theorem State.setHome_ats (s : State) (e : Nat) (x : Home) : (s.setHome e x).ats = s.ats := rfl
@[simp] theorem State.setHome_pub (s : State) (e : Nat) (x : Home) : (s.setHome e x).pub = s.pub := rfl
@[simp] theorem State.setHome_blockOwner (s : State) (e : Nat) (x : Home) : (s.setHome e x).blockOwner = s.blockOwner := rfl
@[simp] theorem State.setHome_chanOwner (s : State) (e : Nat) (x : Home) : (s.setHome e x).chanOwner = s.chanOwner := rfl
@[simp] theorem State.setHome_keys (s : State) (e : Nat) (x : Home) : (s.setHome e x).keys = s.keys := rfl
@[simp] theorem State.setHome_windows (s : State) (e : Nat) (x : Home) : (s.setHome e x).windows = s.windows := rfl
@[simp] theorem State.setHome_pulls (s : State) (e : Nat) (x : Home) : (s.setHome e x).pulls = s.pulls := rfl
@[simp] theorem State.setHome_slots (s : State) (e : Nat) (x : Home) : (s.setHome e x).slots = s.slots := rfl
@[simp] theorem State.setHome_ringTime (s : State) (e : Nat) (x : Home) : (s.setHome e x).ringTime = s.ringTime := rfl
@[simp] theorem State.setHome_ringDone (s : State) (e : Nat) (x : Home) : (s.setHome e x).ringDone = s.ringDone := rfl
@[simp] theorem State.setHome_stage (s : State) (e : Nat) (x : Home) : (s.setHome e x).stage = s.stage := rfl
@[simp] theorem State.setHome_recovery (s : State) (e : Nat) (x : Home) : (s.setHome e x).recovery = s.recovery := rfl
@[simp] theorem State.setHome_disabled (s : State) (e : Nat) (x : Home) : (s.setHome e x).disabled = s.disabled := rfl
@[simp] theorem State.setHome_agecap (s : State) (e : Nat) (x : Home) : (s.setHome e x).agecap = s.agecap := rfl
@[simp] theorem State.setHome_scrubrate (s : State) (e : Nat) (x : Home) : (s.setHome e x).scrubrate = s.scrubrate := rfl
@[simp] theorem State.setHome_imbal (s : State) (e : Nat) (x : Home) : (s.setHome e x).imbal = s.imbal := rfl
@[simp] theorem State.setHome_mgmtReq (s : State) (e : Nat) (x : Home) : (s.setHome e x).mgmtReq = s.mgmtReq := rfl
@[simp] theorem State.setHome_mgmtResp (s : State) (e : Nat) (x : Home) : (s.setHome e x).mgmtResp = s.mgmtResp := rfl
@[simp] theorem State.setHome_mgmtResult (s : State) (e : Nat) (x : Home) : (s.setHome e x).mgmtResult = s.mgmtResult := rfl
@[simp] theorem State.setHome_powerCap (s : State) (e : Nat) (x : Home) : (s.setHome e x).powerCap = s.powerCap := rfl
@[simp] theorem State.setHome_overCap (s : State) (e : Nat) (x : Home) : (s.setHome e x).overCap = s.overCap := rfl
@[simp] theorem State.setHome_firmware (s : State) (e : Nat) (x : Home) : (s.setHome e x).firmware = s.firmware := rfl
@[simp] theorem State.setHome_fwPending (s : State) (e : Nat) (x : Home) : (s.setHome e x).fwPending = s.fwPending := rfl
@[simp] theorem State.setHome_hostReadFails (s : State) (e : Nat) (x : Home) : (s.setHome e x).hostReadFails = s.hostReadFails := rfl
@[simp] theorem State.setHome_hostReads (s : State) (e : Nat) (x : Home) : (s.setHome e x).hostReads = s.hostReads := rfl
@[simp] theorem State.setHome_hostReq (s : State) (e : Nat) (x : Home) : (s.setHome e x).hostReq = s.hostReq := rfl
@[simp] theorem State.setHome_completions (s : State) (e : Nat) (x : Home) : (s.setHome e x).completions = s.completions := rfl
@[simp] theorem State.setHome_tokensSent (s : State) (e : Nat) (x : Home) : (s.setHome e x).tokensSent = s.tokensSent := rfl
@[simp] theorem State.setHome_peerSent (s : State) (e : Nat) (x : Home) : (s.setHome e x).peerSent = s.peerSent := rfl
@[simp] theorem State.setHome_saved (s : State) (e : Nat) (x : Home) : (s.setHome e x).saved = s.saved := rfl
@[simp] theorem State.setHome_nextId (s : State) (e : Nat) (x : Home) : (s.setHome e x).nextId = s.nextId := rfl
@[simp] theorem State.setHome_freeCtr (s : State) (e : Nat) (x : Home) : (s.setHome e x).freeCtr = s.freeCtr := rfl
@[simp] theorem State.setHome_lastIssued (s : State) (e : Nat) (x : Home) : (s.setHome e x).lastIssued = s.lastIssued := rfl
@[simp] theorem State.setPart_agenda (s : State) (p : Nat) (x : Part) : (s.setPart p x).agenda = s.agenda := rfl
@[simp] theorem State.setPart_cur (s : State) (p : Nat) (x : Part) : (s.setPart p x).cur = s.cur := rfl
@[simp] theorem State.setPart_threads (s : State) (p : Nat) (x : Part) : (s.setPart p x).threads = s.threads := rfl
@[simp] theorem State.setPart_cores (s : State) (p : Nat) (x : Part) : (s.setPart p x).cores = s.cores := rfl
@[simp] theorem State.setPart_homes (s : State) (p : Nat) (x : Part) : (s.setPart p x).homes = s.homes := rfl
@[simp] theorem State.setPart_mem (s : State) (p : Nat) (x : Part) : (s.setPart p x).mem = s.mem := rfl
@[simp] theorem State.setPart_hostMem (s : State) (p : Nat) (x : Part) : (s.setPart p x).hostMem = s.hostMem := rfl
@[simp] theorem State.setPart_peerMem (s : State) (p : Nat) (x : Part) : (s.setPart p x).peerMem = s.peerMem := rfl
@[simp] theorem State.setPart_net (s : State) (p : Nat) (x : Part) : (s.setPart p x).net = s.net := rfl
@[simp] theorem State.setPart_seqOut (s : State) (p : Nat) (x : Part) : (s.setPart p x).seqOut = s.seqOut := rfl
@[simp] theorem State.setPart_seqIn (s : State) (p : Nat) (x : Part) : (s.setPart p x).seqIn = s.seqIn := rfl
@[simp] theorem State.setPart_copies (s : State) (p : Nat) (x : Part) : (s.setPart p x).copies = s.copies := rfl
@[simp] theorem State.setPart_routes (s : State) (p : Nat) (x : Part) : (s.setPart p x).routes = s.routes := rfl
@[simp] theorem State.setPart_tlbs (s : State) (p : Nat) (x : Part) : (s.setPart p x).tlbs = s.tlbs := rfl
@[simp] theorem State.setPart_ats (s : State) (p : Nat) (x : Part) : (s.setPart p x).ats = s.ats := rfl
@[simp] theorem State.setPart_pub (s : State) (p : Nat) (x : Part) : (s.setPart p x).pub = s.pub := rfl
@[simp] theorem State.setPart_blockOwner (s : State) (p : Nat) (x : Part) : (s.setPart p x).blockOwner = s.blockOwner := rfl
@[simp] theorem State.setPart_chanOwner (s : State) (p : Nat) (x : Part) : (s.setPart p x).chanOwner = s.chanOwner := rfl
@[simp] theorem State.setPart_keys (s : State) (p : Nat) (x : Part) : (s.setPart p x).keys = s.keys := rfl
@[simp] theorem State.setPart_windows (s : State) (p : Nat) (x : Part) : (s.setPart p x).windows = s.windows := rfl
@[simp] theorem State.setPart_pulls (s : State) (p : Nat) (x : Part) : (s.setPart p x).pulls = s.pulls := rfl
@[simp] theorem State.setPart_slots (s : State) (p : Nat) (x : Part) : (s.setPart p x).slots = s.slots := rfl
@[simp] theorem State.setPart_ringTime (s : State) (p : Nat) (x : Part) : (s.setPart p x).ringTime = s.ringTime := rfl
@[simp] theorem State.setPart_ringDone (s : State) (p : Nat) (x : Part) : (s.setPart p x).ringDone = s.ringDone := rfl
@[simp] theorem State.setPart_stage (s : State) (p : Nat) (x : Part) : (s.setPart p x).stage = s.stage := rfl
@[simp] theorem State.setPart_recovery (s : State) (p : Nat) (x : Part) : (s.setPart p x).recovery = s.recovery := rfl
@[simp] theorem State.setPart_disabled (s : State) (p : Nat) (x : Part) : (s.setPart p x).disabled = s.disabled := rfl
@[simp] theorem State.setPart_agecap (s : State) (p : Nat) (x : Part) : (s.setPart p x).agecap = s.agecap := rfl
@[simp] theorem State.setPart_scrubrate (s : State) (p : Nat) (x : Part) : (s.setPart p x).scrubrate = s.scrubrate := rfl
@[simp] theorem State.setPart_imbal (s : State) (p : Nat) (x : Part) : (s.setPart p x).imbal = s.imbal := rfl
@[simp] theorem State.setPart_mgmtReq (s : State) (p : Nat) (x : Part) : (s.setPart p x).mgmtReq = s.mgmtReq := rfl
@[simp] theorem State.setPart_mgmtResp (s : State) (p : Nat) (x : Part) : (s.setPart p x).mgmtResp = s.mgmtResp := rfl
@[simp] theorem State.setPart_mgmtResult (s : State) (p : Nat) (x : Part) : (s.setPart p x).mgmtResult = s.mgmtResult := rfl
@[simp] theorem State.setPart_powerCap (s : State) (p : Nat) (x : Part) : (s.setPart p x).powerCap = s.powerCap := rfl
@[simp] theorem State.setPart_overCap (s : State) (p : Nat) (x : Part) : (s.setPart p x).overCap = s.overCap := rfl
@[simp] theorem State.setPart_firmware (s : State) (p : Nat) (x : Part) : (s.setPart p x).firmware = s.firmware := rfl
@[simp] theorem State.setPart_fwPending (s : State) (p : Nat) (x : Part) : (s.setPart p x).fwPending = s.fwPending := rfl
@[simp] theorem State.setPart_hostReadFails (s : State) (p : Nat) (x : Part) : (s.setPart p x).hostReadFails = s.hostReadFails := rfl
@[simp] theorem State.setPart_hostReads (s : State) (p : Nat) (x : Part) : (s.setPart p x).hostReads = s.hostReads := rfl
@[simp] theorem State.setPart_hostReq (s : State) (p : Nat) (x : Part) : (s.setPart p x).hostReq = s.hostReq := rfl
@[simp] theorem State.setPart_completions (s : State) (p : Nat) (x : Part) : (s.setPart p x).completions = s.completions := rfl
@[simp] theorem State.setPart_tokensSent (s : State) (p : Nat) (x : Part) : (s.setPart p x).tokensSent = s.tokensSent := rfl
@[simp] theorem State.setPart_peerSent (s : State) (p : Nat) (x : Part) : (s.setPart p x).peerSent = s.peerSent := rfl
@[simp] theorem State.setPart_saved (s : State) (p : Nat) (x : Part) : (s.setPart p x).saved = s.saved := rfl
@[simp] theorem State.setPart_nextId (s : State) (p : Nat) (x : Part) : (s.setPart p x).nextId = s.nextId := rfl
@[simp] theorem State.setPart_freeCtr (s : State) (p : Nat) (x : Part) : (s.setPart p x).freeCtr = s.freeCtr := rfl
@[simp] theorem State.setPart_lastIssued (s : State) (p : Nat) (x : Part) : (s.setPart p x).lastIssued = s.lastIssued := rfl
@[simp] theorem State.setEngine_agenda (s : State) (e : Nat) (x : List Copy) : (s.setEngine e x).agenda = s.agenda := rfl
@[simp] theorem State.setEngine_cur (s : State) (e : Nat) (x : List Copy) : (s.setEngine e x).cur = s.cur := rfl
@[simp] theorem State.setEngine_threads (s : State) (e : Nat) (x : List Copy) : (s.setEngine e x).threads = s.threads := rfl
@[simp] theorem State.setEngine_cores (s : State) (e : Nat) (x : List Copy) : (s.setEngine e x).cores = s.cores := rfl
@[simp] theorem State.setEngine_homes (s : State) (e : Nat) (x : List Copy) : (s.setEngine e x).homes = s.homes := rfl
@[simp] theorem State.setEngine_parts (s : State) (e : Nat) (x : List Copy) : (s.setEngine e x).parts = s.parts := rfl
@[simp] theorem State.setEngine_mem (s : State) (e : Nat) (x : List Copy) : (s.setEngine e x).mem = s.mem := rfl
@[simp] theorem State.setEngine_hostMem (s : State) (e : Nat) (x : List Copy) : (s.setEngine e x).hostMem = s.hostMem := rfl
@[simp] theorem State.setEngine_peerMem (s : State) (e : Nat) (x : List Copy) : (s.setEngine e x).peerMem = s.peerMem := rfl
@[simp] theorem State.setEngine_net (s : State) (e : Nat) (x : List Copy) : (s.setEngine e x).net = s.net := rfl
@[simp] theorem State.setEngine_seqOut (s : State) (e : Nat) (x : List Copy) : (s.setEngine e x).seqOut = s.seqOut := rfl
@[simp] theorem State.setEngine_seqIn (s : State) (e : Nat) (x : List Copy) : (s.setEngine e x).seqIn = s.seqIn := rfl
@[simp] theorem State.setEngine_routes (s : State) (e : Nat) (x : List Copy) : (s.setEngine e x).routes = s.routes := rfl
@[simp] theorem State.setEngine_tlbs (s : State) (e : Nat) (x : List Copy) : (s.setEngine e x).tlbs = s.tlbs := rfl
@[simp] theorem State.setEngine_ats (s : State) (e : Nat) (x : List Copy) : (s.setEngine e x).ats = s.ats := rfl
@[simp] theorem State.setEngine_pub (s : State) (e : Nat) (x : List Copy) : (s.setEngine e x).pub = s.pub := rfl
@[simp] theorem State.setEngine_blockOwner (s : State) (e : Nat) (x : List Copy) : (s.setEngine e x).blockOwner = s.blockOwner := rfl
@[simp] theorem State.setEngine_chanOwner (s : State) (e : Nat) (x : List Copy) : (s.setEngine e x).chanOwner = s.chanOwner := rfl
@[simp] theorem State.setEngine_keys (s : State) (e : Nat) (x : List Copy) : (s.setEngine e x).keys = s.keys := rfl
@[simp] theorem State.setEngine_windows (s : State) (e : Nat) (x : List Copy) : (s.setEngine e x).windows = s.windows := rfl
@[simp] theorem State.setEngine_pulls (s : State) (e : Nat) (x : List Copy) : (s.setEngine e x).pulls = s.pulls := rfl
@[simp] theorem State.setEngine_slots (s : State) (e : Nat) (x : List Copy) : (s.setEngine e x).slots = s.slots := rfl
@[simp] theorem State.setEngine_ringTime (s : State) (e : Nat) (x : List Copy) : (s.setEngine e x).ringTime = s.ringTime := rfl
@[simp] theorem State.setEngine_ringDone (s : State) (e : Nat) (x : List Copy) : (s.setEngine e x).ringDone = s.ringDone := rfl
@[simp] theorem State.setEngine_stage (s : State) (e : Nat) (x : List Copy) : (s.setEngine e x).stage = s.stage := rfl
@[simp] theorem State.setEngine_recovery (s : State) (e : Nat) (x : List Copy) : (s.setEngine e x).recovery = s.recovery := rfl
@[simp] theorem State.setEngine_disabled (s : State) (e : Nat) (x : List Copy) : (s.setEngine e x).disabled = s.disabled := rfl
@[simp] theorem State.setEngine_agecap (s : State) (e : Nat) (x : List Copy) : (s.setEngine e x).agecap = s.agecap := rfl
@[simp] theorem State.setEngine_scrubrate (s : State) (e : Nat) (x : List Copy) : (s.setEngine e x).scrubrate = s.scrubrate := rfl
@[simp] theorem State.setEngine_imbal (s : State) (e : Nat) (x : List Copy) : (s.setEngine e x).imbal = s.imbal := rfl
@[simp] theorem State.setEngine_mgmtReq (s : State) (e : Nat) (x : List Copy) : (s.setEngine e x).mgmtReq = s.mgmtReq := rfl
@[simp] theorem State.setEngine_mgmtResp (s : State) (e : Nat) (x : List Copy) : (s.setEngine e x).mgmtResp = s.mgmtResp := rfl
@[simp] theorem State.setEngine_mgmtResult (s : State) (e : Nat) (x : List Copy) : (s.setEngine e x).mgmtResult = s.mgmtResult := rfl
@[simp] theorem State.setEngine_powerCap (s : State) (e : Nat) (x : List Copy) : (s.setEngine e x).powerCap = s.powerCap := rfl
@[simp] theorem State.setEngine_overCap (s : State) (e : Nat) (x : List Copy) : (s.setEngine e x).overCap = s.overCap := rfl
@[simp] theorem State.setEngine_firmware (s : State) (e : Nat) (x : List Copy) : (s.setEngine e x).firmware = s.firmware := rfl
@[simp] theorem State.setEngine_fwPending (s : State) (e : Nat) (x : List Copy) : (s.setEngine e x).fwPending = s.fwPending := rfl
@[simp] theorem State.setEngine_hostReadFails (s : State) (e : Nat) (x : List Copy) : (s.setEngine e x).hostReadFails = s.hostReadFails := rfl
@[simp] theorem State.setEngine_hostReads (s : State) (e : Nat) (x : List Copy) : (s.setEngine e x).hostReads = s.hostReads := rfl
@[simp] theorem State.setEngine_hostReq (s : State) (e : Nat) (x : List Copy) : (s.setEngine e x).hostReq = s.hostReq := rfl
@[simp] theorem State.setEngine_completions (s : State) (e : Nat) (x : List Copy) : (s.setEngine e x).completions = s.completions := rfl
@[simp] theorem State.setEngine_tokensSent (s : State) (e : Nat) (x : List Copy) : (s.setEngine e x).tokensSent = s.tokensSent := rfl
@[simp] theorem State.setEngine_peerSent (s : State) (e : Nat) (x : List Copy) : (s.setEngine e x).peerSent = s.peerSent := rfl
@[simp] theorem State.setEngine_saved (s : State) (e : Nat) (x : List Copy) : (s.setEngine e x).saved = s.saved := rfl
@[simp] theorem State.setEngine_nextId (s : State) (e : Nat) (x : List Copy) : (s.setEngine e x).nextId = s.nextId := rfl
@[simp] theorem State.setEngine_freeCtr (s : State) (e : Nat) (x : List Copy) : (s.setEngine e x).freeCtr = s.freeCtr := rfl
@[simp] theorem State.setEngine_lastIssued (s : State) (e : Nat) (x : List Copy) : (s.setEngine e x).lastIssued = s.lastIssued := rfl
@[simp] theorem State.setSlot_agenda (s : State) (k : Nat) (x : RSlot) : (s.setSlot k x).agenda = s.agenda := rfl
@[simp] theorem State.setSlot_cur (s : State) (k : Nat) (x : RSlot) : (s.setSlot k x).cur = s.cur := rfl
@[simp] theorem State.setSlot_threads (s : State) (k : Nat) (x : RSlot) : (s.setSlot k x).threads = s.threads := rfl
@[simp] theorem State.setSlot_cores (s : State) (k : Nat) (x : RSlot) : (s.setSlot k x).cores = s.cores := rfl
@[simp] theorem State.setSlot_homes (s : State) (k : Nat) (x : RSlot) : (s.setSlot k x).homes = s.homes := rfl
@[simp] theorem State.setSlot_parts (s : State) (k : Nat) (x : RSlot) : (s.setSlot k x).parts = s.parts := rfl
@[simp] theorem State.setSlot_mem (s : State) (k : Nat) (x : RSlot) : (s.setSlot k x).mem = s.mem := rfl
@[simp] theorem State.setSlot_hostMem (s : State) (k : Nat) (x : RSlot) : (s.setSlot k x).hostMem = s.hostMem := rfl
@[simp] theorem State.setSlot_peerMem (s : State) (k : Nat) (x : RSlot) : (s.setSlot k x).peerMem = s.peerMem := rfl
@[simp] theorem State.setSlot_net (s : State) (k : Nat) (x : RSlot) : (s.setSlot k x).net = s.net := rfl
@[simp] theorem State.setSlot_seqOut (s : State) (k : Nat) (x : RSlot) : (s.setSlot k x).seqOut = s.seqOut := rfl
@[simp] theorem State.setSlot_seqIn (s : State) (k : Nat) (x : RSlot) : (s.setSlot k x).seqIn = s.seqIn := rfl
@[simp] theorem State.setSlot_copies (s : State) (k : Nat) (x : RSlot) : (s.setSlot k x).copies = s.copies := rfl
@[simp] theorem State.setSlot_routes (s : State) (k : Nat) (x : RSlot) : (s.setSlot k x).routes = s.routes := rfl
@[simp] theorem State.setSlot_tlbs (s : State) (k : Nat) (x : RSlot) : (s.setSlot k x).tlbs = s.tlbs := rfl
@[simp] theorem State.setSlot_ats (s : State) (k : Nat) (x : RSlot) : (s.setSlot k x).ats = s.ats := rfl
@[simp] theorem State.setSlot_pub (s : State) (k : Nat) (x : RSlot) : (s.setSlot k x).pub = s.pub := rfl
@[simp] theorem State.setSlot_blockOwner (s : State) (k : Nat) (x : RSlot) : (s.setSlot k x).blockOwner = s.blockOwner := rfl
@[simp] theorem State.setSlot_chanOwner (s : State) (k : Nat) (x : RSlot) : (s.setSlot k x).chanOwner = s.chanOwner := rfl
@[simp] theorem State.setSlot_keys (s : State) (k : Nat) (x : RSlot) : (s.setSlot k x).keys = s.keys := rfl
@[simp] theorem State.setSlot_windows (s : State) (k : Nat) (x : RSlot) : (s.setSlot k x).windows = s.windows := rfl
@[simp] theorem State.setSlot_pulls (s : State) (k : Nat) (x : RSlot) : (s.setSlot k x).pulls = s.pulls := rfl
@[simp] theorem State.setSlot_ringTime (s : State) (k : Nat) (x : RSlot) : (s.setSlot k x).ringTime = s.ringTime := rfl
@[simp] theorem State.setSlot_ringDone (s : State) (k : Nat) (x : RSlot) : (s.setSlot k x).ringDone = s.ringDone := rfl
@[simp] theorem State.setSlot_stage (s : State) (k : Nat) (x : RSlot) : (s.setSlot k x).stage = s.stage := rfl
@[simp] theorem State.setSlot_recovery (s : State) (k : Nat) (x : RSlot) : (s.setSlot k x).recovery = s.recovery := rfl
@[simp] theorem State.setSlot_disabled (s : State) (k : Nat) (x : RSlot) : (s.setSlot k x).disabled = s.disabled := rfl
@[simp] theorem State.setSlot_agecap (s : State) (k : Nat) (x : RSlot) : (s.setSlot k x).agecap = s.agecap := rfl
@[simp] theorem State.setSlot_scrubrate (s : State) (k : Nat) (x : RSlot) : (s.setSlot k x).scrubrate = s.scrubrate := rfl
@[simp] theorem State.setSlot_imbal (s : State) (k : Nat) (x : RSlot) : (s.setSlot k x).imbal = s.imbal := rfl
@[simp] theorem State.setSlot_mgmtReq (s : State) (k : Nat) (x : RSlot) : (s.setSlot k x).mgmtReq = s.mgmtReq := rfl
@[simp] theorem State.setSlot_mgmtResp (s : State) (k : Nat) (x : RSlot) : (s.setSlot k x).mgmtResp = s.mgmtResp := rfl
@[simp] theorem State.setSlot_mgmtResult (s : State) (k : Nat) (x : RSlot) : (s.setSlot k x).mgmtResult = s.mgmtResult := rfl
@[simp] theorem State.setSlot_powerCap (s : State) (k : Nat) (x : RSlot) : (s.setSlot k x).powerCap = s.powerCap := rfl
@[simp] theorem State.setSlot_overCap (s : State) (k : Nat) (x : RSlot) : (s.setSlot k x).overCap = s.overCap := rfl
@[simp] theorem State.setSlot_firmware (s : State) (k : Nat) (x : RSlot) : (s.setSlot k x).firmware = s.firmware := rfl
@[simp] theorem State.setSlot_fwPending (s : State) (k : Nat) (x : RSlot) : (s.setSlot k x).fwPending = s.fwPending := rfl
@[simp] theorem State.setSlot_hostReadFails (s : State) (k : Nat) (x : RSlot) : (s.setSlot k x).hostReadFails = s.hostReadFails := rfl
@[simp] theorem State.setSlot_hostReads (s : State) (k : Nat) (x : RSlot) : (s.setSlot k x).hostReads = s.hostReads := rfl
@[simp] theorem State.setSlot_hostReq (s : State) (k : Nat) (x : RSlot) : (s.setSlot k x).hostReq = s.hostReq := rfl
@[simp] theorem State.setSlot_completions (s : State) (k : Nat) (x : RSlot) : (s.setSlot k x).completions = s.completions := rfl
@[simp] theorem State.setSlot_tokensSent (s : State) (k : Nat) (x : RSlot) : (s.setSlot k x).tokensSent = s.tokensSent := rfl
@[simp] theorem State.setSlot_peerSent (s : State) (k : Nat) (x : RSlot) : (s.setSlot k x).peerSent = s.peerSent := rfl
@[simp] theorem State.setSlot_saved (s : State) (k : Nat) (x : RSlot) : (s.setSlot k x).saved = s.saved := rfl
@[simp] theorem State.setSlot_nextId (s : State) (k : Nat) (x : RSlot) : (s.setSlot k x).nextId = s.nextId := rfl
@[simp] theorem State.setSlot_freeCtr (s : State) (k : Nat) (x : RSlot) : (s.setSlot k x).freeCtr = s.freeCtr := rfl
@[simp] theorem State.setSlot_lastIssued (s : State) (k : Nat) (x : RSlot) : (s.setSlot k x).lastIssued = s.lastIssued := rfl

/-- What `setThr` does to `thr`. -/
theorem State.thr_setThr (s : State) (t : Nat) (x : Thread) (u : Nat) : (s.setThr t x).thr u = if t = u then x else s.thr u := by
  unfold State.thr State.setThr; exact SMap.get_set _ _ _ _ _
@[simp] theorem State.thr_setThr_self (s : State) (t : Nat) (x : Thread) : (s.setThr t x).thr t = x := by simp [State.thr_setThr]
theorem State.thr_setThr_ne (s : State) {t u : Nat} (x : Thread) (h : t ≠ u) : (s.setThr t x).thr u = s.thr u := by simp [State.thr_setThr, h]
@[simp] theorem State.thr_setCore (s : State) (c : Nat) (x : Core) (u : Nat) : (s.setCore c x).thr u = s.thr u := rfl
@[simp] theorem State.thr_setHome (s : State) (e : Nat) (x : Home) (u : Nat) : (s.setHome e x).thr u = s.thr u := rfl
@[simp] theorem State.thr_setPart (s : State) (p : Nat) (x : Part) (u : Nat) : (s.setPart p x).thr u = s.thr u := rfl
@[simp] theorem State.thr_setEngine (s : State) (e : Nat) (x : List Copy) (u : Nat) : (s.setEngine e x).thr u = s.thr u := rfl
@[simp] theorem State.thr_setSlot (s : State) (k : Nat) (x : RSlot) (u : Nat) : (s.setSlot k x).thr u = s.thr u := rfl

/-- What `setCore` does to `core`. -/
theorem State.core_setCore (s : State) (c : Nat) (x : Core) (d : Nat) : (s.setCore c x).core d = if c = d then x else s.core d := by
  unfold State.core State.setCore; exact SMap.get_set _ _ _ _ _
@[simp] theorem State.core_setCore_self (s : State) (c : Nat) (x : Core) : (s.setCore c x).core c = x := by simp [State.core_setCore]
theorem State.core_setCore_ne (s : State) {c d : Nat} (x : Core) (h : c ≠ d) : (s.setCore c x).core d = s.core d := by simp [State.core_setCore, h]
@[simp] theorem State.core_setThr (s : State) (t : Nat) (x : Thread) (d : Nat) : (s.setThr t x).core d = s.core d := rfl
@[simp] theorem State.core_setHome (s : State) (e : Nat) (x : Home) (d : Nat) : (s.setHome e x).core d = s.core d := rfl
@[simp] theorem State.core_setPart (s : State) (p : Nat) (x : Part) (d : Nat) : (s.setPart p x).core d = s.core d := rfl
@[simp] theorem State.core_setEngine (s : State) (e : Nat) (x : List Copy) (d : Nat) : (s.setEngine e x).core d = s.core d := rfl
@[simp] theorem State.core_setSlot (s : State) (k : Nat) (x : RSlot) (d : Nat) : (s.setSlot k x).core d = s.core d := rfl

/-- What `setHome` does to `home`. -/
theorem State.home_setHome (s : State) (e : Nat) (x : Home) (f : Nat) : (s.setHome e x).home f = if e = f then x else s.home f := by
  unfold State.home State.setHome; exact SMap.get_set _ _ _ _ _
@[simp] theorem State.home_setHome_self (s : State) (e : Nat) (x : Home) : (s.setHome e x).home e = x := by simp [State.home_setHome]
theorem State.home_setHome_ne (s : State) {e f : Nat} (x : Home) (h : e ≠ f) : (s.setHome e x).home f = s.home f := by simp [State.home_setHome, h]
@[simp] theorem State.home_setThr (s : State) (t : Nat) (x : Thread) (f : Nat) : (s.setThr t x).home f = s.home f := rfl
@[simp] theorem State.home_setCore (s : State) (c : Nat) (x : Core) (f : Nat) : (s.setCore c x).home f = s.home f := rfl
@[simp] theorem State.home_setPart (s : State) (p : Nat) (x : Part) (f : Nat) : (s.setPart p x).home f = s.home f := rfl
@[simp] theorem State.home_setEngine (s : State) (e : Nat) (x : List Copy) (f : Nat) : (s.setEngine e x).home f = s.home f := rfl
@[simp] theorem State.home_setSlot (s : State) (k : Nat) (x : RSlot) (f : Nat) : (s.setSlot k x).home f = s.home f := rfl

/-- What `setPart` does to `prt`. -/
theorem State.prt_setPart (s : State) (p : Nat) (x : Part) (q : Nat) : (s.setPart p x).prt q = if p = q then x else s.prt q := by
  unfold State.prt State.setPart; exact SMap.get_set _ _ _ _ _
@[simp] theorem State.prt_setPart_self (s : State) (p : Nat) (x : Part) : (s.setPart p x).prt p = x := by simp [State.prt_setPart]
theorem State.prt_setPart_ne (s : State) {p q : Nat} (x : Part) (h : p ≠ q) : (s.setPart p x).prt q = s.prt q := by simp [State.prt_setPart, h]
@[simp] theorem State.prt_setThr (s : State) (t : Nat) (x : Thread) (q : Nat) : (s.setThr t x).prt q = s.prt q := rfl
@[simp] theorem State.prt_setCore (s : State) (c : Nat) (x : Core) (q : Nat) : (s.setCore c x).prt q = s.prt q := rfl
@[simp] theorem State.prt_setHome (s : State) (e : Nat) (x : Home) (q : Nat) : (s.setHome e x).prt q = s.prt q := rfl
@[simp] theorem State.prt_setEngine (s : State) (e : Nat) (x : List Copy) (q : Nat) : (s.setEngine e x).prt q = s.prt q := rfl
@[simp] theorem State.prt_setSlot (s : State) (k : Nat) (x : RSlot) (q : Nat) : (s.setSlot k x).prt q = s.prt q := rfl

/-- What `setEngine` does to `engine`. -/
theorem State.engine_setEngine (s : State) (e : Nat) (x : List Copy) (f : Nat) : (s.setEngine e x).engine f = if e = f then x else s.engine f := by
  unfold State.engine State.setEngine; exact SMap.get_set _ _ _ _ _
@[simp] theorem State.engine_setEngine_self (s : State) (e : Nat) (x : List Copy) : (s.setEngine e x).engine e = x := by simp [State.engine_setEngine]
theorem State.engine_setEngine_ne (s : State) {e f : Nat} (x : List Copy) (h : e ≠ f) : (s.setEngine e x).engine f = s.engine f := by simp [State.engine_setEngine, h]
@[simp] theorem State.engine_setThr (s : State) (t : Nat) (x : Thread) (f : Nat) : (s.setThr t x).engine f = s.engine f := rfl
@[simp] theorem State.engine_setCore (s : State) (c : Nat) (x : Core) (f : Nat) : (s.setCore c x).engine f = s.engine f := rfl
@[simp] theorem State.engine_setHome (s : State) (e : Nat) (x : Home) (f : Nat) : (s.setHome e x).engine f = s.engine f := rfl
@[simp] theorem State.engine_setPart (s : State) (p : Nat) (x : Part) (f : Nat) : (s.setPart p x).engine f = s.engine f := rfl
@[simp] theorem State.engine_setSlot (s : State) (k : Nat) (x : RSlot) (f : Nat) : (s.setSlot k x).engine f = s.engine f := rfl

/-- What `setSlot` does to `slot`. -/
theorem State.slot_setSlot (s : State) (k : Nat) (x : RSlot) (j : Nat) : (s.setSlot k x).slot j = if k = j then x else s.slot j := by
  unfold State.slot State.setSlot; exact SMap.get_set _ _ _ _ _
@[simp] theorem State.slot_setSlot_self (s : State) (k : Nat) (x : RSlot) : (s.setSlot k x).slot k = x := by simp [State.slot_setSlot]
theorem State.slot_setSlot_ne (s : State) {k j : Nat} (x : RSlot) (h : k ≠ j) : (s.setSlot k x).slot j = s.slot j := by simp [State.slot_setSlot, h]
@[simp] theorem State.slot_setThr (s : State) (t : Nat) (x : Thread) (j : Nat) : (s.setThr t x).slot j = s.slot j := rfl
@[simp] theorem State.slot_setCore (s : State) (c : Nat) (x : Core) (j : Nat) : (s.setCore c x).slot j = s.slot j := rfl
@[simp] theorem State.slot_setHome (s : State) (e : Nat) (x : Home) (j : Nat) : (s.setHome e x).slot j = s.slot j := rfl
@[simp] theorem State.slot_setPart (s : State) (p : Nat) (x : Part) (j : Nat) : (s.setPart p x).slot j = s.slot j := rfl
@[simp] theorem State.slot_setEngine (s : State) (e : Nat) (x : List Copy) (j : Nat) : (s.setEngine e x).slot j = s.slot j := rfl

/-! ## The derived setters -/

@[simp] theorem State.modThr_eq (s : State) (t : Nat) (f : Thread → Thread) : s.modThr t f = s.setThr t (f (s.thr t)) := rfl
@[simp] theorem State.modCore_eq (s : State) (c : Nat) (f : Core → Core) : s.modCore c f = s.setCore c (f (s.core c)) := rfl
@[simp] theorem State.modHome_eq (s : State) (e : Nat) (f : Home → Home) : s.modHome e f = s.setHome e (f (s.home e)) := rfl
@[simp] theorem State.modPart_eq (s : State) (p : Nat) (f : Part → Part) : s.modPart p f = s.setPart p (f (s.prt p)) := rfl
@[simp] theorem State.me_eq (s : State) : s.me = s.thr s.cur := rfl
@[simp] theorem State.setMe_eq (s : State) (x : Thread) : s.setMe x = s.setThr s.cur x := rfl
@[simp] theorem State.modMe_eq (s : State) (f : Thread → Thread) : s.modMe f = s.setThr s.cur (f (s.thr s.cur)) := rfl

end Sys2Proof.Machine
end

