-- ==== Sys2Proof/Laws/Barrier.lean ====
section
/-!
SUPPORT. What the completion of a generation leaves: DONE in the records that name it, and nothing else of any record.
-/
namespace Sys2Proof.Machine

open Sys2Proof

theorem barWake_bar (b : Nat) (t : Thread) : (barWake b t).bar = t.bar := by
  unfold barWake; split <;> (try split) <;> rfl

theorem barHit_free (set b : Nat) (gen : BitVec 8) : barHit set b gen Thread.free = Thread.free := rfl

theorem foldl_wake_bar (b k : Nat) (ts : List Nat) (s : State) :
    ((ts.foldl (fun s t => s.modThr t (barWake b)) s).thr k).bar = (s.thr k).bar := by
  induction ts generalizing s with
  | nil => rfl
  | cons t ts ih =>
    rw [List.foldl_cons, ih]
    simp only [State.modThr, State.setThr, State.thr, SMap.get_set]
    split
    · rename_i h; subst h; exact barWake_bar b _
    · rfl

/-- The record of every thread, wherever it runs (R103). -/
theorem barComplete_record (s : State) (c b k : Nat) :
    ((barComplete s c b).thr k).bar = (barHit (s.barSet c) b ((s.core c).bar b).gen (s.thr k)).bar := by
  unfold barComplete
  simp only [foldl_wake_bar]
  exact congrArg Thread.bar (SMap.get_map Thread.free _ (barHit_free _ _ _) s.threads k)

end Sys2Proof.Machine
end

