-- ==== Sys2Proof/Laws/Fields.lean ====
section
/-!
SUPPORT. The encoding of one field, and of a word from its fields: each decoder reads back what its encoder writes.
-/
namespace Sys2Proof

/-! ## Parts of a field -/

theorem extract_low {n m : Nat} (a : BitVec n) (b : BitVec m) : (a ++ b).extractLsb' 0 m = b := by
  apply BitVec.eq_of_getLsbD_eq
  intro i hi
  simp [BitVec.getLsbD_append, hi]

theorem extract_high {n m : Nat} (a : BitVec n) (b : BitVec m) : (a ++ b).extractLsb' m n = a := by
  apply BitVec.eq_of_getLsbD_eq
  intro i hi
  simp [BitVec.getLsbD_append, hi]

@[simp] theorem opKind_opMk (k : BitVec 3) (v : BitVec 15) : opKind (opMk k v) = k := extract_high k v
@[simp] theorem opVal_opMk (k : BitVec 3) (v : BitVec 15) : opVal (opMk k v) = v := extract_low k v
@[simp] theorem spClass_spMk (c : BitVec 5) (i : BitVec 10) : spClass (spMk c i) = c := extract_high c i
@[simp] theorem spIndex_spMk (c : BitVec 5) (i : BitVec 10) : spIndex (spMk c i) = i := extract_low c i

/-- A value widened and narrowed again. -/
theorem setWidth_roundtrip {n m : Nat} (h : n ≤ m) (x : BitVec n) : (x.setWidth m).setWidth n = x := by
  apply BitVec.eq_of_toNat_eq
  have := x.isLt
  have h2 : 2 ^ n ≤ 2 ^ m := Nat.pow_le_pow_right (by decide) h
  simp only [BitVec.toNat_setWidth]
  rw [Nat.mod_eq_of_lt (Nat.lt_of_lt_of_le this h2), Nat.mod_eq_of_lt this]

theorem toNat_widen {n m : Nat} (h : n ≤ m) (x : BitVec n) : (x.setWidth m).toNat = x.toNat := by
  have := x.isLt
  have h2 : 2 ^ n ≤ 2 ^ m := Nat.pow_le_pow_right (by decide) h
  simp only [BitVec.toNat_setWidth]
  exact Nat.mod_eq_of_lt (Nat.lt_of_lt_of_le this h2)

/-! ## Fields -/

@[simp] theorem wF_dec_enc (r : BitVec 5) : wF.dec (opMk 0#3 (r.setWidth 15)) = .ok r := by
  have h : (r.setWidth 15).toNat < 32 := by rw [toNat_widen (by decide)]; exact r.isLt
  simp only [wF, opKind_opMk, opVal_opMk, beq_self_eq_true, if_true, if_pos h, setWidth_roundtrip (by decide : 5 ≤ 15)]

theorem wF_enc (r : BitVec 5) : wF.enc r = opMk 0#3 (r.setWidth 15) := rfl

@[simp] theorem gDec_widen (r : BitVec 5) : gDec (r.setWidth 15) = .ok r := by
  have h : (r.setWidth 15).toNat < 32 := by rw [toNat_widen (by decide)]; exact r.isLt
  simp only [gDec, if_pos h, setWidth_roundtrip (by decide : 5 ≤ 15)]

@[simp] theorem zeroF_dec : zeroF.dec 0#18 = .ok () := rfl

@[simp] theorem wgF_dec_enc (x : WG) : wgF.dec (wgF.enc x) = .ok x := by
  cases x <;> simp [wgF, FRes.map]

theorem immF_dec_enc {lo hi : Int} {v : BitVec 15} (h : immIn lo hi v = true) : (immF lo hi).dec (opMk 3#3 v) = .ok v := by
  simp only [immIn, Bool.and_eq_true, decide_eq_true_eq] at h
  simp [immF, h]

theorem immIn_any (v : BitVec 15) : immIn immMin immMax v = true := by
  have h1 : v.toInt < 16384 := v.toInt_lt
  have h2 : -16384 ≤ v.toInt := v.le_toInt
  unfold immIn immMin immMax
  rw [Bool.and_eq_true]
  exact ⟨decide_eq_true h2, decide_eq_true (by omega)⟩

@[simp] theorem immAny_dec_enc (v : BitVec 15) : immAny.dec (opMk 3#3 v) = .ok v := immF_dec_enc (immIn_any v)
theorem immAny_enc (v : BitVec 15) : immAny.enc v = opMk 3#3 v := rfl

theorem wiF_dec_enc {lo hi : Int} {x : WI} (h : wiIn lo hi x = true) : (wiF lo hi).dec (wiAny.enc x) = .ok x := by
  cases x with
  | w r => simp [wiF, wiAny, FRes.map]
  | imm v => simp [wiF, wiAny, FRes.map, immF_dec_enc (h : immIn lo hi v = true)]

@[simp] theorem wiAny_dec_enc (x : WI) : wiAny.dec (wiAny.enc x) = .ok x :=
  wiF_dec_enc (by cases x <;> simp [wiIn, immIn_any])

theorem uimmF_dec_enc {ok : Nat → Bool} {v : BitVec 15} (h : ok v.toNat = true) : (uimmF ok).dec (opMk 3#3 v) = .ok v := by
  simp [uimmF, h]

theorem wuF_dec_enc {ok : Nat → Bool} {x : WI} (h : ∀ v, x = .imm v → ok v.toNat = true) :
    (wuF ok).dec (wiAny.enc x) = .ok x := by
  cases x with
  | w r => simp [wuF, wiAny, wiF, FRes.map]
  | imm v => simp [wuF, wiAny, wiF, FRes.map, uimmF_dec_enc (h v rfl)]

@[simp] theorem srcF_dec_enc (a : Src) : srcF.dec (srcF.enc a) = .ok a := by
  cases a with
  | w r => simp [srcF, FRes.map]
  | imm v => simp [srcF]
  | g r => simp [srcF, FRes.map]
  | q r => have := r.isLt; simp [srcF, spDec, spLimit]; omega
  | s r => have := r.isLt; simp [srcF, spDec, spLimit]; omega
  | n r => have := r.isLt; simp [srcF, spDec, spLimit]; omega

@[simp] theorem dstF_dec_enc (a : Dst) : dstF.dec (dstF.enc a) = .ok a := by
  cases a with
  | w r => simp [dstF, FRes.map]
  | q r => have := r.isLt; simp [dstF, spDec, spLimit]; omega
  | n r => have := r.isLt; simp [dstF, spDec, spLimit]; omega

theorem srcF_not_loop (a : Src) : (opKind (srcF.enc a) == 4#3 && spClass (opVal (srcF.enc a)) == 5#5) = false := by
  cases a <;> simp [srcF]

theorem dstF_not_loop (a : Dst) : (opKind (dstF.enc a) == 4#3 && spClass (opVal (dstF.enc a)) == 5#5) = false := by
  cases a <;> simp [dstF]

@[simp] theorem movSrcF_dec_enc (a : MovSrc) : movSrcF.dec (movSrcF.enc a) = .ok a := by
  cases a with
  | src a => simp only [movSrcF, srcF_not_loop, Bool.false_eq_true, if_false, srcF_dec_enc, FRes.map]
  | loop r => cases r <;> rfl

@[simp] theorem movDstF_dec_enc (a : MovDst) : movDstF.dec (movDstF.enc a) = .ok a := by
  cases a with
  | dst a => simp only [movDstF, dstF_not_loop, Bool.false_eq_true, if_false, dstF_dec_enc, FRes.map]
  | loop r => cases r <;> rfl

@[simp] theorem vF_dec_enc (a : VReg) : vF.dec (vF.enc a) = .ok a := by
  cases a with
  | v r => have := r.isLt; simp [vF]; omega
  | vi w o =>
    have h1 : ((o ++ w : BitVec 15).extractLsb' 0 5) = w := extract_low o w
    have h2 : ((o ++ w : BitVec 15).extractLsb' 5 10) = o := extract_high o w
    simp only [vF, opKind_opMk, opVal_opMk, h1, h2]
    rfl

theorem vF_kind (a : VReg) : opKind (vF.enc a) = 1#3 ∨ opKind (vF.enc a) = 2#3 := by cases a <;> simp [vF]

@[simp] theorem vvF_dec_enc (a : VV) : vvF.dec (vvF.enc a) = .ok a := by
  cases a with
  | reg r => rcases vF_kind r with h | h <;> simp [vvF, h, FRes.map]
  | s r => have := r.isLt; simp [vvF, spDec, spLimit]; omega

theorem srcF_kind (a : Src) : opKind (srcF.enc a) ≠ 1#3 ∧ opKind (srcF.enc a) ≠ 2#3 := by cases a <;> simp [srcF]

@[simp] theorem vsrcF_dec_enc (a : VSrc) : vsrcF.dec (vsrcF.enc a) = .ok a := by
  cases a with
  | reg r => rcases vF_kind r with h | h <;> simp [vsrcF, h, FRes.map]
  | sc a => have h := srcF_kind a; simp [vsrcF, h.1, h.2, FRes.map]

@[simp] theorem pF_dec_enc (p : BitVec 4) : pF.dec (pF.enc p) = .ok p := by
  have := p.isLt; simp [pF, spDec, spLimit]; omega

theorem ppF_dec_enc {p : Pair} (h : pairOk p = true) : ppF.dec (ppF.enc p) = .ok p := by
  obtain ⟨a, b⟩ := p
  have key : ∀ a b : BitVec 4, pairOk ⟨a, b⟩ = true → ppF.dec (ppF.enc ⟨a, b⟩) = .ok ⟨a, b⟩ := by decide
  exact key a b h

theorem classF_dec_enc {c : BitVec 5} {n lim : Nat} (hl : spLimit c = some lim) (hn : 2 ^ n ≤ lim) (hm : n ≤ 10)
    (r : BitVec n) : (classF c n).dec ((classF c n).enc r) = .ok r := by
  have h : (r.setWidth 10).toNat < lim := by rw [toNat_widen hm]; exact Nat.lt_of_lt_of_le r.isLt hn
  simp [classF, spDec, hl, h, -BitVec.toNat_setWidth]
  exact setWidth_roundtrip hm r

@[simp] theorem streamF_dec_enc (r : BitVec 3) : streamF.dec (streamF.enc r) = .ok r :=
  classF_dec_enc (lim := 8) rfl (by decide) (by decide) r
@[simp] theorem portF_dec_enc (r : BitVec 3) : portF.dec (portF.enc r) = .ok r :=
  classF_dec_enc (lim := 8) rfl (by decide) (by decide) r
@[simp] theorem accF_dec_enc (r : BitVec 6) : accF.dec (accF.enc r) = .ok r :=
  classF_dec_enc (lim := 64) rfl (by decide) (by decide) r

theorem slotF_dec_enc {x : SlotOp} (h : slotOk x = true) : slotF.dec (slotF.enc x) = .ok x := by
  cases x with
  | sl k => simp only [slotOk, decide_eq_true_eq] at h; simp [slotF, h]
  | w r => simp [slotF, FRes.map]

theorem tyOf_tyCode (t : Ty) : tyOf (tyCode t) = some t := by cases t <;> rfl

theorem cvtF_dec_enc {ok : Ty → Bool} {m : CvtMode} {t : Ty} (h : ok t = true) : (cvtF ok).dec ((cvtF ok).enc (m, t)) = .ok (m, t) := by
  obtain ⟨sat, mode⟩ := m
  have h1 : ∀ (s : Bool) (mode : BitVec 2) (c : BitVec 4),
      ((0#8 ++ BitVec.ofBool s ++ mode ++ c : BitVec 15).extractLsb' 7 8 = 0#8) ∧
      ((0#8 ++ BitVec.ofBool s ++ mode ++ c : BitVec 15).extractLsb' 0 4 = c) ∧
      ((0#8 ++ BitVec.ofBool s ++ mode ++ c : BitVec 15).getLsbD 6 = s) ∧
      ((0#8 ++ BitVec.ofBool s ++ mode ++ c : BitVec 15).extractLsb' 4 2 = mode) := by decide
  obtain ⟨a, b, c, d⟩ := h1 sat mode (tyCode t)
  simp only [cvtF, opKind_opMk, opVal_opMk, a, b, c, d, tyOf_tyCode, h]
  rfl

@[simp] theorem accModeF_dec_enc (m : CvtMode) : accModeF.dec (accModeF.enc m) = .ok m := by
  obtain ⟨sat, mode⟩ := m
  have key : ∀ (s : Bool) (mode : BitVec 2), accModeF.dec (accModeF.enc ⟨s, mode⟩) = .ok ⟨s, mode⟩ := by decide
  exact key sat mode

@[simp] theorem cpyDstF_dec_enc (x : CpyDst) : cpyDstF.dec (cpyDstF.enc x) = .ok x := by
  cases x with
  | sp r => simp [cpyDstF, FRes.map]
  | stream s =>
    have h : opKind (streamF.enc s) = 4#3 := by simp [streamF, classF]
    simp [cpyDstF, FRes.map, h]

@[simp] theorem recF_dec_enc (x : RecSrc) : recF.dec (recF.enc x) = .ok x := by
  cases x with
  | mem r => simp [recF, FRes.map]
  | vec r => rcases vF_kind r with h | h <;> simp [recF, FRes.map, h]

/-! ## Checks 5 and 6 over three fields -/

theorem fields_ok {δ α β : Type} {r : Raw} {fd : Fld δ} {fa : Fld α} {fb : Fld β} {d : δ} {a : α} {b : β}
    (hd : fd.dec r.d = .ok d) (ha : fa.dec r.a = .ok a) (hb : fb.dec r.b = .ok b) :
    fields r fd fa fb = .ok (d, a, b) := by
  simp [fields, hd, ha, hb, chkKind, chkVal, bind, Except.bind, pure, Except.pure]

theorem fieldD_ok {δ : Type} {r : Raw} {fd : Fld δ} {d : δ} (hd : fd.dec r.d = .ok d) : fieldD r fd = .ok d := by
  simp [fieldD, hd, chkKind, chkVal, bind, Except.bind]

/-! ## The word -/

/-- Bits above the lower part of an append. -/
theorem extract_skip {n m : Nat} (a : BitVec n) (b : BitVec m) {k j l : Nat} (h : k = m + j) :
    (a ++ b).extractLsb' k l = a.extractLsb' j l := by
  subst h
  apply BitVec.eq_of_getLsbD_eq
  intro i hi
  simp [BitVec.getLsbD_append, hi, Nat.add_assoc]

theorem extract_all {n : Nat} (a : BitVec n) : a.extractLsb' 0 n = a := by
  apply BitVec.eq_of_getLsbD_eq
  intro i hi
  simp [hi]

theorem unpack_pack (r : Raw) : Raw.unpack r.pack = r := by
  obtain ⟨op, fn, tt, ga, gb, gc, hint, d, a, b⟩ := r
  simp only [Raw.unpack, Raw.pack, Raw.mk.injEq]
  refine ⟨?_, ?_, ?_, ?_, ?_, ?_, ?_, ?_, ?_, ?_⟩
  · rw [extract_skip _ b (j := 70) rfl, extract_skip _ a (j := 52) rfl, extract_skip _ d (j := 34) rfl,
      extract_skip _ hint (j := 28) rfl, extract_skip _ gc (j := 24) rfl, extract_skip _ gb (j := 20) rfl,
      extract_skip _ ga (j := 16) rfl, extract_skip _ tt (j := 8) rfl, extract_skip _ fn (j := 0) rfl, extract_all]
  · rw [extract_skip _ b (j := 62) rfl, extract_skip _ a (j := 44) rfl, extract_skip _ d (j := 26) rfl,
      extract_skip _ hint (j := 20) rfl, extract_skip _ gc (j := 16) rfl, extract_skip _ gb (j := 12) rfl,
      extract_skip _ ga (j := 8) rfl, extract_skip _ tt (j := 0) rfl, extract_low]
  · rw [extract_skip _ b (j := 54) rfl, extract_skip _ a (j := 36) rfl, extract_skip _ d (j := 18) rfl,
      extract_skip _ hint (j := 12) rfl, extract_skip _ gc (j := 8) rfl, extract_skip _ gb (j := 4) rfl,
      extract_skip _ ga (j := 0) rfl, extract_low]
  · rw [extract_skip _ b (j := 50) rfl, extract_skip _ a (j := 32) rfl, extract_skip _ d (j := 14) rfl,
      extract_skip _ hint (j := 8) rfl, extract_skip _ gc (j := 4) rfl, extract_skip _ gb (j := 0) rfl, extract_low]
  · rw [extract_skip _ b (j := 46) rfl, extract_skip _ a (j := 28) rfl, extract_skip _ d (j := 10) rfl,
      extract_skip _ hint (j := 4) rfl, extract_skip _ gc (j := 0) rfl, extract_low]
  · rw [extract_skip _ b (j := 42) rfl, extract_skip _ a (j := 24) rfl, extract_skip _ d (j := 6) rfl,
      extract_skip _ hint (j := 0) rfl, extract_low]
  · rw [extract_skip _ b (j := 36) rfl, extract_skip _ a (j := 18) rfl, extract_skip _ d (j := 0) rfl, extract_low]
  · rw [extract_skip _ b (j := 18) rfl, extract_skip _ a (j := 0) rfl, extract_low]
  · rw [extract_skip _ b (j := 0) rfl, extract_low]
  · exact extract_low _ b

/-- Two neighbouring parts of a word. -/
theorem extract_join (w : BitVec 96) {k l m : Nat} :
    (w.extractLsb' (k + m) l ++ w.extractLsb' k m : BitVec (l + m)) = w.extractLsb' k (l + m) := by
  apply BitVec.eq_of_getLsbD_eq
  intro i hi
  rw [BitVec.getLsbD_append, BitVec.getLsbD_extractLsb', BitVec.getLsbD_extractLsb', BitVec.getLsbD_extractLsb']
  by_cases h : i < m
  · simp [h, hi]
  · have h2 : i - m < l := by omega
    have h3 : k + m + (i - m) = k + i := by omega
    simp [h, hi, h2, h3]

theorem pack_unpack (w : BitVec 96) : (Raw.unpack w).pack = w := by
  have h := extract_all w
  simp only [Raw.unpack, Raw.pack]
  rw [extract_join w (k := 80) (l := 8) (m := 8), extract_join w (k := 72) (l := 16) (m := 8),
    extract_join w (k := 68) (l := 24) (m := 4), extract_join w (k := 64) (l := 28) (m := 4),
    extract_join w (k := 60) (l := 32) (m := 4), extract_join w (k := 54) (l := 36) (m := 6),
    extract_join w (k := 36) (l := 42) (m := 18), extract_join w (k := 18) (l := 60) (m := 18),
    extract_join w (k := 0) (l := 78) (m := 18)]
  exact h

end Sys2Proof
end

