-- ==== Sys2Proof/Laws/Decode.lean ====
section
/-!
SUPPORT. Decoding of encoded words: with every feature accepted the gate check passes, and a row of the encoding table
is found again from the opcode and the function bits that the encoder wrote.
-/
namespace Sys2Proof

theorem gate_all (r : Raw) (f : Form) (h : ∀ g, f.gate = some g → g < 8) : gateCheck acceptAll r f = .ok () := by
  obtain ⟨gate, i4, long, body⟩ := f
  have h3 : acceptAll.getLsbD 3 = true := by decide
  have h4 : acceptAll.getLsbD 4 = true := by decide
  cases gate with
  | none => simp [gateCheck, h3, h4]
  | some g =>
    have hg : acceptAll.getLsbD g = true := by
      have := h g rfl
      have key : ∀ g : Fin 8, acceptAll.getLsbD g.val = true := by decide
      exact key ⟨g, this⟩
    simp [gateCheck, h3, h4, hg]

theorem decode_of_form {r : Raw} {f : Form} {i : Instr} (h : formOf r = some (some f)) (hg : ∀ g, f.gate = some g → g < 8)
    (hb : f.body = .ok i) : decodeWord acceptAll r.pack = .ok i := by
  unfold decodeWord decodeRaw
  rw [unpack_pack, h]
  simp [gate_all r f hg, hb, bind, Except.bind]

theorem tyFn_hi {hi : Nat} (h : hi < 16) (t : Ty) : (BitVec.ofNat 8 (tyFn hi t)).toNat / 16 = hi := by
  have := (tyCode t).isLt
  simp only [tyFn, BitVec.toNat_ofNat]
  omega
theorem tyFn_lo (hi : Nat) (t : Ty) : (BitVec.ofNat 8 (tyFn hi t)).extractLsb' 0 4 = tyCode t := by
  have := (tyCode t).isLt
  apply BitVec.eq_of_toNat_eq
  simp only [tyFn, BitVec.extractLsb'_toNat, BitVec.toNat_ofNat, Nat.shiftRight_zero]
  omega


theorem decode_eq (r : Raw) : decodeWord acceptAll r.pack =
    match formOf r with
    | none => .error .opcode
    | some none => .error (.function 0 0)
    | some (some f) => gateCheck acceptAll r f >>= fun _ => f.body := by
  unfold decodeWord decodeRaw
  rw [unpack_pack] <;> rfl

theorem typed_mk {c op d a b ok k} {hi : Nat} {t : Ty} (h : hi < 16) :
    typed (mkRaw c op (tyFn hi t) d a b) hi ok k = if ok t then some ⟨none, t == .int4x, false, k t⟩ else none := by
  unfold typed
  simp only [mkRaw, tyFn_hi h, tyFn_lo, tyOf_tyCode, if_true]
theorem typedX_mk {c op d a b ok k} {hi : Nat} {t : Ty} :
    typedX (mkRaw c op (tyFn hi t) d a b) ok k = if ok t then some ⟨none, t == .int4x, false, k t⟩ else none := by
  unfold typedX
  simp only [mkRaw, tyFn_lo, tyOf_tyCode]
theorem hiFn_mk {c op d a b} {hi : Nat} {t : Ty} (h : hi < 16) : hiFn (mkRaw c op (tyFn hi t) d a b) = hi := by
  simp only [hiFn, mkRaw, tyFn_hi h]
@[simp] theorem mk_op {c op fn d a b} : (mkRaw c op fn d a b).op = BitVec.ofNat 8 op := rfl
@[simp] theorem mk_fn {c op fn d a b} : (mkRaw c op fn d a b).fn = BitVec.ofNat 8 fn := rfl
@[simp] theorem mk_d {c op fn d a b} : (mkRaw c op fn d a b).d = d := rfl
@[simp] theorem mk_a {c op fn d a b} : (mkRaw c op fn d a b).a = a := rfl
@[simp] theorem mk_b {c op fn d a b} : (mkRaw c op fn d a b).b = b := rfl
@[simp] theorem mk_ctl {c op fn d a b} : (mkRaw c op fn d a b).ctl = c := rfl
@[simp] theorem gate_none (r : Raw) (i l b) : gateCheck acceptAll r ⟨none, i, l, b⟩ = .ok () := gate_all r _ (by simp)
@[simp] theorem gate_0 (r : Raw) (i l b) : gateCheck acceptAll r ⟨some 0, i, l, b⟩ = .ok () := gate_all r _ (by simp)
@[simp] theorem gate_1 (r : Raw) (i l b) : gateCheck acceptAll r ⟨some 1, i, l, b⟩ = .ok () := gate_all r _ (by simp)
@[simp] theorem gate_2 (r : Raw) (i l b) : gateCheck acceptAll r ⟨some 2, i, l, b⟩ = .ok () := gate_all r _ (by simp)
@[simp] theorem gate_3 (r : Raw) (i l b) : gateCheck acceptAll r ⟨some 3, i, l, b⟩ = .ok () := gate_all r _ (by simp)

@[simp] theorem iCond_lt (k : ICond) : iCondNum k < 16 := by cases k <;> decide
@[simp] theorem fCond_lt (k : FCond) : fCondNum k < 16 := by cases k <;> decide
@[simp] theorem red_lt (k : RedOp) : redNum k < 16 := by cases k <;> decide
@[simp] theorem iCond_of (k : ICond) : iCondOf (iCondNum k) = some k := by cases k <;> rfl
@[simp] theorem fCond_of (k : FCond) : fCondOf (fCondNum k) = some k := by cases k <;> rfl
@[simp] theorem red_of (k : RedOp) : redOf (redNum k) = some k := by cases k <;> rfl
theorem ofNat8_toNat {n : Nat} (x : BitVec n) (h : n ≤ 8 := by decide) : (BitVec.ofNat 8 x.toNat).toNat = x.toNat := by
  have h1 := x.isLt
  have h2 : 2 ^ n ≤ 2 ^ 8 := Nat.pow_le_pow_right (by decide) h
  simp only [BitVec.toNat_ofNat]; omega
@[simp] theorem tyFn_hi4 (k : BitVec 4) (t : Ty) : (BitVec.ofNat 8 (tyFn k.toNat t)).extractLsb' 4 4 = k := by
  have := (tyCode t).isLt
  have := k.isLt
  apply BitVec.eq_of_toNat_eq
  simp only [tyFn, BitVec.extractLsb'_toNat, BitVec.toNat_ofNat, Nat.shiftRight_eq_div_pow]
  omega

end Sys2Proof
end

