-- ==== Sys2Proof/Laws/Exec.lean ====
section
/-!
SUPPORT. Dispatch, arm by arm: executing an instruction is its meaning.
-/
namespace Sys2Proof.Machine

open Sys2Proof

theorem exec_nop (c : Ctl) (s : State) :
    exec (.nop c) s = execNop c s := rfl
theorem exec_br (c : Ctl) (off : BitVec 15) (s : State) :
    exec (.br c off) s = execBr c off s := rfl
theorem exec_brLong (c : Ctl) (off : BitVec 36) (s : State) :
    exec (.brLong c off) s = execBrLong c off s := rfl
theorem exec_brx (c : Ctl) (a : BitVec 5) (s : State) :
    exec (.brx c a) s = execBrx c a s := rfl
theorem exec_call (c : Ctl) (off : BitVec 15) (s : State) :
    exec (.call c off) s = execCall c off s := rfl
theorem exec_callLong (c : Ctl) (off : BitVec 36) (s : State) :
    exec (.callLong c off) s = execCallLong c off s := rfl
theorem exec_callx (c : Ctl) (a : BitVec 5) (s : State) :
    exec (.callx c a) s = execCallx c a s := rfl
theorem exec_ret (c : Ctl) (a : BitVec 5) (s : State) :
    exec (.ret c a) s = execRet c a s := rfl
theorem exec_loop (c : Ctl) (count : WI) (off : BitVec 15) (s : State) :
    exec (.loop c count off) s = execLoop c count off s := rfl
theorem exec_done (c : Ctl) (s : State) :
    exec (.done c) s = execDone c s := rfl
theorem exec_doneJ (c : Ctl) (a : BitVec 5) (s : State) :
    exec (.doneJ c a) s = execDoneJ c a s := rfl
theorem exec_yield (c : Ctl) (s : State) :
    exec (.yield c) s = execYield c s := rfl
theorem exec_brk (c : Ctl) (code : BitVec 15) (s : State) :
    exec (.brk c code) s = execBrk c code s := rfl
theorem exec_cmp (c : Ctl) (k : ICond) (t : Ty) (d : Pair) (a : Src) (b : Src) (s : State) :
    exec (.cmp c k t d a b) s = execCmp c k t d a b s := rfl
theorem exec_cmpf (c : Ctl) (k : FCond) (t : Ty) (d : Pair) (a : Src) (b : Src) (s : State) :
    exec (.cmpf c k t d a b) s = execCmpf c k t d a b s := rfl
theorem exec_vcmp (c : Ctl) (k : ICond) (t : Ty) (d : Pair) (a : VSrc) (b : VSrc) (s : State) :
    exec (.vcmp c k t d a b) s = execVcmp c k t d a b s := rfl
theorem exec_vcmpf (c : Ctl) (k : FCond) (t : Ty) (d : Pair) (a : VSrc) (b : VSrc) (s : State) :
    exec (.vcmpf c k t d a b) s = execVcmpf c k t d a b s := rfl
theorem exec_plog (c : Ctl) (tt : BitVec 8) (d : BitVec 4) (a : BitVec 4) (b : BitVec 4) (s : State) :
    exec (.plog c tt d a b) s = execPlog c tt d a b s := rfl
theorem exec_pmov (c : Ctl) (d : BitVec 4) (a : BitVec 4) (s : State) :
    exec (.pmov c d a) s = execPmov c d a s := rfl
theorem exec_pmovFromW (c : Ctl) (d : BitVec 4) (a : BitVec 5) (s : State) :
    exec (.pmovFromW c d a) s = execPmovFromW c d a s := rfl
theorem exec_pmovToW (c : Ctl) (d : BitVec 5) (a : BitVec 4) (s : State) :
    exec (.pmovToW c d a) s = execPmovToW c d a s := rfl
theorem exec_pcnt (c : Ctl) (d : Dst) (a : BitVec 4) (s : State) :
    exec (.pcnt c d a) s = execPcnt c d a s := rfl
theorem exec_pfirst (c : Ctl) (d : Dst) (a : BitVec 4) (s : State) :
    exec (.pfirst c d a) s = execPfirst c d a s := rfl
theorem exec_pset (c : Ctl) (d : BitVec 4) (m : BitVec 15) (s : State) :
    exec (.pset c d m) s = execPset c d m s := rfl
theorem exec_psetFirst (c : Ctl) (d : BitVec 4) (n : WI) (s : State) :
    exec (.psetFirst c d n) s = execPsetFirst c d n s := rfl
theorem exec_add (c : Ctl) (t : Ty) (d : Dst) (a : Src) (b : Src) (s : State) :
    exec (.add c t d a b) s = execAdd c t d a b s := rfl
theorem exec_sub (c : Ctl) (t : Ty) (d : Dst) (a : Src) (b : Src) (s : State) :
    exec (.sub c t d a b) s = execSub c t d a b s := rfl
theorem exec_mul (c : Ctl) (t : Ty) (d : Dst) (a : Src) (b : Src) (s : State) :
    exec (.mul c t d a b) s = execMul c t d a b s := rfl
theorem exec_mulh (c : Ctl) (t : Ty) (d : Dst) (a : Src) (b : Src) (s : State) :
    exec (.mulh c t d a b) s = execMulh c t d a b s := rfl
theorem exec_div (c : Ctl) (t : Ty) (d : Dst) (a : Src) (b : Src) (s : State) :
    exec (.div c t d a b) s = execDiv c t d a b s := rfl
theorem exec_rem (c : Ctl) (t : Ty) (d : Dst) (a : Src) (b : Src) (s : State) :
    exec (.rem c t d a b) s = execRem c t d a b s := rfl
theorem exec_and (c : Ctl) (t : Ty) (d : Dst) (a : Src) (b : Src) (s : State) :
    exec (.and c t d a b) s = execAnd c t d a b s := rfl
theorem exec_or (c : Ctl) (t : Ty) (d : Dst) (a : Src) (b : Src) (s : State) :
    exec (.or c t d a b) s = execOr c t d a b s := rfl
theorem exec_xor (c : Ctl) (t : Ty) (d : Dst) (a : Src) (b : Src) (s : State) :
    exec (.xor c t d a b) s = execXor c t d a b s := rfl
theorem exec_andn (c : Ctl) (t : Ty) (d : Dst) (a : Src) (b : Src) (s : State) :
    exec (.andn c t d a b) s = execAndn c t d a b s := rfl
theorem exec_shl (c : Ctl) (t : Ty) (d : Dst) (a : Src) (b : Src) (s : State) :
    exec (.shl c t d a b) s = execShl c t d a b s := rfl
theorem exec_shr (c : Ctl) (t : Ty) (d : Dst) (a : Src) (b : Src) (s : State) :
    exec (.shr c t d a b) s = execShr c t d a b s := rfl
theorem exec_sar (c : Ctl) (t : Ty) (d : Dst) (a : Src) (b : Src) (s : State) :
    exec (.sar c t d a b) s = execSar c t d a b s := rfl
theorem exec_rot (c : Ctl) (t : Ty) (d : Dst) (a : Src) (b : Src) (s : State) :
    exec (.rot c t d a b) s = execRot c t d a b s := rfl
theorem exec_min (c : Ctl) (t : Ty) (d : Dst) (a : Src) (b : Src) (s : State) :
    exec (.min c t d a b) s = execMin c t d a b s := rfl
theorem exec_max (c : Ctl) (t : Ty) (d : Dst) (a : Src) (b : Src) (s : State) :
    exec (.max c t d a b) s = execMax c t d a b s := rfl
theorem exec_clz (c : Ctl) (t : Ty) (d : Dst) (a : Src) (s : State) :
    exec (.clz c t d a) s = execClz c t d a s := rfl
theorem exec_popc (c : Ctl) (t : Ty) (d : Dst) (a : Src) (s : State) :
    exec (.popc c t d a) s = execPopc c t d a s := rfl
theorem exec_sel (c : Ctl) (t : Ty) (k : BitVec 4) (d : Dst) (a : Src) (b : Src) (s : State) :
    exec (.sel c t k d a b) s = execSel c t k d a b s := rfl
theorem exec_mov (c : Ctl) (t : Ty) (d : MovDst) (a : MovSrc) (s : State) :
    exec (.mov c t d a) s = execMov c t d a s := rfl
theorem exec_movi (c : Ctl) (d : BitVec 5) (v : BitVec 36) (s : State) :
    exec (.movi c d v) s = execMovi c d v s := rfl
theorem exec_moviH (c : Ctl) (d : BitVec 5) (v : BitVec 28) (s : State) :
    exec (.moviH c d v) s = execMoviH c d v s := rfl
theorem exec_lea (c : Ctl) (d : Dst) (off : BitVec 15) (s : State) :
    exec (.lea c d off) s = execLea c d off s := rfl
theorem exec_leaScaled (c : Ctl) (sh : BitVec 2) (d : Dst) (a : Src) (b : Src) (s : State) :
    exec (.leaScaled c sh d a b) s = execLeaScaled c sh d a b s := rfl
theorem exec_bext (c : Ctl) (t : Ty) (d : Dst) (a : Src) (b : Src) (s : State) :
    exec (.bext c t d a b) s = execBext c t d a b s := rfl
theorem exec_bins (c : Ctl) (d : BitVec 5) (a : Src) (b : Src) (s : State) :
    exec (.bins c d a b) s = execBins c d a b s := rfl
theorem exec_sext (c : Ctl) (t : Ty) (d : Dst) (a : Src) (s : State) :
    exec (.sext c t d a) s = execSext c t d a s := rfl
theorem exec_zext (c : Ctl) (t : Ty) (d : Dst) (a : Src) (s : State) :
    exec (.zext c t d a) s = execZext c t d a s := rfl
theorem exec_fadd (c : Ctl) (t : Ty) (d : Dst) (a : Src) (b : Src) (s : State) :
    exec (.fadd c t d a b) s = execFadd c t d a b s := rfl
theorem exec_fsub (c : Ctl) (t : Ty) (d : Dst) (a : Src) (b : Src) (s : State) :
    exec (.fsub c t d a b) s = execFsub c t d a b s := rfl
theorem exec_fmul (c : Ctl) (t : Ty) (d : Dst) (a : Src) (b : Src) (s : State) :
    exec (.fmul c t d a b) s = execFmul c t d a b s := rfl
theorem exec_ffma (c : Ctl) (t : Ty) (d : BitVec 5) (a : Src) (b : Src) (s : State) :
    exec (.ffma c t d a b) s = execFfma c t d a b s := rfl
theorem exec_fcvt (c : Ctl) (dt : Ty) (st : Ty) (m : CvtMode) (d : Dst) (a : Src) (s : State) :
    exec (.fcvt c dt st m d a) s = execFcvt c dt st m d a s := rfl
theorem exec_vadd (c : Ctl) (sat : Bool) (t : Ty) (d : VReg) (a : VSrc) (b : VSrc) (s : State) :
    exec (.vadd c sat t d a b) s = execVadd c sat t d a b s := rfl
theorem exec_vsub (c : Ctl) (sat : Bool) (t : Ty) (d : VReg) (a : VSrc) (b : VSrc) (s : State) :
    exec (.vsub c sat t d a b) s = execVsub c sat t d a b s := rfl
theorem exec_vmul (c : Ctl) (t : Ty) (d : VReg) (a : VSrc) (b : VSrc) (s : State) :
    exec (.vmul c t d a b) s = execVmul c t d a b s := rfl
theorem exec_vmulh (c : Ctl) (t : Ty) (d : VReg) (a : VSrc) (b : VSrc) (s : State) :
    exec (.vmulh c t d a b) s = execVmulh c t d a b s := rfl
theorem exec_vmin (c : Ctl) (t : Ty) (d : VReg) (a : VSrc) (b : VSrc) (s : State) :
    exec (.vmin c t d a b) s = execVmin c t d a b s := rfl
theorem exec_vmax (c : Ctl) (t : Ty) (d : VReg) (a : VSrc) (b : VSrc) (s : State) :
    exec (.vmax c t d a b) s = execVmax c t d a b s := rfl
theorem exec_vabs (c : Ctl) (t : Ty) (d : VReg) (a : VSrc) (s : State) :
    exec (.vabs c t d a) s = execVabs c t d a s := rfl
theorem exec_vneg (c : Ctl) (t : Ty) (d : VReg) (a : VSrc) (s : State) :
    exec (.vneg c t d a) s = execVneg c t d a s := rfl
theorem exec_vand (c : Ctl) (t : Ty) (d : VReg) (a : VSrc) (b : VSrc) (s : State) :
    exec (.vand c t d a b) s = execVand c t d a b s := rfl
theorem exec_vor (c : Ctl) (t : Ty) (d : VReg) (a : VSrc) (b : VSrc) (s : State) :
    exec (.vor c t d a b) s = execVor c t d a b s := rfl
theorem exec_vxor (c : Ctl) (t : Ty) (d : VReg) (a : VSrc) (b : VSrc) (s : State) :
    exec (.vxor c t d a b) s = execVxor c t d a b s := rfl
theorem exec_vshl (c : Ctl) (t : Ty) (d : VReg) (a : VSrc) (b : VSrc) (s : State) :
    exec (.vshl c t d a b) s = execVshl c t d a b s := rfl
theorem exec_vshr (c : Ctl) (t : Ty) (d : VReg) (a : VSrc) (b : VSrc) (s : State) :
    exec (.vshr c t d a b) s = execVshr c t d a b s := rfl
theorem exec_vsar (c : Ctl) (t : Ty) (d : VReg) (a : VSrc) (b : VSrc) (s : State) :
    exec (.vsar c t d a b) s = execVsar c t d a b s := rfl
theorem exec_vfadd (c : Ctl) (t : Ty) (d : VReg) (a : VSrc) (b : VSrc) (s : State) :
    exec (.vfadd c t d a b) s = execVfadd c t d a b s := rfl
theorem exec_vfsub (c : Ctl) (t : Ty) (d : VReg) (a : VSrc) (b : VSrc) (s : State) :
    exec (.vfsub c t d a b) s = execVfsub c t d a b s := rfl
theorem exec_vfmul (c : Ctl) (t : Ty) (d : VReg) (a : VSrc) (b : VSrc) (s : State) :
    exec (.vfmul c t d a b) s = execVfmul c t d a b s := rfl
theorem exec_vfma (c : Ctl) (t : Ty) (d : VReg) (a : VSrc) (b : VSrc) (s : State) :
    exec (.vfma c t d a b) s = execVfma c t d a b s := rfl
theorem exec_vfmin (c : Ctl) (t : Ty) (d : VReg) (a : VSrc) (b : VSrc) (s : State) :
    exec (.vfmin c t d a b) s = execVfmin c t d a b s := rfl
theorem exec_vfmax (c : Ctl) (t : Ty) (d : VReg) (a : VSrc) (b : VSrc) (s : State) :
    exec (.vfmax c t d a b) s = execVfmax c t d a b s := rfl
theorem exec_vrcp (c : Ctl) (t : Ty) (d : VReg) (a : VSrc) (s : State) :
    exec (.vrcp c t d a) s = execVrcp c t d a s := rfl
theorem exec_vrsq (c : Ctl) (t : Ty) (d : VReg) (a : VSrc) (s : State) :
    exec (.vrsq c t d a) s = execVrsq c t d a s := rfl
theorem exec_vexp2 (c : Ctl) (t : Ty) (d : VReg) (a : VSrc) (s : State) :
    exec (.vexp2 c t d a) s = execVexp2 c t d a s := rfl
theorem exec_vlog2 (c : Ctl) (t : Ty) (d : VReg) (a : VSrc) (s : State) :
    exec (.vlog2 c t d a) s = execVlog2 c t d a s := rfl
theorem exec_vcvt (c : Ctl) (dt : Ty) (st : Ty) (m : CvtMode) (d : VReg) (a : VSrc) (s : State) :
    exec (.vcvt c dt st m d a) s = execVcvt c dt st m d a s := rfl
theorem exec_vsel (c : Ctl) (t : Ty) (k : BitVec 4) (d : VReg) (a : VSrc) (b : VSrc) (s : State) :
    exec (.vsel c t k d a b) s = execVsel c t k d a b s := rfl
theorem exec_vmov (c : Ctl) (t : Ty) (d : VReg) (a : VSrc) (s : State) :
    exec (.vmov c t d a) s = execVmov c t d a s := rfl
theorem exec_vbcast (c : Ctl) (t : Ty) (d : VReg) (a : Src) (s : State) :
    exec (.vbcast c t d a) s = execVbcast c t d a s := rfl
theorem exec_vbcastLane (c : Ctl) (t : Ty) (d : VReg) (a : VV) (j : WI) (s : State) :
    exec (.vbcastLane c t d a j) s = execVbcastLane c t d a j s := rfl
theorem exec_vidx (c : Ctl) (t : Ty) (d : VReg) (s : State) :
    exec (.vidx c t d) s = execVidx c t d s := rfl
theorem exec_vidxStep (c : Ctl) (t : Ty) (d : VReg) (base : Src) (step : Src) (s : State) :
    exec (.vidxStep c t d base step) s = execVidxStep c t d base step s := rfl
theorem exec_vperm (c : Ctl) (d : VReg) (a : VV) (b : VV) (s : State) :
    exec (.vperm c d a b) s = execVperm c d a b s := rfl
theorem exec_vshuf (c : Ctl) (pat : Shuf) (d : VReg) (a : VV) (s : State) :
    exec (.vshuf c pat d a) s = execVshuf c pat d a s := rfl
theorem exec_vred (c : Ctl) (op : RedOp) (t : Ty) (d : BitVec 5) (a : VV) (s : State) :
    exec (.vred c op t d a) s = execVred c op t d a s := rfl
theorem exec_vscan (c : Ctl) (op : RedOp) (t : Ty) (d : VReg) (a : VV) (s : State) :
    exec (.vscan c op t d a) s = execVscan c op t d a s := rfl
theorem exec_vpack (c : Ctl) (t : Ty) (d : VReg) (a : VReg) (s : State) :
    exec (.vpack c t d a) s = execVpack c t d a s := rfl
theorem exec_vunpack (c : Ctl) (t : Ty) (d : VReg) (a : VV) (s : State) :
    exec (.vunpack c t d a) s = execVunpack c t d a s := rfl
theorem exec_vgath (c : Ctl) (l : BitVec 8) (d : VReg) (tab : VReg) (idx : VV) (s : State) :
    exec (.vgath c l d tab idx) s = execVgath c l d tab idx s := rfl
theorem exec_vscat (c : Ctl) (l : BitVec 8) (tab : VReg) (idx : VV) (a : VSrc) (s : State) :
    exec (.vscat c l tab idx a) s = execVscat c l tab idx a s := rfl
theorem exec_ldsp (c : Ctl) (o : Ord) (d : LdDst) (base : WG) (off : WI) (s : State) :
    exec (.ldsp c o d base off) s = execLdsp c o d base off s := rfl
theorem exec_stsp (c : Ctl) (o : Ord) (base : WG) (off : WI) (a : StSrc) (s : State) :
    exec (.stsp c o base off a) s = execStsp c o base off a s := rfl
theorem exec_atsp (c : Ctl) (o : Ord) (op : AtOp) (d : BitVec 5) (base : WG) (b : Src) (s : State) :
    exec (.atsp c o op d base b) s = execAtsp c o op d base b s := rfl
theorem exec_ldd (c : Ctl) (o : Ord) (d : LdDst) (base : WG) (off : WI) (s : State) :
    exec (.ldd c o d base off) s = execLdd c o d base off s := rfl
theorem exec_std (c : Ctl) (o : Ord) (base : WG) (off : WI) (a : StSrc) (s : State) :
    exec (.std c o base off a) s = execStd c o base off a s := rfl
theorem exec_atd (c : Ctl) (o : Ord) (op : AtOp) (d : BitVec 5) (base : WG) (b : Src) (s : State) :
    exec (.atd c o op d base b) s = execAtd c o op d base b s := rfl
theorem exec_rowadd (c : Ctl) (o : Ord) (t : Ty) (row : BitVec 5) (a : VReg) (s : State) :
    exec (.rowadd c o t row a) s = execRowadd c o t row a s := rfl
theorem exec_rowld (c : Ctl) (o : Ord) (t : Ty) (d : VReg) (row : BitVec 5) (minv : WI) (s : State) :
    exec (.rowld c o t d row minv) s = execRowld c o t d row minv s := rfl
theorem exec_ldh (c : Ctl) (o : Ord) (d : LdDst) (base : WG) (off : WI) (s : State) :
    exec (.ldh c o d base off) s = execLdh c o d base off s := rfl
theorem exec_sth (c : Ctl) (o : Ord) (base : WG) (off : WI) (a : StSrc) (s : State) :
    exec (.sth c o base off a) s = execSth c o base off a s := rfl
theorem exec_ath (c : Ctl) (o : Ord) (op : AtOp) (d : BitVec 5) (base : WG) (b : Src) (s : State) :
    exec (.ath c o op d base b) s = execAth c o op d base b s := rfl
theorem exec_ldp (c : Ctl) (port : BitVec 3) (o : Bool) (d : LdDst) (base : WG) (off : WI) (s : State) :
    exec (.ldp c port o d base off) s = execLdp c port o d base off s := rfl
theorem exec_stp (c : Ctl) (port : BitVec 3) (o : Bool) (base : WG) (off : WI) (a : StSrc) (s : State) :
    exec (.stp c port o base off a) s = execStp c port o base off a s := rfl
theorem exec_atp (c : Ctl) (port : BitVec 3) (o : Bool) (op : AtOp) (d : BitVec 5) (base : WG) (b : Src) (s : State) :
    exec (.atp c port o op d base b) s = execAtp c port o op d base b s := rfl
theorem exec_ldmb (c : Ctl) (d : BitVec 5) (mb : BitVec 15) (word : BitVec 15) (s : State) :
    exec (.ldmb c d mb word) s = execLdmb c d mb word s := rfl
theorem exec_ldmbOut (c : Ctl) (d : BitVec 5) (mb : BitVec 15) (word : BitVec 15) (s : State) :
    exec (.ldmbOut c d mb word) s = execLdmbOut c d mb word s := rfl
theorem exec_stmb (c : Ctl) (mb : BitVec 15) (word : BitVec 15) (a : Src) (s : State) :
    exec (.stmb c mb word a) s = execStmb c mb word a s := rfl
theorem exec_ldcf (c : Ctl) (d : BitVec 5) (num : WI) (s : State) :
    exec (.ldcf c d num) s = execLdcf c d num s := rfl
theorem exec_stcf (c : Ctl) (num : WI) (a : Src) (s : State) :
    exec (.stcf c num a) s = execStcf c num a s := rfl
theorem exec_fence (c : Ctl) (scope : BitVec 3) (classes : BitVec 6) (s : State) :
    exec (.fence c scope classes) s = execFence c scope classes s := rfl
theorem exec_spawn (c : Ctl) (desc : WI) (base : WG) (len : WI) (s : State) :
    exec (.spawn c desc base len) s = execSpawn c desc base len s := rfl
theorem exec_spawnRec (c : Ctl) (src : RecSrc) (s : State) :
    exec (.spawnRec c src) s = execSpawnRec c src s := rfl
theorem exec_spawnr (c : Ctl) (desc : WI) (origin : WI) (shape : WI) (s : State) :
    exec (.spawnr c desc origin shape) s = execSpawnr c desc origin shape s := rfl
theorem exec_spawnd (c : Ctl) (desc : WI) (map : BitVec 5) (shape : WI) (s : State) :
    exec (.spawnd c desc map shape) s = execSpawnd c desc map shape s := rfl
theorem exec_fork (c : Ctl) (entry : WI) (s : State) :
    exec (.fork c entry) s = execFork c entry s := rfl
theorem exec_forkAnchored (c : Ctl) (entry : WI) (base : WG) (len : WI) (s : State) :
    exec (.forkAnchored c entry base len) s = execForkAnchored c entry base len s := rfl
theorem exec_migrate (c : Ctl) (entry : WI) (base : WG) (len : WI) (s : State) :
    exec (.migrate c entry base len) s = execMigrate c entry base len s := rfl
theorem exec_setdep (c : Ctl) (blk : BitVec 5) (count : WI) (s : State) :
    exec (.setdep c blk count) s = execSetdep c blk count s := rfl
theorem exec_setdepHeld (c : Ctl) (blk : BitVec 5) (count : WI) (rec : BitVec 5) (s : State) :
    exec (.setdepHeld c blk count rec) s = execSetdepHeld c blk count rec s := rfl
theorem exec_decr (c : Ctl) (blk : BitVec 5) (s : State) :
    exec (.decr c blk) s = execDecr c blk s := rfl
theorem exec_qcfgThresh (c : Ctl) (addr : WG) (q : WI) (v : WI) (s : State) :
    exec (.qcfgThresh c addr q v) s = execQcfgThresh c addr q v s := rfl
theorem exec_qcfgTickets (c : Ctl) (addr : WG) (q : WI) (v : WI) (s : State) :
    exec (.qcfgTickets c addr q v) s = execQcfgTickets c addr q v s := rfl
theorem exec_qcfgSpbase (c : Ctl) (addr : WG) (q : WI) (v : WI) (s : State) :
    exec (.qcfgSpbase c addr q v) s = execQcfgSpbase c addr q v s := rfl
theorem exec_qcfgSpsize (c : Ctl) (addr : WG) (q : WI) (v : WI) (s : State) :
    exec (.qcfgSpsize c addr q v) s = execQcfgSpsize c addr q v s := rfl
theorem exec_qstat (c : Ctl) (d : Dst) (addr : BitVec 5) (q : WI) (s : State) :
    exec (.qstat c d addr q) s = execQstat c d addr q s := rfl
theorem exec_steal (c : Ctl) (d : VReg) (addr : BitVec 5) (q : WI) (s : State) :
    exec (.steal c d addr q) s = execSteal c d addr q s := rfl
theorem exec_stealAny (c : Ctl) (d : VReg) (addr : BitVec 5) (q : WI) (s : State) :
    exec (.stealAny c d addr q) s = execStealAny c d addr q s := rfl
theorem exec_barArr (c : Ctl) (b : WI) (s : State) :
    exec (.barArr c b) s = execBarArr c b s := rfl
theorem exec_barWait (c : Ctl) (b : WI) (s : State) :
    exec (.barWait c b) s = execBarWait c b s := rfl
theorem exec_barSync (c : Ctl) (b : WI) (s : State) :
    exec (.barSync c b) s = execBarSync c b s := rfl
theorem exec_barcfg (c : Ctl) (b : WI) (count : WI) (barto : WI) (s : State) :
    exec (.barcfg c b count barto) s = execBarcfg c b count barto s := rfl
theorem exec_barrierTimeout (t : Nat) (s : State) :
    exec (.barrierTimeout t) s = execBarrierTimeout t s := rfl
theorem exec_amsg (c : Ctl) (addr : WG) (tag : WI) (rtag : WI) (s : State) :
    exec (.amsg c addr tag rtag) s = execAmsg c addr tag rtag s := rfl
theorem exec_amsgRel (c : Ctl) (addr : WG) (tag : WI) (rtag : WI) (s : State) :
    exec (.amsgRel c addr tag rtag) s = execAmsgRel c addr tag rtag s := rfl
theorem exec_bind (c : Ctl) (addr : WG) (tag : WI) (entry : WI) (s : State) :
    exec (.bind c addr tag entry) s = execBind c addr tag entry s := rfl
theorem exec_unbind (c : Ctl) (addr : WG) (tag : WI) (s : State) :
    exec (.unbind c addr tag) s = execUnbind c addr tag s := rfl
theorem exec_openTx (c : Ctl) (port : BitVec 3) (core : WI) (chan : WI) (s : State) :
    exec (.openTx c port core chan) s = execOpenTx c port core chan s := rfl
theorem exec_openRx (c : Ctl) (port : BitVec 3) (chan : WI) (s : State) :
    exec (.openRx c port chan) s = execOpenRx c port chan s := rfl
theorem exec_close (c : Ctl) (port : BitVec 3) (s : State) :
    exec (.close c port) s = execClose c port s := rfl
theorem exec_spec (c : Ctl) (s : State) :
    exec (.spec c) s = execSpec c s := rfl
theorem exec_commit (c : Ctl) (d : BitVec 5) (s : State) :
    exec (.commit c d) s = execCommit c d s := rfl
theorem exec_abort (c : Ctl) (d : BitVec 5) (s : State) :
    exec (.abort c d) s = execAbort c d s := rfl
theorem exec_slrd (c : Ctl) (j : BitVec 3) (d : LdDst) (sl : SlotOp) (p : Pair) (s : State) :
    exec (.slrd c j d sl p) s = execSlrd c j d sl p s := rfl
theorem exec_slcas (c : Ctl) (j : BitVec 3) (t : Ty) (d : BitVec 5) (sl : SlotOp) (b : Src) (s : State) :
    exec (.slcas c j t d sl b) s = execSlcas c j t d sl b s := rfl
theorem exec_sladd (c : Ctl) (j : BitVec 3) (t : Ty) (d : BitVec 5) (sl : SlotOp) (b : Src) (s : State) :
    exec (.sladd c j t d sl b) s = execSladd c j t d sl b s := rfl
theorem exec_slswap (c : Ctl) (j : BitVec 3) (t : Ty) (d : BitVec 5) (sl : SlotOp) (b : Src) (s : State) :
    exec (.slswap c j t d sl b) s = execSlswap c j t d sl b s := rfl
theorem exec_slboard (c : Ctl) (j : BitVec 3) (d : BitVec 5) (a : SlSrc) (p : Pair) (s : State) :
    exec (.slboard c j d a p) s = execSlboard c j d a p s := rfl
theorem exec_slalight (c : Ctl) (j : BitVec 3) (d : LdDst) (sl : SlotOp) (p : Pair) (s : State) :
    exec (.slalight c j d sl p) s = execSlalight c j d sl p s := rfl
theorem exec_slwait (c : Ctl) (j : BitVec 3) (t : Ty) (d : BitVec 5) (sl : SlotOp) (b : Src) (s : State) :
    exec (.slwait c j t d sl b) s = execSlwait c j t d sl b s := rfl
theorem exec_slwaitRev (c : Ctl) (d : BitVec 5) (sl : SlotOp) (b : Src) (s : State) :
    exec (.slwaitRev c d sl b) s = execSlwaitRev c d sl b s := rfl
theorem exec_slinfoPool (c : Ctl) (d : BitVec 5) (s : State) :
    exec (.slinfoPool c d) s = execSlinfoPool c d s := rfl
theorem exec_slinfoStn (c : Ctl) (d : BitVec 5) (s : State) :
    exec (.slinfoStn c d) s = execSlinfoStn c d s := rfl
theorem exec_slinfoHdr (c : Ctl) (d : BitVec 5) (sl : SlotOp) (s : State) :
    exec (.slinfoHdr c d sl) s = execSlinfoHdr c d sl s := rfl
theorem exec_ldwC (c : Ctl) (f : Ty) (v : VReg) (s : State) :
    exec (.ldwC c f v) s = execLdwC c f v s := rfl
theorem exec_ldwK (c : Ctl) (f : Ty) (v : VReg) (s : State) :
    exec (.ldwK c f v) s = execLdwK c f v s := rfl
theorem exec_ldwg (c : Ctl) (f : Ty) (z : GenMat) (s : State) :
    exec (.ldwg c f z) s = execLdwg c f z s := rfl
theorem exec_ldws (c : Ctl) (v : VReg) (s : State) :
    exec (.ldws c v) s = execLdws c v s := rfl
theorem exec_swpw (c : Ctl) (s : State) :
    exec (.swpw c) s = execSwpw c s := rfl
theorem exec_mma (c : Ctl) (f : Ty) (acc : BitVec 6) (a : VV) (m : WI) (s : State) :
    exec (.mma c f acc a m) s = execMma c f acc a m s := rfl
theorem exec_mmaSc (c : Ctl) (f : Ty) (acc : BitVec 6) (a : VV) (m : WI) (s : State) :
    exec (.mmaSc c f acc a m) s = execMmaSc c f acc a m s := rfl
theorem exec_mmag (c : Ctl) (f : Ty) (acc : BitVec 6) (z : GenMat) (m : WI) (s : State) :
    exec (.mmag c f acc z m) s = execMmag c f acc z m s := rfl
theorem exec_accz (c : Ctl) (acc : BitVec 6) (m : WI) (s : State) :
    exec (.accz c acc m) s = execAccz c acc m s := rfl
theorem exec_accrd (c : Ctl) (t : Ty) (m : CvtMode) (d : VReg) (acc : BitVec 6) (s : State) :
    exec (.accrd c t m d acc) s = execAccrd c t m d acc s := rfl
theorem exec_accwr (c : Ctl) (t : Ty) (acc : BitVec 6) (v : VReg) (s : State) :
    exec (.accwr c t acc v) s = execAccwr c t acc v s := rfl
theorem exec_mstat (c : Ctl) (d : BitVec 5) (n : WI) (s : State) :
    exec (.mstat c d n) s = execMstat c d n s := rfl
theorem exec_engineClaim (core : Nat) (s : State) :
    exec (.engineClaim core) s = execEngineClaim core s := rfl
theorem exec_weightLoadComplete (core : Nat) (s : State) :
    exec (.weightLoadComplete core) s = execWeightLoadComplete core s := rfl
theorem exec_mmaRowEnter (core : Nat) (s : State) :
    exec (.mmaRowEnter core) s = execMmaRowEnter core s := rfl
theorem exec_mmaAccumulationComplete (core : Nat) (s : State) :
    exec (.mmaAccumulationComplete core) s = execMmaAccumulationComplete core s := rfl
theorem exec_cpy (c : Ctl) (grp : BitVec 2) (spc : CpySpace) (d : WG) (a : WG) (len : WI) (s : State) :
    exec (.cpy c grp spc d a len) s = execCpy c grp spc d a len s := rfl
theorem exec_cpyg (c : Ctl) (strict : Bool) (grp : BitVec 2) (spc : CpySpace) (d : CpyDst) (desc : VReg) (s : State) :
    exec (.cpyg c strict grp spc d desc) s = execCpyg c strict grp spc d desc s := rfl
theorem exec_cpyx (c : Ctl) (keep : Bool) (grp : BitVec 2) (d : CpyDst) (desc : VReg) (s : State) :
    exec (.cpyx c keep grp d desc) s = execCpyx c keep grp d desc s := rfl
theorem exec_cpys (c : Ctl) (grp : BitVec 2) (spc : CpySpace) (d : CpyDst) (desc : VReg) (s : State) :
    exec (.cpys c grp spc d desc) s = execCpys c grp spc d desc s := rfl
theorem exec_cbind (c : Ctl) (grp : BitVec 2) (spc : CpySpace) (k_ : BitVec 3) (a : WG) (len : WI) (s : State) :
    exec (.cbind c grp spc k_ a len) s = execCbind c grp spc k_ a len s := rfl
theorem exec_cwait (c : Ctl) (grp : BitVec 2) (n : WI) (s : State) :
    exec (.cwait c grp n) s = execCwait c grp n s := rfl
theorem exec_ccancel (c : Ctl) (grp : BitVec 2) (s : State) :
    exec (.ccancel c grp) s = execCcancel c grp s := rfl
theorem exec_cstat (c : Ctl) (grp : BitVec 2) (d : BitVec 5) (s : State) :
    exec (.cstat c grp d) s = execCstat c grp d s := rfl
theorem exec_copyStart (engine : Nat) (index : Nat) (s : State) :
    exec (.copyStart engine index) s = execCopyStart engine index s := rfl
theorem exec_copyFinish (engine : Nat) (index : Nat) (s : State) :
    exec (.copyFinish engine index) s = execCopyFinish engine index s := rfl
theorem exec_copySourceFault (engine : Nat) (index : Nat) (s : State) :
    exec (.copySourceFault engine index) s = execCopySourceFault engine index s := rfl
theorem exec_streamBytesArrive (engine : Nat) (index : Nat) (s : State) :
    exec (.streamBytesArrive engine index) s = execStreamBytesArrive engine index s := rfl
theorem exec_csrr (c : Ctl) (d : BitVec 5) (num : BitVec 15) (s : State) :
    exec (.csrr c d num) s = execCsrr c d num s := rfl
theorem exec_csrw (c : Ctl) (num : BitVec 15) (a : Src) (s : State) :
    exec (.csrw c num a) s = execCsrw c num a s := rfl
theorem exec_csrwSet (c : Ctl) (num : BitVec 15) (a : Src) (s : State) :
    exec (.csrwSet c num a) s = execCsrwSet c num a s := rfl
theorem exec_csrwClr (c : Ctl) (num : BitVec 15) (a : Src) (s : State) :
    exec (.csrwClr c num a) s = execCsrwClr c num a s := rfl
theorem exec_ecall (c : Ctl) (code : BitVec 15) (s : State) :
    exec (.ecall c code) s = execEcall c code s := rfl
theorem exec_eret (c : Ctl) (s : State) :
    exec (.eret c) s = execEret c s := rfl
theorem exec_tlbinvPage (c : Ctl) (a : BitVec 5) (s : State) :
    exec (.tlbinvPage c a) s = execTlbinvPage c a s := rfl
theorem exec_tlbinvAll (c : Ctl) (s : State) :
    exec (.tlbinvAll c) s = execTlbinvAll c s := rfl
theorem exec_ckpt (c : Ctl) (d : BitVec 5) (s : State) :
    exec (.ckpt c d) s = execCkpt c d s := rfl
theorem exec_budget (t : Nat) (s : State) :
    exec (.budget t) s = execBudget t s := rfl
theorem exec_replyLand (t : Nat) (s : State) :
    exec (.replyLand t) s = execReplyLand t s := rfl
theorem exec_tableWalkComplete (t : Nat) (s : State) :
    exec (.tableWalkComplete t) s = execTableWalkComplete t s := rfl
theorem exec_homeAccept (src : AcceptSrc) (s : State) :
    exec (.homeAccept src) s = execHomeAccept src s := rfl
theorem exec_ckptcfgWrite (p : Nat) (s : State) :
    exec (.ckptcfgWrite p) s = execCkptcfgWrite p s := rfl
theorem exec_dramBankSchedule (home : Nat) (bank : Nat) (s : State) :
    exec (.dramBankSchedule home bank) s = execDramBankSchedule home bank s := rfl
theorem exec_scrubVisit (home : Nat) (s : State) :
    exec (.scrubVisit home) s = execScrubVisit home s := rfl
theorem exec_recordArrival (home : Nat) (loc : Bool) (s : State) :
    exec (.recordArrival home loc) s = execRecordArrival home loc s := rfl
theorem exec_recordResend (core : Nat) (index : Nat) (s : State) :
    exec (.recordResend core index) s = execRecordResend core index s := rfl
theorem exec_queueDecide (home : Nat) (p : Nat) (q : Nat) (s : State) :
    exec (.queueDecide home p q) s = execQueueDecide home p q s := rfl
theorem exec_queuePublication (home : Nat) (s : State) :
    exec (.queuePublication home) s = execQueuePublication home s := rfl
theorem exec_stealDecision (t : Nat) (s : State) :
    exec (.stealDecision t) s = execStealDecision t s := rfl
theorem exec_dispatch (t : Nat) (s : State) :
    exec (.dispatch t) s = execDispatch t s := rfl
theorem exec_cellarSlotDraw (t : Nat) (s : State) :
    exec (.cellarSlotDraw t) s = execCellarSlotDraw t s := rfl
theorem exec_taskStart (t : Nat) (s : State) :
    exec (.taskStart t) s = execTaskStart t s := rfl
theorem exec_counterDecrement (home : Nat) (loc : Bool) (s : State) :
    exec (.counterDecrement home loc) s = execCounterDecrement home loc s := rfl
theorem exec_counterDeposit (home : Nat) (loc : Bool) (s : State) :
    exec (.counterDeposit home loc) s = execCounterDeposit home loc s := rfl
theorem exec_setdepArrival (home : Nat) (loc : Bool) (s : State) :
    exec (.setdepArrival home loc) s = execSetdepArrival home loc s := rfl
theorem exec_launchInstanceArrival (core : Nat) (s : State) :
    exec (.launchInstanceArrival core) s = execLaunchInstanceArrival core s := rfl
theorem exec_runlistAdmit (core : Nat) (s : State) :
    exec (.runlistAdmit core) s = execRunlistAdmit core s := rfl
theorem exec_amArrival (home : Nat) (loc : Bool) (s : State) :
    exec (.amArrival home loc) s = execAmArrival home loc s := rfl
theorem exec_bindArrival (home : Nat) (loc : Bool) (s : State) :
    exec (.bindArrival home loc) s = execBindArrival home loc s := rfl
theorem exec_unbindArrival (home : Nat) (loc : Bool) (s : State) :
    exec (.unbindArrival home loc) s = execUnbindArrival home loc s := rfl
theorem exec_handlerStart (t : Nat) (s : State) :
    exec (.handlerStart t) s = execHandlerStart t s := rfl
theorem exec_messageDelivery (index : Nat) (s : State) :
    exec (.messageDelivery index) s = execMessageDelivery index s := rfl
theorem exec_routeComplete (index : Nat) (s : State) :
    exec (.routeComplete index) s = execRouteComplete index s := rfl
theorem exec_slotPassage (k : Nat) (station : Nat) (s : State) :
    exec (.slotPassage k station) s = execSlotPassage k station s := rfl
theorem exec_slboardPoolFull (t : Nat) (s : State) :
    exec (.slboardPoolFull t) s = execSlboardPoolFull t s := rfl
theorem exec_rollbackEnd (p : Nat) (s : State) :
    exec (.rollbackEnd p) s = execRollbackEnd p s := rfl
theorem exec_unwindEnd (p : Nat) (s : State) :
    exec (.unwindEnd p) s = execUnwindEnd p s := rfl
theorem exec_preemptDrain (p : Nat) (s : State) :
    exec (.preemptDrain p) s = execPreemptDrain p s := rfl
theorem exec_preemptStopNow (p : Nat) (s : State) :
    exec (.preemptStopNow p) s = execPreemptStopNow p s := rfl
theorem exec_preemptMigrate (p : Nat) (s : State) :
    exec (.preemptMigrate p) s = execPreemptMigrate p s := rfl
theorem exec_preemptRestore (p : Nat) (s : State) :
    exec (.preemptRestore p) s = execPreemptRestore p s := rfl
theorem exec_preemptResume (p : Nat) (s : State) :
    exec (.preemptResume p) s = execPreemptResume p s := rfl
theorem exec_drainDone (p : Nat) (s : State) :
    exec (.drainDone p) s = execDrainDone p s := rfl
theorem exec_contextSaveComplete (t : Nat) (s : State) :
    exec (.contextSaveComplete t) s = execContextSaveComplete t s := rfl
theorem exec_restorePlace (p : Nat) (slot : Nat) (s : State) :
    exec (.restorePlace p slot) s = execRestorePlace p slot s := rfl
theorem exec_liveMigrationMove (p : Nat) (s : State) :
    exec (.liveMigrationMove p) s = execLiveMigrationMove p s := rfl
theorem exec_forwardMessage (core : Nat) (index : Nat) (s : State) :
    exec (.forwardMessage core index) s = execForwardMessage core index s := rfl
theorem exec_mailboxTaskPlace (p : Nat) (m : Nat) (s : State) :
    exec (.mailboxTaskPlace p m) s = execMailboxTaskPlace p m s := rfl
theorem exec_replayMessagePlace (p : Nat) (s : State) :
    exec (.replayMessagePlace p) s = execReplayMessagePlace p s := rfl
theorem exec_mailboxBind (p : Nat) (s : State) :
    exec (.mailboxBind p) s = execMailboxBind p s := rfl
theorem exec_spRegionWrite (p : Nat) (s : State) :
    exec (.spRegionWrite p) s = execSpRegionWrite p s := rfl
theorem exec_ptrootWrite (p : Nat) (s : State) :
    exec (.ptrootWrite p) s = execPtrootWrite p s := rfl
theorem exec_stageB (failed : List Nat) (s : State) :
    exec (.stageB failed) s = execStageB failed s := rfl
theorem exec_stageC  (s : State) :
    exec (.stageC) s = execStageC s := rfl
theorem exec_unitFailureReport (p : Nat) (s : State) :
    exec (.unitFailureReport p) s = execUnitFailureReport p s := rfl
theorem exec_mailboxWordWrite (p : Nat) (m : Nat) (j : Nat) (v : W64) (s : State) :
    exec (.mailboxWordWrite p m j v) s = execMailboxWordWrite p m j v s := rfl
theorem exec_mailboxMessageComplete (p : Nat) (m : Nat) (v : W64) (s : State) :
    exec (.mailboxMessageComplete p m v) s = execMailboxMessageComplete p m v s := rfl
theorem exec_mbstatWrite (p : Nat) (m : Nat) (v : W64) (s : State) :
    exec (.mbstatWrite p m v) s = execMbstatWrite p m v s := rfl
theorem exec_hostDmWrite (off : Nat) (bs : List Byte) (s : State) :
    exec (.hostDmWrite off bs) s = execHostDmWrite off bs s := rfl
theorem exec_hostDmRead (x : BarSpan) (s : State) :
    exec (.hostDmRead x) s = execHostDmRead x s := rfl
theorem exec_atsInvalidation (p : Nat) (page : Nat) (s : State) :
    exec (.atsInvalidation p page) s = execAtsInvalidation p page s := rfl
theorem exec_remoteEnqueueIndex (p : Nat) (port : Nat) (va : W64) (ix : W64) (s : State) :
    exec (.remoteEnqueueIndex p port va ix) s = execRemoteEnqueueIndex p port va ix s := rfl
theorem exec_remoteRecordPull (p : Nat) (port : Nat) (recd : Option (List W64)) (s : State) :
    exec (.remoteRecordPull p port recd) s = execRemoteRecordPull p port recd s := rfl
theorem exec_peerFlitFailure (index : Nat) (s : State) :
    exec (.peerFlitFailure index) s = execPeerFlitFailure index s := rfl
theorem exec_attest (ws : List W64) (s : State) :
    exec (.attest ws) s = execAttest ws s := rfl
theorem exec_fwupdate (ws : List W64) (s : State) :
    exec (.fwupdate ws) s = execFwupdate ws s := rfl
theorem exec_zero (ws : List W64) (s : State) :
    exec (.zero ws) s = execZero ws s := rfl
theorem exec_status (ws : List W64) (s : State) :
    exec (.status ws) s = execStatus ws s := rfl
theorem exec_create (ws : List W64) (s : State) :
    exec (.create ws) s = execCreate ws s := rfl
theorem exec_destroy (ws : List W64) (s : State) :
    exec (.destroy ws) s = execDestroy ws s := rfl
theorem exec_grant (ws : List W64) (s : State) :
    exec (.grant ws) s = execGrant ws s := rfl
theorem exec_keyshare (ws : List W64) (s : State) :
    exec (.keyshare ws) s = execKeyshare ws s := rfl
theorem exec_peerbind (ws : List W64) (s : State) :
    exec (.peerbind ws) s = execPeerbind ws s := rfl
theorem exec_preempt (ws : List W64) (s : State) :
    exec (.preempt ws) s = execPreempt ws s := rfl
theorem exec_powercap (ws : List W64) (s : State) :
    exec (.powercap ws) s = execPowercap ws s := rfl
theorem exec_frames (ws : List W64) (s : State) :
    exec (.frames ws) s = execFrames ws s := rfl
theorem exec_tune (ws : List W64) (s : State) :
    exec (.tune ws) s = execTune ws s := rfl
theorem exec_replay (ws : List W64) (s : State) :
    exec (.replay ws) s = execReplay ws s := rfl
theorem exec_reset (firmwareGood : Bool) (s : State) :
    exec (.reset firmwareGood) s = execReset firmwareGood s := rfl
theorem exec_powerOverCap  (s : State) :
    exec (.powerOverCap) s = execPowerOverCap s := rfl
theorem exec_thermalTrip  (s : State) :
    exec (.thermalTrip) s = execThermalTrip s := rfl
theorem exec_peerUnwindToken (port : Nat) (s : State) :
    exec (.peerUnwindToken port) s = execPeerUnwindToken port s := rfl
theorem exec_peerMemoryRequest (p : Nat) (port : Nat) (r : PeerReq) (s : State) :
    exec (.peerMemoryRequest p port r) s = execPeerMemoryRequest p port r s := rfl
theorem exec_atsTranslationComplete (t : Nat) (ok : Bool) (hpage : Nat) (s : State) :
    exec (.atsTranslationComplete t ok hpage) s = execAtsTranslationComplete t ok hpage s := rfl
theorem exec_powerBelowCap  (s : State) :
    exec (.powerBelowCap) s = execPowerBelowCap s := rfl

end Sys2Proof.Machine
end

