-- ==== Sys2Proof/Laws/Run.lean ====
section
/-!
SUPPORT. What an instruction word comes to: the parts of the monad of a meaning, and one law for each way that
`runWord` ends.
-/
namespace Sys2Proof.Machine

open Sys2Proof

/-! ## The monad -/

theorem act_pure {α : Type} (a : α) (s : State) : (pure a : Act α) s = .ok (a, s) := rfl
theorem act_bind {α β : Type} (x : Act α) (f : α → Act β) (s : State) :
    (x >>= f) s = match x s with | .ok (a, s') => f a s' | .error e => .error e := by
  show (x s >>= fun p => f p.1 p.2) = _
  cases x s <;> rfl
theorem act_bind_ok {α β : Type} {x : Act α} {f : α → Act β} {s s' : State} {a : α} (h : x s = .ok (a, s')) :
    (x >>= f) s = f a s' := by rw [act_bind, h]
theorem act_bind_error {α β : Type} {x : Act α} {f : α → Act β} {s : State} {e : Stop} (h : x s = .error e) :
    (x >>= f) s = .error e := by rw [act_bind, h]
theorem act_get (s : State) : (get : Act State) s = .ok (s, s) := rfl
theorem act_set (x s : State) : (set x : Act PUnit) s = .ok (⟨⟩, x) := rfl
theorem act_modify (f : State → State) (s : State) : (modify f : Act PUnit) s = .ok (⟨⟩, f s) := rfl
theorem getMe_run (s : State) : getMe s = .ok (s.me, s) := rfl
theorem modMeA_run (f : Thread → Thread) (s : State) : modMeA f s = .ok ((), s.modMe f) := rfl
theorem raiseA_run (f : Fl) (s : State) : raiseA f s = .ok ((), s.modMe (fun t => t.raise f)) := rfl
theorem setWA_run (r : BitVec 5) (v : W64) (s : State) : setWA r v s = .ok ((), s.modMe (fun t => t.setW r.toNat v)) := rfl
theorem trap_run {α : Type} (code : Nat) (v : W64) (s : State) :
    (trap code v : Act α) s = .error (.trap (fun s => s) code (fun _ => v)) := rfl
theorem trapFix_run {α : Type} (fix : State → State) (code : Nat) (v : State → W64) (s : State) :
    (trapFix fix code v : Act α) s = .error (.trap fix code v) := rfl
theorem block_run {α : Type} (s : State) : (block : Act α) s = .error (.block (fun s => s)) := rfl
theorem blockWith_run {α : Type} (fix : State → State) (s : State) : (blockWith fix : Act α) s = .error (.block fix) := rfl

/-- What a fence holds back goes on where no fence waits (R84). -/
theorem waitFences_run {s : State} (h : s.fencesOver s.cur allPaths = true) : waitFences s = .ok ((), s) := by
  unfold waitFences; simp only [act_bind, act_get, if_pos h, act_pure]
theorem waitFences_blocks {s : State} (h : s.fencesOver s.cur allPaths = false) :
    waitFences s = .error (.block (fun s => s)) := by
  unfold waitFences; simp only [act_bind, act_get, h, Bool.false_eq_true, if_false, block_run]

/-! ## Interlocks -/

theorem owes_mono {t : Thread} {a b : List PReg} (h : ∀ r, r ∈ a → r ∈ b) (hb : t.owes b = false) : t.owes a = false := by
  simp only [Thread.owes, List.any_eq_false, Bool.not_eq_true, List.contains_eq_mem, decide_eq_true_eq] at hb ⊢
  exact fun o ho r hr hc => hb o ho r hr (h r hc)

theorem indexRegs_sub (u : Uses) (t : Thread) (r : PReg) (h : r ∈ u.indexRegs t) : r ∈ u.regs t := by
  simp only [Uses.indexRegs, Uses.regs, List.mem_append, List.mem_flatMap] at h ⊢
  obtain ⟨g, hg, hr⟩ := h
  exact .inr ⟨g, hg, .inl hr⟩

/-! ## How an instruction word ends -/

section
variable {c : Ctl} {lane always : Bool} {u : Uses} {body : W32 → Act Ret} {s s' : State} {r : Ret}

/-- Whether the guard lets the instruction execute. -/
theorem runWord_free (h : s.me.active = false) : runWord c lane always u body s = .fault .slotFree := by
  unfold runWord; simp only [h, if_true]

theorem runWord_execute (ha : s.me.active = true) (hm : (u.matrix && isCellar (coreOf s.cur)) = false)
    (ho : s.me.owes (u.indexRegs s.me) = false) (hv : vregCheck s.me u.groups = none)
    (hg : guardPasses lane (guardOf s.me c) = true) :
    runWord c lane always u body s = .next (runBody u (guardOf s.me c) (body (guardOf s.me c)) s) := by
  unfold runWord
  simp only [ha, hm, ho, hv, hg, Bool.and_false, reduceCtorEq, Bool.false_eq_true, if_false, if_true]

theorem runBody_ok (hc : (if s.me.specOn then u.conflict else none) = none) (ho : s.me.owes (u.regs s.me) = false)
    {b : Act Ret} {g : W32} (hb : b (s.begun u) = .ok (r, s')) :
    runBody u g b s = retire s' r := by
  unfold runBody
  simp only [hc, ho, hb, Bool.false_eq_true, if_false]

theorem runWord_ready (ha : s.me.active = true) (hm : (u.matrix && isCellar (coreOf s.cur)) = false)
    (ho : s.me.owes (u.regs s.me) = false) (hv : vregCheck s.me u.groups = none)
    (hg : guardPasses lane (guardOf s.me c) = true)
    (hc : (if s.me.specOn then u.conflict else none) = none)
    (hb : body (guardOf s.me c) (s.begun u) = .ok (r, s')) :
    runWord c lane always u body s = .next (retire s' r) := by
  rw [runWord_execute ha hm (owes_mono (indexRegs_sub u s.me) ho) hv hg, runBody_ok hc ho hb]

theorem runWord_trap (ha : s.me.active = true) (hm : (u.matrix && isCellar (coreOf s.cur)) = false)
    (ho : s.me.owes (u.regs s.me) = false) (hv : vregCheck s.me u.groups = none)
    (hg : guardPasses lane (guardOf s.me c) = true)
    (hc : (if s.me.specOn then u.conflict else none) = none) {fix : State → State} {code : Nat} {tval : State → W64}
    (hb : body (guardOf s.me c) (s.begun u) = .error (.trap fix code tval)) :
    runWord c lane always u body s =
      .next (takeTrap (fix s) s.cur false code (tval s) (guardOf s.me c) s.me.ip) := by
  rw [runWord_execute ha hm (owes_mono (indexRegs_sub u s.me) ho) hv hg]
  unfold runBody
  simp only [hc, ho, hb, Bool.false_eq_true, if_false]

theorem runWord_block (ha : s.me.active = true) (hm : (u.matrix && isCellar (coreOf s.cur)) = false)
    (ho : s.me.owes (u.regs s.me) = false) (hv : vregCheck s.me u.groups = none)
    (hg : guardPasses lane (guardOf s.me c) = true)
    (hc : (if s.me.specOn then u.conflict else none) = none) {fix : State → State}
    (hb : body (guardOf s.me c) (s.begun u) = .error (.block fix)) :
    runWord c lane always u body s = .next (fix s) := by
  rw [runWord_execute ha hm (owes_mono (indexRegs_sub u s.me) ho) hv hg]
  unfold runBody
  simp only [hc, ho, hb, Bool.false_eq_true, if_false]

/-- A suppressed instruction waits for nothing (R97). -/
theorem runWord_suppressed (ha : s.me.active = true) (hm : (u.matrix && isCellar (coreOf s.cur)) = false)
    (hv : vregCheck s.me u.groups = none)
    (hg : guardPasses lane (guardOf s.me c) = false) :
    runWord c lane false u body s = .next (retire s .seq) := by
  unfold runWord
  simp only [ha, hm, hv, hg, Bool.false_and, reduceCtorEq, Bool.false_eq_true, if_false]

theorem runWord_owes (ha : s.me.active = true) (hm : (u.matrix && isCellar (coreOf s.cur)) = false)
    (hv : vregCheck s.me u.groups = none)
    (hg : guardPasses lane (guardOf s.me c) = true)
    (hc : (if s.me.specOn then u.conflict else none) = none) (ho : s.me.owes (u.regs s.me) = true) :
    runWord c lane always u body s = .next s := by
  by_cases hi : s.me.owes (u.indexRegs s.me) = true
  · unfold runWord
    simp only [ha, hm, hi, hg, Bool.and_self, reduceCtorEq, Bool.false_eq_true, if_false, if_true]
  · rw [runWord_execute ha hm (Bool.eq_false_iff.mpr hi) hv hg]
    unfold runBody
    simp only [hc, ho, if_true]

end

end Sys2Proof.Machine
end

