-- ==== Sys2Proof/Laws/Ready.lean ====
section
/-!
SUPPORT. An instruction word that is `Ready`: it completes as its body says, traps as its body says, or waits.
-/
namespace Sys2Proof.Machine

open Sys2Proof

section
variable {c : Ctl} {lane always : Bool} {u : Uses} {body : W32 → Act Ret} {s s' : State} {r : Ret}

theorem Ready.matrix (h : Ready c lane u s) : (u.matrix && isCellar (coreOf s.cur)) = false := by
  cases hm : u.matrix with
  | false => rfl
  | true => rw [Bool.true_and]; exact h.press hm
theorem Ready.guardB (h : Ready c lane u s) : guardPasses lane (guardOf s.me c) = true := by
  have := h.guard
  cases lane with
  | true => exact bne_iff_ne.mpr this
  | false => exact this
theorem Ready.conflictNone (h : Ready c lane u s) : (if s.me.specOn then u.conflict else none) = none := by
  by_cases hs : s.me.specOn = true
  · rw [if_pos hs]; exact h.allowed hs
  · rw [if_neg hs]

theorem ready_ok (h : Ready c lane u s) (hb : body (guardOf s.me c) (s.begun u) = .ok (r, s')) :
    runWord c lane always u body s = .next (retire s' r) :=
  runWord_ready h.active h.matrix h.landed h.allotted h.guardB h.conflictNone hb

theorem ready_trap (h : Ready c lane u s) {fix : State → State} {code : Nat} {tval : State → W64}
    (hb : body (guardOf s.me c) (s.begun u) = .error (.trap fix code tval)) :
    runWord c lane always u body s = .next (takeTrap (fix s) s.cur false code (tval s) (guardOf s.me c) s.me.ip) :=
  runWord_trap h.active h.matrix h.landed h.allotted h.guardB h.conflictNone hb

theorem ready_block (h : Ready c lane u s) {fix : State → State}
    (hb : body (guardOf s.me c) (s.begun u) = .error (.block fix)) : runWord c lane always u body s = .next (fix s) :=
  runWord_block h.active h.matrix h.landed h.allotted h.guardB h.conflictNone hb

/-- The same three for an instruction; the first argument is its lemma of Laws/Exec.lean. -/
theorem exec_ok {i : Instr} (e : exec i s = runWord c lane always u body s) (h : Ready c lane u s)
    (hb : body (guardOf s.me c) (s.begun u) = .ok (r, s')) : exec i s = .next (retire s' r) := e.trans (ready_ok h hb)
theorem exec_trap {i : Instr} (e : exec i s = runWord c lane always u body s) (h : Ready c lane u s) {fix : State → State}
    {code : Nat} {tval : State → W64} (hb : body (guardOf s.me c) (s.begun u) = .error (.trap fix code tval)) :
    exec i s = .next (takeTrap (fix s) s.cur false code (tval s) (guardOf s.me c) s.me.ip) := e.trans (ready_trap h hb)
theorem exec_block {i : Instr} (e : exec i s = runWord c lane always u body s) (h : Ready c lane u s) {fix : State → State}
    (hb : body (guardOf s.me c) (s.begun u) = .error (.block fix)) : exec i s = .next (fix s) := e.trans (ready_block h hb)

/-- An instruction whose encoding no feature gates begins in the state it finds. -/
theorem begun_none (h : u.feats = []) : s.begun u = s := by unfold State.begun; rw [h]

end

end Sys2Proof.Machine
end

