-- ==== Sys2Proof/Laws/Forms.lean ====
section
/-!
SUPPORT. Every instruction word runs as its form says: one lemma for all of them, and what follows where the guard fails
or a register named is owed.
-/
namespace Sys2Proof.Machine

open Sys2Proof

section
variable {i : Instr} {s : State} {f : WordForm}

theorem exec_form (h : wordForm s i = some f) : ∃ body, exec i s = runWord f.ctl f.lane f.always f.uses body s := by
  cases i <;> (try cases ‹SlSrc›) <;> injection h <;> subst f <;>
    simp only [exec, execNop, execBr, execBrLong, execBrx, execCall, execCallLong, execCallx, execRet, execLoop, execDone,
    execDoneJ, execYield, execBrk, execCmp, execCmpf, execVcmp, execVcmpf, execPlog, execPmov, execPmovFromW,
    execPmovToW, execPcnt, execPfirst, execPset, execPsetFirst, execAdd, execSub, execMul, execMulh, execDiv,
    execRem, execAnd, execOr, execXor, execAndn, execShl, execShr, execSar, execRot, execMin, execMax, execClz,
    execPopc, execSel, execMov, execMovi, execMoviH, execLea, execLeaScaled, execBext, execBins, execSext,
    execZext, execFadd, execFsub, execFmul, execFfma, execFcvt, execVadd, execVsub, execVmul, execVmulh,
    execVmin, execVmax, execVabs, execVneg, execVand, execVor, execVxor, execVshl, execVshr, execVsar,
    execVfadd, execVfsub, execVfmul, execVfma, execVfmin, execVfmax, execVrcp, execVrsq, execVexp2, execVlog2,
    execVcvt, execVsel, execVmov, execVbcast, execVbcastLane, execVidx, execVidxStep, execVperm, execVshuf,
    execVred, execVscan, execVpack, execVunpack, execVgath, execVscat, execLdsp, execStsp, execAtsp, execLdd,
    execStd, execAtd, execRowadd, execRowld, execLdh, execSth, execAth, execLdp, execStp, execAtp, execLdmb,
    execLdmbOut, execStmb, execLdcf, execStcf, execFence, execSpawn, execSpawnRec, execSpawnr, execSpawnd,
    execFork, execForkAnchored, execMigrate, execSetdep, execSetdepHeld, execDecr, execQcfgThresh,
    execQcfgTickets, execQcfgSpbase, execQcfgSpsize, execQstat, execSteal, execStealAny, execBarArr,
    execBarWait, execBarSync, execBarcfg, execAmsg, execAmsgRel, execBind, execUnbind, execOpenTx, execOpenRx,
    execClose, execSpec, execCommit, execAbort, execSlrd, execSlcas, execSladd, execSlswap, execSlboard,
    execSlalight, execSlwait, execSlwaitRev, execSlinfoPool, execSlinfoStn, execSlinfoHdr, execLdwC, execLdwK,
    execLdwg, execLdws, execSwpw, execMma, execMmaSc, execMmag, execAccz, execAccrd, execAccwr, execMstat,
    execCpy, execCpyg, execCpyx, execCpys, execCbind, execCwait, execCcancel, execCstat, execCsrr, execCsrw,
    execCsrwSet, execCsrwClr, execEcall, execEret, execTlbinvPage, execTlbinvAll, execCkpt, describedCopy,
    laneBin, laneCompare, laneInt, laneUn, loadW, scalarBin, scalarCompare, scalarInt, scalarUn, sendAmsg,
    sendQcfg, sendSteal, writeSys, runScalar, runLane] <;> exact ⟨_, rfl⟩

/-- A word whose guard fails only passes, once the checks that come before its guard are passed. -/
theorem exec_suppressed (h : wordForm s i = some f) (hw : f.always = false) (ha : s.me.active = true)
    (hm : (f.uses.matrix && isCellar (coreOf s.cur)) = false) (hv : vregCheck s.me f.uses.groups = none)
    (hg : guardPasses f.lane (guardOf s.me f.ctl) = false) :
    exec i s = .next (retire s .seq) := by
  obtain ⟨body, hb⟩ := exec_form h
  rw [hb, hw]
  exact runWord_suppressed ha hm hv hg

/-- A word that executes waits while a register it names is owed. -/
theorem exec_owes (h : wordForm s i = some f) (ha : s.me.active = true)
    (hm : (f.uses.matrix && isCellar (coreOf s.cur)) = false) (hv : vregCheck s.me f.uses.groups = none)
    (hg : guardPasses f.lane (guardOf s.me f.ctl) = true)
    (hc : (if s.me.specOn then f.uses.conflict else none) = none) (ho : s.me.owes (f.uses.regs s.me) = true) :
    exec i s = .next s := by
  obtain ⟨body, hb⟩ := exec_form h
  rw [hb]
  exact runWord_owes ha hm hv hg hc ho

end

end Sys2Proof.Machine
end

