-- ==== Sys2Proof/Laws/Hash.lean ====
section
/-!
SUPPORT. SHAKE256: a digest has 64 bytes, whatever is measured.
-/
namespace Sys2Proof.Machine

open Sys2Proof

theorem keccakRound_length (a : List W64) (rc : W64) : (keccakRound a rc).length = 25 := rfl

theorem keccakF_length (a : List W64) : (keccakF a).length = 25 := rfl

theorem shakeAbsorb_length (a : List W64) (b : List Byte) : (shakeAbsorb a b).length = 25 := keccakF_length _

theorem foldl_absorb_length (a : List W64) (bs : List (List Byte)) (h : a.length = 25) :
    (bs.foldl shakeAbsorb a).length = 25 := by
  induction bs generalizing a with
  | nil => exact h
  | cons b bs ih => exact ih _ (shakeAbsorb_length a b)

theorem leBytes_length (n w : Nat) : (leBytes n w).length = n := by
  induction n generalizing w with
  | zero => rfl
  | succ n ih => simp [leBytes, ih]

theorem wordsBytes_length (ws : List W64) : (wordsBytes ws).length = 8 * ws.length := by
  induction ws with
  | nil => rfl
  | cons w ws ih =>
    have h : wordsBytes (w :: ws) = wordBytes w ++ wordsBytes ws := rfl
    rw [h, List.length_append, ih]; simp only [wordBytes, leBytes_length, List.length_cons]; omega

theorem shake256_length (bs : List Byte) : (shake256 bs).length = 64 := by
  unfold shake256
  rw [wordsBytes_length, List.length_take, foldl_absorb_length _ _ (by simp)]
  rfl

end Sys2Proof.Machine
end

