-- ==== Sys2Proof/Laws/Memory.lean ====
section
/-!
SUPPORT. Memory: every operation on it keeps the canonical form; what a store performed changes, with no log in force.
-/
namespace Sys2Proof.Machine

open Sys2Proof

theorem reset_memOk : State.reset.memOk = true := rfl

theorem Memory.wf_writeSome {m : Memory} (h : Memory.wf m = true) (a : Nat) (d : List (Option Byte)) :
    Memory.wf (writeSome m a d) = true := by
  induction d generalizing m a with
  | nil => exact h
  | cons b bs ih =>
    cases b with
    | none => exact ih h (a + 1)
    | some b => exact ih (Memory.wf_write h a b) (a + 1)

/-- Bytes that are all given are written as `writeN` writes them. -/
theorem writeSome_map_some (m : Memory) (a : Nat) (bs : List Byte) : writeSome m a (bs.map some) = m.writeN a bs := by
  induction bs generalizing m a with
  | nil => rfl
  | cons b bs ih => exact ih _ _

/-- What a byte reads as after bytes have been written. -/
theorem Memory.read_writeN (m : Memory) (k : Nat) (bs : List Byte) (a : Nat) :
    (m.writeN k bs).read a = if k ≤ a ∧ a < k + bs.length then bs.getD (a - k) 0#8 else m.read a := by
  induction bs generalizing m k with
  | nil => rw [if_neg (by simp)]; rfl
  | cons b bs ih =>
    simp only [Memory.writeN, ih, Memory.read_write, List.length_cons]
    by_cases h : k = a
    · subst h; rw [if_neg (by omega), if_pos rfl, if_pos (by omega)]; simp
    · by_cases h2 : k + 1 ≤ a ∧ a < k + 1 + bs.length
      · rw [if_pos h2, if_pos (by omega)]
        obtain ⟨n, rfl⟩ : ∃ n, a = k + 1 + n := ⟨a - (k + 1), by omega⟩
        rw [show k + 1 + n - k = n + 1 by omega, show k + 1 + n - (k + 1) = n by omega]; rfl
      · rw [if_neg h2, if_neg h, if_neg (by omega)]

/-! ## Requests at DRAM (R178) -/

/-- All that a DRAM request on its way changes: the clock of its home, and the requests that wait for a bank there. -/
theorem noteDram_leaves (s : State) (h line : Nat) (tag : W32) :
    ∃ t d, noteDram s h line tag = { s with freeCtr := s.freeCtr + 1 }.modHome (homeEp h) (fun x => { x with now := t, dram := d }) :=
  ⟨_, _, rfl⟩

/-- What the requests of an access leave at every home: poison, errors, logs, ports and queues; and all else. -/
theorem noteSpans_leaves (s : State) (h : Nat) (spans : List (Nat × Nat)) (tag : W32) :
    let s' := noteSpans s h spans tag
    (∀ e, (s'.home e).poisoned = (s.home e).poisoned ∧ (s'.home e).ecc = (s.home e).ecc ∧ (s'.home e).logs = (s.home e).logs ∧
      (s'.home e).router = (s.home e).router ∧ (s'.home e).local_ = (s.home e).local_ ∧ (s'.home e).queues = (s.home e).queues) ∧
    s'.mem = s.mem ∧ s'.parts = s.parts ∧ s'.threads = s.threads ∧ s'.cores = s.cores ∧ s'.net = s.net := by
  unfold noteSpans
  induction spans.flatMap (fun x => linesOf x.1 x.2) generalizing s with
  | nil => simp
  | cons l ls ih =>
    obtain ⟨t, d, h1⟩ := noteDram_leaves s h l tag
    have h2 := ih (noteDram s h l tag)
    simp only [List.foldl_cons, h1] at h2 ⊢
    obtain ⟨hh, h3⟩ := h2
    refine ⟨fun e => ?_, h3⟩
    have he : ∀ e, (({ s with freeCtr := s.freeCtr + 1 } : State).modHome (homeEp h) (fun x => { x with now := t, dram := d })).home e =
        if homeEp h = e then { s.home e with now := t, dram := d } else s.home e := by
      intro e; rw [State.modHome_eq, State.home_setHome]; split
      · subst_vars; rfl
      · rfl
    have := hh e
    rw [he] at this
    split at this <;> exact this

/-- The requests of an access make no line poisoned, and clear none. -/
theorem locBad_noteLoc (s : State) (a b : Loc) (m n : Nat) (tag : W32) : locBad (noteLoc s a m tag) b n = locBad s b n := by
  cases a with
  | sp _ => rfl
  | dm l =>
    obtain ⟨h, hm, -⟩ := noteSpans_leaves s l.home (readSpans s l m) tag
    cases b with
    | sp _ => rfl
    | dm k =>
      simp only [noteLoc]
      generalize noteSpans s l.home (readSpans s l m) tag = s' at h hm
      simp only [locBad, readSpans, spanBad, hm, (h _).1, (h _).2.1]

/-- The same of a row. -/
theorem rowBad_noteSpans (s : State) (h : Nat) (spans : List (Nat × Nat)) (l : DmLoc) (tag : W32) :
    rowBad (noteSpans s h spans tag) l = rowBad s l := by
  obtain ⟨hh, -⟩ := noteSpans_leaves s h spans tag
  simp only [rowBad, spanBad, (hh _).1, (hh _).2.1]
/-! ## The log (R180) -/

theorem foldl_fixed {α β : Type} (f : β → α → β) (b : β) (l : List α) (h : ∀ a ∈ l, f b a = b) : l.foldl f b = b := by
  induction l with
  | nil => rfl
  | cons a l ih => rw [List.foldl_cons, h a (List.mem_cons_self ..), ih (fun x hx => h x (List.mem_cons_of_mem _ hx))]

/-- A partition with no log logs nothing. -/
theorem logLine_off {s : State} {h p line : Nat} (hp : logCnt (s.prt p) = 0) : logLine s h p line = s := by
  unfold logLine; simp only [if_pos hp]

theorem logLines_off {s : State} {h : Nat} {ps ls : List Nat} (hp : ∀ q ∈ ps, logCnt (s.prt q) = 0) :
    logLines s h ps ls = s :=
  foldl_fixed _ _ _ (fun p hq => foldl_fixed _ _ _ (fun _ _ => logLine_off (hp p hq)))

/-- The close of an interval leaves memory. -/
theorem closeIfFull_mem (s : State) (h p : Nat) : (closeIfFull s h p).mem = s.mem := by
  unfold closeIfFull; dsimp only; split <;> rfl

theorem closeFull_mem (s : State) (h : Nat) (ps : List Nat) : (closeFull s h ps).mem = s.mem := by
  unfold closeFull
  induction ps generalizing s with
  | nil => rfl
  | cons p ps ih => rw [List.foldl_cons, ih, closeIfFull_mem]

/-- What a fold keeps at each step it keeps. -/
theorem foldl_keeps {α β γ : Type} (f : β → α → β) (g : β → γ) (h : ∀ b a, g (f b a) = g b) (l : List α) (b : β) :
    g (l.foldl f b) = g b := by
  induction l generalizing b with
  | nil => rfl
  | cons a l ih => rw [List.foldl_cons, ih, h]

/-- A span written with no log in force: exactly its bytes. -/
theorem writeSpan_mem {s : State} {h : Nat} {ps : List Nat} {a : Nat} {d : List (Option Byte)}
    (hp : ∀ q ∈ ps, logCnt (s.prt q) = 0) : (writeSpan s h ps a d).mem = writeSome s.mem a d := by
  unfold writeSpan; dsimp only
  rw [logLines_off hp]
  exact foldl_keeps (fun s l => clearPoison s h (64 * l) 64) State.mem (fun _ _ => rfl) _ _

theorem writeSpan_prt {s : State} {h : Nat} {ps : List Nat} {a : Nat} {d : List (Option Byte)}
    (hp : ∀ q ∈ ps, logCnt (s.prt q) = 0) (q : Nat) : (writeSpan s h ps a d).prt q = s.prt q := by
  unfold writeSpan; dsimp only
  rw [logLines_off hp]
  exact foldl_keeps (fun s l => clearPoison s h (64 * l) 64) (fun s => s.prt q) (fun _ _ => rfl) _ _

end Sys2Proof.Machine
end

