-- ==== Sys2Proof/Laws/Send.lean ====
section
/-!
SUPPORT. What an instruction reads of its operands before it sends, and what sending does when nothing holds it up.
-/
namespace Sys2Proof.Machine

open Sys2Proof

/-- The first part of a meaning goes through; the rest decides. -/
theorem act_bind_run {α β : Type} {x : Act α} {f : α → Act β} {s s' : State} {a : α} {r : Except Stop (β × State)}
    (h : x s = .ok (a, s')) (k : f a s' = r) : (x >>= f) s = r := (act_bind_ok h).trans k

/-! ## The state in which an instruction begins (R345: only FEATUSED differs) -/

theorem begun_me (u : Uses) (s : State) : ∃ f, (s.begun u).me = { s.me with featUsed := f } := by
  unfold State.begun
  have h : ∀ (fs : List Nat) (t : Thread), ∃ f, noteFeats t fs = { t with featUsed := f } := by
    intro fs; induction fs with
    | nil => intro t; exact ⟨t.featUsed, rfl⟩
    | cons a l ih =>
      intro t
      obtain ⟨f, hf⟩ := ih { t with featUsed := t.featUsed ||| (1#64 <<< a) }
      exact ⟨f, hf⟩
  cases hu : u.feats with
  | nil => exact ⟨s.me.featUsed, rfl⟩
  | cons a l =>
    obtain ⟨f, hf⟩ := h (a :: l) s.me
    refine ⟨f, ?_⟩
    rw [← hf]
    exact State.thr_setThr_self _ _ _

theorem begun_wgVal (u : Uses) (s : State) (b : WG) : wgVal (s.begun u).me b = wgVal s.me b := by
  obtain ⟨f, hf⟩ := begun_me u s; rw [hf]; cases b <;> rfl
theorem begun_wiVal (u : Uses) (s : State) (b : WI) : wiVal (s.begun u).me b = wiVal s.me b := by
  obtain ⟨f, hf⟩ := begun_me u s; rw [hf]; cases b <;> rfl
theorem begun_wiNat (u : Uses) (s : State) (b : WI) : wiNat (s.begun u).me b = wiNat s.me b := by
  obtain ⟨f, hf⟩ := begun_me u s; rw [hf]; cases b <;> rfl
theorem begun_w (u : Uses) (s : State) (b : Nat) : (s.begun u).me.w b = s.me.w b := by
  obtain ⟨f, hf⟩ := begun_me u s; rw [hf]; rfl
theorem begun_kind (u : Uses) (s : State) : (s.begun u).me.kind = s.me.kind := by
  obtain ⟨f, hf⟩ := begun_me u s; rw [hf]

/-! ## Operands -/

theorem readWG_run (base : WG) (s : State) : readWG base s = .ok (wgVal s.me base, s) := by cases base <;> rfl
theorem readWI_run (x : WI) (s : State) : readWI x s = .ok (wiVal s.me x, s) := by cases x <;> rfl
theorem readEntry_run (x : WI) (s : State) : readEntry x s = .ok (entryVal s.me x, s) := by cases x <;> rfl
theorem eaOf_run (base : WG) (off : WI) (s : State) :
    eaOf base off s = .ok ((wgVal s.me base + wiVal s.me off).toNat, s) := by cases base <;> cases off <;> rfl
theorem spEaOf_run (base : WG) (off : WI) (n : Nat) (s : State) :
    spEaOf base off n s = .ok ((wgVal s.me base + wiVal s.me off * w64 n).toNat % 2 ^ 32, s) := by
  cases base <;> cases off <;> rfl
theorem readLimit_run {op fn wher lim : Nat} {x : WI} {s : State} (h : wiWithin s.me lim x) :
    readLimit op fn wher lim x s = .ok (wiNat s.me x, s) := by
  cases x with
  | imm v => rfl
  | w r =>
    unfold wiWithin at h
    simp only [readLimit, act_bind, getMe_run, wiNat, if_pos h]; rfl
theorem readLen_run {op fn : Nat} {x : WI} {s : State} (h : wiWithin s.me (2 ^ 32 - 1) x) :
    readLen op fn x s = .ok (w64 (wiNat s.me x), s) := by
  unfold readLen; simp only [act_bind, readLimit_run h, act_pure]
theorem cfNumber_run {s : State} {num : WI} (h : wiNat s.me num < 2 ^ 15) : cfNumber num s = .ok (wiNat s.me num, s) := by
  cases num with
  | imm v => rfl
  | w r => simp only [cfNumber, act_bind, getMe_run, wiNat] at h ⊢; rw [if_pos h]; rfl
theorem checkHandlerMb_run {s : State} (h : s.me.kind ≠ .handler) : checkHandlerMb s = .ok ((), s) := by
  unfold checkHandlerMb; simp only [act_bind, getMe_run, if_neg h, act_pure]
theorem checkHandlerSpace_run {s : State} {v : W64} (h : s.me.kind ≠ .handler) : checkHandlerSpace v s = .ok ((), s) := by
  unfold checkHandlerSpace; simp only [act_bind, getMe_run, if_neg h, act_pure]

/-! ## Sending (R82, R97, R294) -/

theorem waitSend_run {p : Path} {rel : Bool} {s : State} (h : s.maySend p rel) : waitSend p rel s = .ok ((), s) := by
  obtain ⟨h1, h2⟩ := h
  unfold waitSend
  simp only [act_bind, act_get]
  have : (s.pathOpen s.cur p && !(rel && s.pending s.me.task [p])) = true := by
    rw [h1]; cases rel
    · rfl
    · rw [h2 rfl]; rfl
  rw [if_pos this]; rfl

theorem waitRecord_run {s : State} (h : s.recordWaits = false) : waitRecord s = .ok ((), s) := by
  unfold waitRecord; simp only [act_bind, act_get, h, Bool.false_eq_true, if_false, act_pure]
theorem waitAccess_run {p : Path} {s : State} (h : s.accessOpen s.cur p = true) : waitAccess p s = .ok ((), s) := by
  unfold waitAccess; simp only [act_bind, act_get, if_pos h, act_pure]
theorem waitMove_run {s : State} (h : s.moveDrained s.cur = true) : waitMove s = .ok ((), s) := by
  unfold waitMove; simp only [act_bind, act_get, if_pos h, act_pure]

theorem sendLoad_run {p : Path} {dst : Nat} {req : Req} {d : LdDst} {g : W32} {acq : Bool} {space a : Nat} {s : State}
    (h : s.maySend p false) :
    sendLoad p dst req d g acq space a s = .ok (.seq, s.sentLoad p dst req d g acq space a) := by
  unfold sendLoad
  repeat (refine act_bind_run (getMe_run _) ?_)
  refine act_bind_run (waitSend_run h) ?_
  rfl

theorem sendAtomic_run {p : Path} {dst : Nat} {req : Req} {d : BitVec 5} {acq rel : Bool} {s : State} (h : s.maySend p rel) :
    sendAtomic p dst req d acq rel s = .ok (.seq, s.sentWord p dst req d acq) := by
  unfold sendAtomic
  repeat (refine act_bind_run (getMe_run _) ?_)
  refine act_bind_run (waitSend_run h) ?_
  rfl

theorem sendStore_run {p : Path} {dst : Nat} {req : Req} {rel : Bool} {space a : Nat} {data : List (Option Byte)} {s : State}
    (h : s.maySendOrHold p rel) :
    sendStore p dst req rel space a data s = .ok (.seq, s.sentOrHeld ⟨[s.mkMsg p dst 0 req], rel, false, space, a, data⟩) := by
  unfold sendStore State.sentOrHeld
  unfold State.maySendOrHold at h
  simp only [act_bind, act_get]
  by_cases hs : s.me.specOn = true
  · rw [if_pos hs] at h
    simp only [hs, if_true, act_bind, sendOrHold, act_get, holdA, if_neg (Nat.not_le.mpr h), modMeA_run, act_pure]
  · rw [if_neg hs] at h
    simp only [if_neg hs]
    refine act_bind_run (waitSend_run h) ?_
    simp only [act_bind, sendOrHold, act_get, if_neg hs, act_modify, act_pure]
    rfl

theorem sendRegRead_run {dst : Nat} {req : Req} {d : BitVec 5} {fill : PReg → Fill} {acq : Bool} {s : State}
    (h : s.maySend .ls false) : sendRegRead dst req d fill acq s = .ok (.seq, s.sentReg .ls dst req d fill acq) := by
  unfold sendRegRead
  repeat (refine act_bind_run (getMe_run _) ?_)
  refine act_bind_run (waitSend_run h) ?_
  rfl
theorem sendWordRead_run {dst : Nat} {req : Req} {d : BitVec 5} {s : State} (h : s.maySend .ls false) :
    sendWordRead dst req d s = .ok (.seq, s.sentWord .ls dst req d false) := sendRegRead_run h

theorem sendWordWrite_run {dst : Nat} {req : Req} {s : State} (h : s.maySend .ls false) :
    sendWordWrite dst req s = .ok (.seq, s.post (s.mkMsg .ls dst 0 req)) := by
  unfold sendWordWrite
  repeat (refine act_bind_run (getMe_run _) ?_)
  refine act_bind_run (waitSend_run h) ?_
  rfl

/-! ## A record counts in OUT once (R203, R214) -/

/-- Where OUT has room, or the instruction has its place already, the record counts, once. -/
theorem countOut_run {s : State}
    (h : s.me.outTaken = true ∨ (s.core (coreOf s.cur)).spawnOut < (s.core (coreOf s.cur)).limit) :
    countOut s = .ok ((), s.takeOut.modMe (fun t => { t with outTaken := false })) := by
  unfold countOut
  have hc : (!s.me.outTaken && decide ((s.core (coreOf s.cur)).limit ≤ (s.core (coreOf s.cur)).spawnOut)) = false := by
    rcases h with h | h
    · rw [h]; rfl
    · rw [decide_eq_false (Nat.not_le.mpr h), Bool.and_false]
  simp only [act_bind, act_get, hc, Bool.false_eq_true, if_false]
  rfl
theorem countOut_blocks {s : State} (h : s.me.outTaken = false)
    (hl : (s.core (coreOf s.cur)).limit ≤ (s.core (coreOf s.cur)).spawnOut) : countOut s = .error (.block (fun s => s)) := by
  unfold countOut
  simp only [act_bind, act_get, h, decide_eq_true hl, Bool.not_false, Bool.and_self, if_true, block_run]
theorem takeOut_taken {s : State} (h : s.me.outTaken = true) : s.takeOut = s := by unfold State.takeOut; rw [if_pos h]
theorem takeOut_new {s : State} (h : s.me.outTaken = false) :
    s.takeOut = s.modCore (coreOf s.cur) (fun c => { c with spawnOut := c.spawnOut + 1 }) := by
  unfold State.takeOut; rw [h]; rfl
/-- A thread that holds no place in OUT has none to give back. -/
theorem dropOut_none {s : State} {t : Nat} (h : (s.thr t).outTaken = false) : dropOut t s = s := by
  unfold dropOut; rw [h]; rfl

end Sys2Proof.Machine
end

