-- ==== Sys2Proof/Tests/Slice0.lean ====
section
/-!
SUPPORT. Tests of the model: words written out from the encoding tables of spec/, terms that have no encoding, the worked
examples of the rules, and states that meet the hypotheses of the statements.
-/
namespace Sys2Proof.Tests

set_option Elab.async false

open Sys2Proof Sys2Proof.Machine

/-! ## Words (R28, R32, R33) -/

/-- The canonical guard, and one that lets nothing execute. -/
def g1 : Ctl := ⟨0xFF#8, 0, 0, 0, 0⟩
def g0 : Ctl := ⟨0x00#8, 0, 0, 0, 0⟩

/-- A word with the canonical guard: OP, FN, D, A and B in their places (R28). -/
def wd (op fn d a b : Nat) : BitVec 96 := BitVec.ofNat 96 (op * 2 ^ 88 + fn * 2 ^ 80 + 0xFF * 2 ^ 72 + d * 2 ^ 36 + a * 2 ^ 18 + b)

/-- The operand kinds of R32, and the classes of R33: v, v[w+off], immediate, p, pair, q, s, n, acc, g, slot. -/
def kV (n : Nat) : Nat := 0x08000 + n
def kX (w off : Nat) : Nat := 0x10000 + 32 * off + w
def kI (n : Nat) : Nat := 0x18000 + n
def kP (n : Nat) : Nat := 0x20000 + n
def kPP (t f : Nat) : Nat := 0x20000 + 16 * f + t
def kQ (n : Nat) : Nat := 0x20400 + n
def kS (n : Nat) : Nat := 0x20800 + n
def kN (n : Nat) : Nat := 0x20C00 + n
def kAcc (n : Nat) : Nat := 0x21000 + n
def kL (n : Nat) : Nat := 0x21400 + n
def kG (n : Nat) : Nat := 0x28000 + n
def kSl (n : Nat) : Nat := 0x30000 + n

/-- Every word of a list decodes to the instruction beside it. -/
def allDecode (l : List (BitVec 96 × Instr)) : Bool :=
  l.all (fun p => match decodeWord acceptAll p.1 with | .ok i => decide (i = p.2) | .error _ => false)

def vr (n : Nat) : VReg := .v (BitVec.ofNat 11 n)
def vs (n : Nat) : VSrc := .reg (vr n)
def vv (n : Nat) : VV := .reg (vr n)
def o0 : Ord := ⟨none, none, false⟩

/-- The control instructions (R108). -/
theorem test_decode_control : allDecode
    [(wd 0x01 0x00 0 0 0, .nop g1), (wd 0x02 0x00 0 (kI 0x7FFF) 0, .br g1 0x7FFF), (wd 0x02 0x80 0 1 2, .brLong g1 0x000040002),
     (wd 0x03 0x00 9 0 0, .brx g1 9), (wd 0x04 0x00 0 (kI 6) 0, .call g1 6), (wd 0x04 0x80 0 0x20000 0, .callLong g1 0x800000000),
     (wd 0x05 0x00 31 0 0, .callx g1 31), (wd 0x06 0x00 7 0 0, .ret g1 7), (0x0700FF00000000B600300000, .loop g1 (.w 11) 12),
     (wd 0x08 0x00 0 0 0, .done g1), (wd 0x08 0x01 5 0 0, .doneJ g1 5), (wd 0x09 0x00 0 0 0, .yield g1),
     (wd 0x0A 0x00 (kI 3) 0 0, .brk g1 3)] = true := by decide +kernel

/-- Predicates (R113 to R118). -/
theorem test_decode_predicates : allDecode
    [(0x1023FF000020043000218000, .cmp g1 .lt .i64 ⟨3, 4⟩ (.w 8) (.imm 0)),
     (wd 0x11 0x1D (kPP 1 0) 2 (kG 3), .cmpf g1 .olt .f32 ⟨1, 0⟩ (.w 2) (.g 3)),
     (wd 0x12 0x86 (kPP 5 6) (kV 2) (kX 3 4), .vcmp g1 .hi .b32 ⟨5, 6⟩ (vs 2) (.reg (.vi 3 4))),
     (wd 0x13 0x3C (kPP 5 6) (kV 2) (kI 1), .vcmpf g1 .uno .bf16 ⟨5, 6⟩ (vs 2) (.sc (.imm 1))),
     (wd 0x14 0xE8 (kP 4) (kP 1) (kP 2), .plog g1 0xE8 4 1 2), (wd 0x15 0x00 (kP 4) (kP 1) 0, .pmov g1 4 1),
     (wd 0x15 0x01 (kP 4) 9 0, .pmovFromW g1 4 9), (wd 0x15 0x02 9 (kP 4) 0, .pmovToW g1 9 4),
     (wd 0x16 0x00 9 (kP 0) 0, .pcnt g1 (.w 9) 0), (wd 0x17 0x00 (kQ 2) (kP 3) 0, .pfirst g1 (.q 2) 3),
     (wd 0x18 0x00 (kP 2) (kI 0x7FFF) 0, .pset g1 2 0x7FFF), (wd 0x18 0x01 (kP 6) 9 0, .psetFirst g1 6 (.w 9))] = true := by
  decide +kernel

/-- Scalar arithmetic (R119 to R124). -/
theorem test_decode_scalar : allDecode
    [(0x2003FF000440009000258001, .add ⟨0xFF, 0, 0, 0, 0x11⟩ .i64 (.w 9) (.w 9) (.imm 1)),
     (wd 0x21 0x02 (kN 1) (kS 2) (kN 3), .sub g1 .i32 (.n 1) (.s 2) (.n 3)), (wd 0x22 0x07 1 2 3, .mul g1 .b64 (.w 1) (.w 2) (.w 3)),
     (wd 0x23 0x06 1 2 3, .mulh g1 .b32 (.w 1) (.w 2) (.w 3)), (wd 0x24 0x00 1 2 3, .div g1 .i8 (.w 1) (.w 2) (.w 3)),
     (wd 0x25 0x05 1 2 3, .rem g1 .b16 (.w 1) (.w 2) (.w 3)), (wd 0x26 0x04 1 2 3, .and g1 .b8 (.w 1) (.w 2) (.w 3)),
     (wd 0x27 0x07 1 2 3, .or g1 .b64 (.w 1) (.w 2) (.w 3)), (wd 0x28 0x07 1 2 3, .xor g1 .b64 (.w 1) (.w 2) (.w 3)),
     (wd 0x29 0x07 1 2 3, .andn g1 .b64 (.w 1) (.w 2) (.w 3)), (wd 0x2A 0x03 1 2 3, .shl g1 .i64 (.w 1) (.w 2) (.w 3)),
     (wd 0x2B 0x07 1 2 3, .shr g1 .b64 (.w 1) (.w 2) (.w 3)), (wd 0x2C 0x03 1 2 3, .sar g1 .i64 (.w 1) (.w 2) (.w 3)),
     (wd 0x2D 0x07 1 2 3, .rot g1 .b64 (.w 1) (.w 2) (.w 3)), (wd 0x2E 0x03 1 2 3, .min g1 .i64 (.w 1) (.w 2) (.w 3)),
     (wd 0x2F 0x07 1 2 3, .max g1 .b64 (.w 1) (.w 2) (.w 3)), (wd 0x30 0x07 1 2 0, .clz g1 .b64 (.w 1) (.w 2)),
     (wd 0x31 0x06 1 2 0, .popc g1 .b32 (.w 1) (.w 2)), (wd 0x32 0xA3 1 2 3, .sel g1 .i64 10 (.w 1) (.w 2) (.w 3)),
     (wd 0x33 0x03 (kL 0) (kI 10) 0, .mov g1 .i64 (.loop .lc) (.src (.imm 10))),
     (wd 0x33 0x07 4 (kL 2) 0, .mov g1 .b64 (.dst (.w 4)) (.loop .le)), (0x3480FF000000009123456789, .movi g1 9 0x123456789),
     (wd 0x34 0x81 9 0 5, .moviH g1 9 5), (wd 0x35 0x00 9 (kI 7) 0, .lea g1 (.w 9) 7),
     (wd 0x35 0x13 9 1 2, .leaScaled g1 3 (.w 9) (.w 1) (.w 2)), (wd 0x36 0x07 8 9 (kI 264), .bext g1 .b64 (.w 8) (.w 9) (.imm 264)),
     (wd 0x37 0x07 8 9 10, .bins g1 8 (.w 9) (.w 10)), (wd 0x38 0x00 8 9 0, .sext g1 .i8 (.w 8) (.w 9)),
     (wd 0x39 0x05 8 9 0, .zext g1 .b16 (.w 8) (.w 9)), (wd 0x3A 0x0E 8 9 10, .fadd g1 .f56 (.w 8) (.w 9) (.w 10)),
     (wd 0x3B 0x0D 8 9 10, .fsub g1 .f32 (.w 8) (.w 9) (.w 10)), (wd 0x3C 0x0C 8 9 10, .fmul g1 .bf16 (.w 8) (.w 9) (.w 10)),
     (wd 0x3D 0x0C 8 9 10, .ffma g1 .bf16 8 (.w 9) (.w 10)),
     (wd 0x3E 0x08 8 9 (kI 0x52), .fcvt g1 .int4s .i32 ⟨true, 1⟩ (.w 8) (.w 9))] = true := by decide +kernel

/-- Lane instructions (R129). -/
theorem test_decode_lanes : allDecode
    [(0x4002C0120008001200048000, .vadd ⟨0xC0, 1, 2, 0, 0⟩ false .i32 (vr 1) (vs 1) (vs 0)),
     (wd 0x41 0x10 (kV 1) (kV 2) (kV 3), .vsub g1 true .i8 (vr 1) (vs 2) (vs 3)),
     (wd 0x42 0x02 (kV 1) (kV 2) (kV 3), .vmul g1 .i32 (vr 1) (vs 2) (vs 3)),
     (wd 0x43 0x05 (kV 1) (kV 2) (kV 3), .vmulh g1 .b16 (vr 1) (vs 2) (vs 3)),
     (wd 0x44 0x02 (kV 1) (kV 2) (kI 3), .vmin g1 .i32 (vr 1) (vs 2) (.sc (.imm 3))),
     (wd 0x45 0x02 (kV 1) (kV 2) (kV 3), .vmax g1 .i32 (vr 1) (vs 2) (vs 3)),
     (wd 0x46 0x0D (kV 1) (kV 2) 0, .vabs g1 .f32 (vr 1) (vs 2)), (wd 0x47 0x00 (kV 1) (kV 2) 0, .vneg g1 .i8 (vr 1) (vs 2)),
     (wd 0x48 0x06 (kV 1) (kV 2) (kV 3), .vand g1 .b32 (vr 1) (vs 2) (vs 3)),
     (wd 0x49 0x06 (kV 1) (kV 2) (kV 3), .vor g1 .b32 (vr 1) (vs 2) (vs 3)),
     (wd 0x4A 0x06 (kV 1) (kV 2) (kV 3), .vxor g1 .b32 (vr 1) (vs 2) (vs 3)),
     (wd 0x4B 0x02 (kV 1) (kV 2) 3, .vshl g1 .i32 (vr 1) (vs 2) (.sc (.w 3))),
     (wd 0x4C 0x06 (kV 1) (kV 2) (kV 3), .vshr g1 .b32 (vr 1) (vs 2) (vs 3)),
     (wd 0x4D 0x02 (kV 1) (kV 2) (kV 3), .vsar g1 .i32 (vr 1) (vs 2) (vs 3)),
     (wd 0x4E 0x0D (kV 1) (kV 2) (kV 3), .vfadd g1 .f32 (vr 1) (vs 2) (vs 3)),
     (wd 0x4F 0x0D (kV 1) (kV 2) (kV 3), .vfsub g1 .f32 (vr 1) (vs 2) (vs 3)),
     (wd 0x50 0x0C (kV 1) (kV 2) (kV 3), .vfmul g1 .bf16 (vr 1) (vs 2) (vs 3)),
     (0x510CFF000008008200250205, .vfma g1 .bf16 (vr 8) (vs 9) (.reg (.vi 5 16))),
     (wd 0x52 0x0D (kV 1) (kV 2) (kV 3), .vfmin g1 .f32 (vr 1) (vs 2) (vs 3)),
     (wd 0x53 0x0D (kV 1) (kV 2) (kV 3), .vfmax g1 .f32 (vr 1) (vs 2) (vs 3)),
     (wd 0x54 0x0C (kV 1) (kV 2) 0, .vrcp g1 .bf16 (vr 1) (vs 2)), (wd 0x55 0x0D (kV 1) (kV 2) 0, .vrsq g1 .f32 (vr 1) (vs 2)),
     (wd 0x56 0x0D (kV 1) (kV 2) 0, .vexp2 g1 .f32 (vr 1) (vs 2)), (wd 0x57 0x0D (kV 1) (kV 2) 0, .vlog2 g1 .f32 (vr 1) (vs 2)),
     (wd 0x58 0x02 (kV 1) (kV 2) (kI 0x2D), .vcvt g1 .i32 .f32 ⟨false, 2⟩ (vr 1) (vs 2)),
     (wd 0x59 0x72 (kV 1) (kV 2) (kV 3), .vsel g1 .i32 7 (vr 1) (vs 2) (vs 3)),
     (wd 0x5A 0x0A (kV 1) (kV 2) 0, .vmov g1 .fp8e4 (vr 1) (vs 2)), (wd 0x5B 0x02 (kV 1) 9 0, .vbcast g1 .i32 (vr 1) (.w 9)),
     (wd 0x5B 0x12 (kV 1) (kS 2) (kI 31), .vbcastLane g1 .i32 (vr 1) (.s 2) (.imm 31)),
     (wd 0x5C 0x02 (kV 1) 0 0, .vidx g1 .i32 (vr 1)), (wd 0x5C 0x12 (kV 1) 2 (kI 4), .vidxStep g1 .i32 (vr 1) (.w 2) (.imm 4)),
     (wd 0x5D 0x00 (kV 1) (kV 2) (kV 3), .vperm g1 (vr 1) (vv 2) (vv 3)), (0x5E01FF000008003200098005, .vshuf g1 (.rot (.imm 5)) (vr 3) (vv 2)),
     (wd 0x5E 0x06 (kV 1) (kV 2) 0, .vshuf g1 .zip (vr 1) (vv 2)), (wd 0x5F 0x1D 9 (kV 2) 0, .vred g1 .min .f32 9 (vv 2)),
     (wd 0x60 0x02 (kV 1) (kV 2) 0, .vscan g1 .add .i32 (vr 1) (vv 2)), (wd 0x61 0x08 (kV 1) (kV 2) 0, .vpack g1 .int4s (vr 1) (vr 2)),
     (wd 0x62 0x09 (kV 8) (kV 2) 0, .vunpack g1 .int4x (vr 8) (vv 2)), (wd 0x63 0xFF (kV 1) (kV 2) (kV 3), .vgath g1 0xFF (vr 1) (vr 2) (vv 3)),
     (wd 0x64 0x00 (kV 2) (kV 3) (kI 1), .vscat g1 0 (vr 2) (vv 3) (.sc (.imm 1)))] = true := by decide +kernel

/-- Memory (R144, R146, R159 to R169). -/
theorem test_decode_memory : allDecode
    [(wd 0x70 0x02 9 (kG 8) (kI 2), .ldsp g1 o0 (.w .i32 9) (.g 8) (.imm 2)),
     (wd 0x71 0x68 8 (kI 0) (kV 3), .stsp g1 ⟨none, some .core, false⟩ (.w 8) (.imm 0) (.v (vv 3))),
     (wd 0x72 0xF1 9 8 10, .atsp g1 ⟨some .system, some .system, false⟩ .addI32 9 (.w 8) (.w 10)),
     (0x7343FF000000009000218010, .ldd g1 ⟨some .package, none, false⟩ (.w .i64 9) (.w 8) (.imm 16)),
     (wd 0x74 0x04 8 9 (kQ 1), .std g1 o0 (.w 8) (.w 9) (.s .b8 (.q 1))), (0x750BFF00000000900020000A, .atd g1 o0 .casB64 9 (.w 8) (.w 10)),
     (0x760C3C16000000B200500000, .rowadd ⟨0x3C, 1, 6, 0, 0⟩ o0 .bf16 11 (vr 20)),
     (0x77FCFF00001050C0002D8002, .rowld g1 ⟨none, none, true⟩ .bf16 (.vi 12 40) 11 (.imm 2)),
     (wd 0x78 0x08 (kV 1) 8 (kI 128), .ldh g1 o0 (.v (vr 1)) (.w 8) (.imm 128)),
     (wd 0x79 0x07 8 (kI 0) 3, .sth g1 o0 (.w 8) (.imm 0) (.s .b64 (.w 3))), (wd 0x7A 0x0C 9 8 10, .ath g1 o0 .casB32 9 (.w 8) (.w 10)),
     (wd 0x7B 0xB3 9 8 (kI 0), .ldp g1 5 true (.w .i64 9) (.w 8) (.imm 0)),
     (wd 0x7C 0x28 8 (kI 0) (kV 3), .stp g1 1 false (.w 8) (.imm 0) (.v (vv 3))),
     (wd 0x7D 0xE0 9 8 10, .atp g1 7 false .addI64 9 (.w 8) (.w 10)), (wd 0x7E 0x00 9 (kI 3) (kI 7), .ldmb g1 9 3 7),
     (wd 0x7E 0x01 9 (kI 0) (kI 1), .ldmbOut g1 9 0 1), (wd 0x7F 0x00 (kI 2) (kI 7) 9, .stmb g1 2 7 (.w 9)),
     (wd 0x80 0x00 9 (kI 0x70) 0, .ldcf g1 9 (.imm 0x70)), (wd 0x81 0x00 8 (kI 1) 0, .stcf g1 (.w 8) (.imm 1)),
     (0x8200FF000018003000000000, .fence g1 0 3)] = true := by decide +kernel

/-- Tasks (R213). -/
theorem test_decode_tasks : allDecode
    [(0x9000FF00000000A000218040, .spawn g1 (.w 10) (.w 8) (.imm 64)), (wd 0x90 0x01 9 0 0, .spawnRec g1 (.mem 9)),
     (wd 0x90 0x01 (kV 3) 0 0, .spawnRec g1 (.vec (vr 3))), (wd 0x91 0x00 (kI 0x7FFF) 3 (kI 0x1B), .spawnr g1 (.imm 0x7FFF) (.w 3) (.imm 0x1B)),
     (wd 0x92 0x00 9 3 4, .spawnd g1 (.w 9) 3 (.w 4)), (wd 0x93 0x00 (kI 3) 0 0, .fork g1 (.imm 3)),
     (wd 0x93 0x01 9 (kG 8) 4, .forkAnchored g1 (.w 9) (.g 8) (.w 4)), (wd 0x94 0x00 (kI 3) 8 (kI 0), .migrate g1 (.imm 3) (.w 8) (.imm 0)),
     (wd 0x95 0x00 9 (kI 3) 0, .setdep g1 9 (.imm 3)), (wd 0x95 0x01 9 (kI 3) 10, .setdepHeld g1 9 (.imm 3) 10),
     (wd 0x96 0x00 9 0 0, .decr g1 9), (0x9700FF000028008600018000, .qcfgThresh g1 (.g 8) (.imm 0) (.imm 0)),
     (wd 0x97 0x01 8 1 2, .qcfgTickets g1 (.w 8) (.w 1) (.w 2)), (wd 0x97 0x02 8 1 2, .qcfgSpbase g1 (.w 8) (.w 1) (.w 2)),
     (wd 0x97 0x03 8 1 2, .qcfgSpsize g1 (.w 8) (.w 1) (.w 2)), (wd 0x98 0x00 9 8 (kI 15), .qstat g1 (.w 9) 8 (.imm 15)),
     (wd 0x99 0x00 (kV 9) 8 (kI 15), .steal g1 (vr 9) 8 (.imm 15)), (wd 0x99 0x01 (kV 9) 8 1, .stealAny g1 (vr 9) 8 (.w 1))] = true := by
  decide +kernel

/-- Barriers, messages, ports, regions (R125, R285, R289, R293). -/
theorem test_decode_messages : allDecode
    [(wd 0xA0 0x00 (kI 127) 0 0, .barArr g1 (.imm 127)), (wd 0xA0 0x01 9 0 0, .barWait g1 (.w 9)), (wd 0xA0 0x02 9 0 0, .barSync g1 (.w 9)),
     (wd 0xA1 0x00 9 (kI 255) (kI 100), .barcfg g1 (.w 9) (.imm 255) (.imm 100)),
     (0xA200FF000000008600158009, .amsg g1 (.w 8) (.imm 5) (.imm 9)), (wd 0xA2 0x01 (kG 8) 5 9, .amsgRel g1 (.g 8) (.w 5) (.w 9)),
     (wd 0xA3 0x00 8 (kI 255) (kI 0x7FFF), .bind g1 (.w 8) (.imm 255) (.imm 0x7FFF)), (wd 0xA4 0x00 8 5 0, .unbind g1 (.w 8) (.w 5)),
     (0xA500FF000020C03600458002, .openTx g1 3 (.imm 17) (.imm 2)), (wd 0xA5 0x01 (kN 4) 2 0, .openRx g1 4 (.w 2)),
     (wd 0xA6 0x00 (kN 7) 0 0, .close g1 7), (wd 0xA7 0x00 0 0 0, .spec g1), (0xA800FF000000009000000000, .commit g1 9),
     (wd 0xA9 0x00 9 0 0, .abort g1 9)] = true := by decide +kernel

/-- Solera (R313, R314). -/
theorem test_decode_solera : allDecode
    [(0xB003FF00000000DC00020000, .slrd g1 0 (.w .i64 13) (.sl 0) ⟨0, 0⟩), (wd 0xB1 0x77 9 8 10, .slcas g1 7 .b64 9 (.w 8) (.w 10)),
     (0xB203FF00000000CC0000000A, .sladd g1 0 .i64 12 (.sl 0) (.w 10)), (wd 0xB3 0x13 9 (kSl 1279) 10, .slswap g1 1 .i64 9 (.sl 1279) (.w 10)),
     (wd 0xB4 0x03 9 10 (kPP 1 2), .slboard g1 0 9 (.s .i64 (.w 10)) ⟨1, 2⟩), (wd 0xB5 0x08 (kV 9) 10 (kPP 1 2), .slalight g1 0 (.v (vr 9)) (.w 10) ⟨1, 2⟩),
     (0xB603F040000000EC0000000C, .slwait ⟨0xF0, 4, 0, 0, 0⟩ 0 .i64 14 (.sl 0) (.w 12)), (wd 0xB6 0x80 9 8 10, .slwaitRev g1 9 (.w 8) (.w 10)),
     (wd 0xB7 0x00 9 0 0, .slinfoPool g1 9), (wd 0xB7 0x01 9 0 0, .slinfoStn g1 9), (wd 0xB7 0x02 9 (kSl 5) 0, .slinfoHdr g1 9 (.sl 5))] = true := by
  decide +kernel

/-- The matrix engine (R245). -/
theorem test_decode_matrix : allDecode
    [(wd 0xC0 0x00 (kV 64) 0 0, .ldwC g1 .i8 (vr 64)), (0xC01CFF000008040000000000, .ldwK g1 .bf16 (vr 64)),
     (wd 0xC1 0x1A (kI 511) 0 0, .ldwg g1 .fp8e4 (.shift (.imm 511))), (wd 0xC2 0x00 (kV 8) 0 0, .ldws g1 (vr 8)), (wd 0xC3 0x00 0 0 0, .swpw g1),
     (0xC40CF0300021000820040011, .mma ⟨0xF0, 3, 0, 0, 0⟩ .bf16 0 (.s 1) (.w 17)), (0xC41CFF000021000200218C8F, .mmaSc g1 .bf16 0 (vv 8) (.imm 0xC8F)),
     (wd 0xC5 0x3B (kAcc 5) (kV 8) (kI 58), .mmag g1 .fp8e5 5 (.perm (vr 8)) (.imm 58)), (wd 0xC6 0x00 (kAcc 63) (kI 0) 0, .accz g1 63 (.imm 0)),
     (wd 0xC7 0x0E (kV 8) (kAcc 5) (kI 0x50), .accrd g1 .f56 ⟨true, 1⟩ (vr 8) 5), (wd 0xC8 0x02 (kAcc 5) (kV 8) 0, .accwr g1 .i32 5 (vr 8)),
     (wd 0xC9 0x00 9 (kI 2) 0, .mstat g1 9 (.imm 2))] = true := by decide +kernel

/-- Copies (R260). -/
theorem test_decode_copies : allDecode
    [(0xD000FF000000009000218008, .cpy g1 0 .dm (.w 9) (.w 8) (.imm 8)), (0xD1A0FF000000009200300000, .cpyg g1 true 1 .dm (.sp 9) (vr 12)),
     (wd 0xD2 0xE0 (kS 1) (kV 12) 0, .cpyx g1 true 3 (.stream 1) (vr 12)), (wd 0xD3 0x41 (kS 1) (kV 12) 0, .cpys g1 2 .sp (.stream 1) (vr 12)),
     (wd 0xD4 0x1F (kS 1) (kG 8) 9, .cbind g1 0 (.pm 7) 1 (.g 8) (.w 9)), (0xD500F0300000011000000000, .cwait ⟨0xF0, 3, 0, 0, 0⟩ 0 (.w 17)),
     (wd 0xD6 0x03 0 0 0, .ccancel g1 3), (wd 0xD7 0x02 9 0 0, .cstat g1 2 9)] = true := by decide +kernel

/-- The system instructions (R334). -/
theorem test_decode_system : allDecode
    [(wd 0xE0 0x00 9 (kI 0x7) 0, .csrr g1 9 7), (wd 0xE1 0x00 (kI 0x8) 9 0, .csrw g1 8 (.w 9)), (wd 0xE1 0x01 (kI 0x8) 9 0, .csrwSet g1 8 (.w 9)),
     (0xE102FF000018007000240000, .csrwClr g1 7 (.w 9)), (wd 0xE2 0x00 (kI 3) 0 0, .ecall g1 3), (wd 0xE3 0x00 0 0 0, .eret g1),
     (wd 0xE4 0x00 9 0 0, .tlbinvPage g1 9), (wd 0xE4 0x01 0 0 0, .tlbinvAll g1), (wd 0xE5 0x00 9 0 0, .ckpt g1 9)] = true := by decide +kernel

/-! ## Terms that have no encoding -/

/-- No term of the list is well formed. -/
def allIll (l : List Instr) : Bool := l.all (fun i => !i.wellFormed)

/-- Type lists (R113, R114, R119, R121 to R124): the check of each scalar constructor refuses a type outside its list. -/
theorem test_ill_types_scalar : allIll
    [.cmp g1 .lt .b64 ⟨0, 0⟩ (.w 0) (.w 0), .cmp g1 .hi .i64 ⟨0, 0⟩ (.w 0) (.w 0), .cmp g1 .eq .f32 ⟨0, 0⟩ (.w 0) (.w 0),
     .cmpf g1 .olt .i32 ⟨0, 0⟩ (.w 0) (.w 0), .add g1 .f32 (.w 0) (.w 0) (.w 0), .sub g1 .bf16 (.w 0) (.w 0) (.w 0),
     .mul g1 .int4s (.w 0) (.w 0) (.w 0), .mulh g1 .f56 (.w 0) (.w 0) (.w 0), .div g1 .f32 (.w 0) (.w 0) (.w 0),
     .rem g1 .fp8e4 (.w 0) (.w 0) (.w 0), .and g1 .i64 (.w 0) (.w 0) (.w 0), .or g1 .i64 (.w 0) (.w 0) (.w 0),
     .xor g1 .i8 (.w 0) (.w 0) (.w 0), .andn g1 .i64 (.w 0) (.w 0) (.w 0), .shl g1 .f32 (.w 0) (.w 0) (.w 0),
     .shr g1 .i64 (.w 0) (.w 0) (.w 0), .sar g1 .b64 (.w 0) (.w 0) (.w 0), .rot g1 .i64 (.w 0) (.w 0) (.w 0),
     .min g1 .f32 (.w 0) (.w 0) (.w 0), .max g1 .f32 (.w 0) (.w 0) (.w 0), .clz g1 .i64 (.w 0) (.w 0), .popc g1 .i64 (.w 0) (.w 0),
     .sel g1 .f32 0 (.w 0) (.w 0) (.w 0), .mov g1 .f32 (.dst (.w 0)) (.src (.w 0)), .bext g1 .i32 (.w 0) (.w 0) (.w 0),
     .sext g1 .i64 (.w 0) (.w 0), .zext g1 .b64 (.w 0) (.w 0), .fadd g1 .i32 (.w 0) (.w 0) (.w 0), .fsub g1 .fp8e4 (.w 0) (.w 0) (.w 0),
     .fmul g1 .b32 (.w 0) (.w 0) (.w 0), .ffma g1 .i64 0 (.w 0) (.w 0), .fcvt g1 .int4x .i32 ⟨false, 0⟩ (.w 0) (.w 0),
     .fcvt g1 .i32 .int4x ⟨false, 0⟩ (.w 0) (.w 0)] = true := by decide +kernel

/-- Type lists of the lane and memory rows and of the matrix engine (R129, R144, R162, R245, R254, R255, R313). -/
theorem test_ill_types_lanes : allIll
    [.vcmp g1 .lt .i64 ⟨0, 0⟩ (vs 0) (vs 0), .vcmpf g1 .olt .f56 ⟨0, 0⟩ (vs 0) (vs 0), .vadd g1 true .i64 (vr 0) (vs 0) (vs 0),
     .vsub g1 false .f32 (vr 0) (vs 0) (vs 0), .vmul g1 .b64 (vr 0) (vs 0) (vs 0), .vmulh g1 .f32 (vr 0) (vs 0) (vs 0),
     .vmin g1 .bf16 (vr 0) (vs 0) (vs 0), .vmax g1 .i64 (vr 0) (vs 0) (vs 0), .vabs g1 .fp8e4 (vr 0) (vs 0), .vneg g1 .i64 (vr 0) (vs 0),
     .vand g1 .i32 (vr 0) (vs 0) (vs 0), .vor g1 .b64 (vr 0) (vs 0) (vs 0), .vxor g1 .i8 (vr 0) (vs 0) (vs 0),
     .vshl g1 .f32 (vr 0) (vs 0) (vs 0), .vshr g1 .i32 (vr 0) (vs 0) (vs 0), .vsar g1 .b32 (vr 0) (vs 0) (vs 0),
     .vfadd g1 .f56 (vr 0) (vs 0) (vs 0), .vfsub g1 .i32 (vr 0) (vs 0) (vs 0), .vfmul g1 .fp8e5 (vr 0) (vs 0) (vs 0),
     .vfma g1 .f56 (vr 0) (vs 0) (vs 0), .vfmin g1 .i32 (vr 0) (vs 0) (vs 0), .vfmax g1 .i32 (vr 0) (vs 0) (vs 0),
     .vrcp g1 .f56 (vr 0) (vs 0), .vrsq g1 .f56 (vr 0) (vs 0), .vexp2 g1 .i32 (vr 0) (vs 0), .vlog2 g1 .b32 (vr 0) (vs 0),
     .vcvt g1 .i64 .f32 ⟨false, 0⟩ (vr 0) (vs 0), .vcvt g1 .f32 .f56 ⟨false, 0⟩ (vr 0) (vs 0), .vsel g1 .i64 0 (vr 0) (vs 0) (vs 0),
     .vmov g1 .f56 (vr 0) (vs 0), .vbcast g1 .b64 (vr 0) (.w 0), .vbcastLane g1 .int4s (vr 0) (vv 0) (.w 0), .vidx g1 .f32 (vr 0),
     .vidxStep g1 .i64 (vr 0) (.w 0) (.w 0), .vred g1 .add .i64 0 (vv 0), .vscan g1 .add .f56 (vr 0) (vv 0), .vpack g1 .i32 (vr 0) (vr 0),
     .vunpack g1 .f32 (vr 0) (vv 0), .ldsp g1 o0 (.w .f32 0) (.w 0) (.w 0), .stsp g1 o0 (.w 0) (.w 0) (.s .f32 (.w 0)),
     .ldd g1 o0 (.w .int4x 0) (.w 0) (.w 0), .std g1 o0 (.w 0) (.w 0) (.s .bf16 (.w 0)), .ldh g1 o0 (.w .f56 0) (.w 0) (.w 0),
     .sth g1 o0 (.w 0) (.w 0) (.s .f56 (.w 0)), .ldp g1 0 false (.w .f32 0) (.w 0) (.w 0), .stp g1 0 false (.w 0) (.w 0) (.s .f32 (.w 0)),
     .rowadd g1 o0 .b32 0 (vr 0), .rowld g1 o0 .i8 (vr 0) 0 (.imm 0), .ldwC g1 .f32 (vr 0), .ldwK g1 .i32 (vr 0),
     .ldwg g1 .b8 .ident, .mma g1 .f32 0 (.reg (vr 0)) (.imm 0), .mmaSc g1 .i16 0 (.reg (vr 0)) (.imm 0), .mmag g1 .f56 0 .ident (.imm 0),
     .accrd g1 .b64 ⟨false, 0⟩ (vr 0) 0, .accrd g1 .int4x ⟨false, 0⟩ (vr 0) 0, .accwr g1 .b32 0 (vr 0),
     .slrd g1 0 (.w .i32 0) (.sl 0) ⟨0, 0⟩, .slcas g1 0 .i32 0 (.sl 0) (.w 0), .sladd g1 0 .i32 0 (.sl 0) (.w 0), .slswap g1 0 .f32 0 (.sl 0) (.w 0),
     .slboard g1 0 0 (.s .i32 (.w 0)) ⟨0, 0⟩, .slalight g1 0 (.w .f32 0) (.sl 0) ⟨0, 0⟩, .slwait g1 0 .i32 0 (.sl 0) (.w 0)] = true := by
  decide +kernel

/-- Limits of values (R36, R109 to R112, R116, R129, R136, R162, R164, R213, R289, R293, R125, R245, R260, R313): one past
each end. -/
theorem test_ill_limits : allIll
    [.loop g1 (.imm 16384) 3, .loop g1 (.imm 32767) 3, .loop g1 (.imm 1) 2, .brk g1 16384, .ecall g1 16384, .psetFirst g1 0 (.imm 33),
     .vbcastLane g1 .i32 (vr 0) (vv 0) (.imm 32), .vshuf g1 (.rot (.imm 32)) (vr 0) (vv 0), .vshuf g1 (.shd (.imm 32)) (vr 0) (vv 0),
     .vshuf g1 (.shu (.imm 32767)) (vr 0) (vv 0), .vshuf g1 (.xor (.imm 32)) (vr 0) (vv 0), .rowld g1 o0 .f32 (vr 0) 0 (.imm 16384),
     .ldmb g1 0 4 0, .ldmb g1 0 0 8, .ldmbOut g1 0 4 0, .ldmbOut g1 0 0 8, .stmb g1 4 0 (.w 0), .stmb g1 0 8 (.w 0),
     .spawn g1 (.w 0) (.w 0) (.imm 16384), .spawnr g1 (.w 0) (.imm 1024) (.imm 0), .spawnr g1 (.w 0) (.imm 0) (.imm 64),
     .spawnd g1 (.w 0) 0 (.imm 64), .forkAnchored g1 (.w 0) (.w 0) (.imm 16384), .migrate g1 (.w 0) (.w 0) (.imm 16384),
     .qcfgThresh g1 (.w 0) (.imm 16) (.w 0), .qcfgTickets g1 (.w 0) (.imm 16) (.w 0), .qcfgSpbase g1 (.w 0) (.imm 16) (.w 0),
     .qcfgSpsize g1 (.w 0) (.imm 16) (.w 0), .qstat g1 (.w 0) 0 (.imm 16), .steal g1 (vr 0) 0 (.imm 16), .stealAny g1 (vr 0) 0 (.imm 16),
     .barArr g1 (.imm 128), .barWait g1 (.imm 128), .barSync g1 (.imm 128), .barcfg g1 (.imm 128) (.imm 0) (.imm 0),
     .barcfg g1 (.imm 0) (.imm 256) (.imm 0), .barcfg g1 (.imm 0) (.imm 0) (.imm 16384), .amsg g1 (.w 0) (.imm 256) (.imm 0),
     .amsg g1 (.w 0) (.imm 0) (.imm 16384), .amsgRel g1 (.w 0) (.imm 256) (.imm 0), .amsgRel g1 (.w 0) (.imm 0) (.imm 16384),
     .bind g1 (.w 0) (.imm 256) (.w 0), .unbind g1 (.w 0) (.imm 256), .openTx g1 0 (.imm 1024) (.imm 0), .openTx g1 0 (.imm 0) (.imm 16),
     .openRx g1 0 (.imm 16), .slrd g1 0 (.w .i64 0) (.sl 1280) ⟨0, 0⟩, .slcas g1 0 .i64 0 (.sl 1280) (.w 0), .sladd g1 0 .i64 0 (.sl 1280) (.w 0),
     .slswap g1 0 .i64 0 (.sl 1280) (.w 0), .slalight g1 0 (.w .i64 0) (.sl 1280) ⟨0, 0⟩, .slwait g1 0 .i64 0 (.sl 1280) (.w 0),
     .slwaitRev g1 0 (.sl 1280) (.w 0), .slinfoHdr g1 0 (.sl 1280), .ldwg g1 .i8 (.shift (.imm 512)), .ldwg g1 .i8 (.ones (.imm 32)),
     .mmag g1 .i8 0 (.shift (.imm 512)) (.imm 0), .mmag g1 .i8 0 (.ones (.imm 64)) (.imm 0), .mmag g1 .i8 0 .ident (.imm 64),
     .mma g1 .i8 0 (vv 0) (.imm 64), .accz g1 0 (.imm 64), .mstat g1 0 (.imm 3), .cpy g1 0 .dm (.w 0) (.w 0) (.imm 16384),
     .cbind g1 0 .dm 0 (.w 0) (.imm 16384), .cwait g1 0 (.imm 33)] = true := by decide +kernel

/-- Rules between fields (R114, R146, R161, R162, R167, R170, R245, R313, R314, R333, R36): predicate pairs, ordering
modifiers, remote atomics, scopes and masks of fences, rows of the accumulator, hints of Solera, unassigned registers. -/
theorem test_ill_between_fields : allIll
    [.cmp g1 .lt .i64 ⟨5, 5⟩ (.w 0) (.w 0), .cmpf g1 .olt .f32 ⟨1, 1⟩ (.w 0) (.w 0), .vcmp g1 .lt .i32 ⟨15, 15⟩ (vs 0) (vs 0),
     .vcmpf g1 .olt .f32 ⟨2, 2⟩ (vs 0) (vs 0), .slrd g1 0 (.w .i64 0) (.sl 0) ⟨3, 3⟩, .slboard g1 0 0 (.s .i64 (.w 0)) ⟨3, 3⟩,
     .slalight g1 0 (.w .i64 0) (.sl 0) ⟨3, 3⟩, .ldsp g1 ⟨none, some .core, false⟩ (.w .i64 0) (.w 0) (.w 0),
     .ldd g1 ⟨none, none, true⟩ (.w .i64 0) (.w 0) (.w 0), .ldh g1 ⟨none, some .system, false⟩ (.w .i64 0) (.w 0) (.w 0),
     .stsp g1 ⟨some .core, none, false⟩ (.w 0) (.w 0) (.v (vv 0)), .std g1 ⟨none, none, true⟩ (.w 0) (.w 0) (.v (vv 0)),
     .sth g1 ⟨some .die, some .die, false⟩ (.w 0) (.w 0) (.v (vv 0)), .atsp g1 ⟨some .core, some .die, false⟩ .addI64 0 (.w 0) (.w 0),
     .atd g1 ⟨none, none, true⟩ .addI64 0 (.w 0) (.w 0), .ath g1 ⟨some .die, some .core, false⟩ .addI64 0 (.w 0) (.w 0),
     .ath g1 o0 .swapB64 0 (.w 0) (.w 0), .atp g1 0 false .faddF32 0 (.w 0) (.w 0), .rowadd g1 ⟨some .core, none, false⟩ .f32 0 (vr 0),
     .rowadd g1 ⟨none, some .die, true⟩ .f32 0 (vr 0), .rowld g1 ⟨none, some .core, false⟩ .f32 (vr 0) 0 (.imm 0),
     .rowld g1 ⟨some .core, none, true⟩ .f32 (vr 0) 0 (.imm 0), .fence g1 6 1, .fence g1 0 0, .slrd g1 1 (.v (vr 0)) (.sl 0) ⟨0, 0⟩,
     .slboard g1 7 0 (.v (vr 0)) ⟨0, 0⟩, .slalight g1 1 (.v (vr 0)) (.sl 0) ⟨0, 0⟩, .mma g1 .i8 63 (vv 0) (.imm 1),
     .mmaSc g1 .i8 32 (vv 0) (.imm 32), .mmag g1 .i8 1 .ident (.imm 63), .accz g1 60 (.imm 4), .csrr g1 0 0, .csrw g1 0x14 (.w 0),
     .csrwSet g1 0x0B (.w 0), .csrwClr g1 0x180 (.w 0)] = true := by decide +kernel

/-- At the ends of the same ranges a term is well formed. -/
theorem test_well_formed_ends : List.all
    [Instr.loop g1 (.imm 0) 3, .loop g1 (.imm 16383) 16383, .brk g1 16383, .psetFirst g1 0 (.imm 32), .vshuf g1 (.xor (.imm 31)) (vr 0) (vv 0),
     .ldmb g1 0 3 7, .barSync g1 (.imm 127), .barcfg g1 (.imm 127) (.imm 255) (.imm 16383), .openTx g1 0 (.imm 1023) (.imm 15),
     .slinfoHdr g1 0 (.sl 1279), .ldwg g1 .i8 (.ones (.imm 31)), .mma g1 .i8 63 (vv 0) (.imm 0), .mma g1 .i8 0 (vv 0) (.imm 63),
     .cwait g1 0 (.imm 32), .cmp g1 .lt .i64 ⟨0, 0⟩ (.w 0) (.w 0), .atd g1 ⟨some .die, some .die, false⟩ .faddF56 0 (.w 0) (.w 0),
     .fence g1 5 0x3F, .csrr g1 0 1, .csrr g1 0 0x17F] Instr.wellFormed = true := by decide +kernel

/-! ## Words that no instruction has (R46, R47) -/

/-- What a decoder says of a word, with the features that ACCEPT0 lists. -/
def badOf (accept : W64) (w : BitVec 96) : Option DecErr := match decodeWord accept w with | .ok _ => none | .error e => some e
def bad (w : BitVec 96) : Option DecErr := badOf acceptAll w

/-- The word of R47's example: `vadd.i32` whose B has the reserved kind 111. A word that no table assigns; a type code
that a row does not list; a register past the last; an unused field; a gated OP, type code and port. -/
theorem test_refused_words :
    bad 0x400200120008001200078000 = some (.operand 3 0x38000) ∧
    (DecErr.operand 3 0x38000).tval (Raw.unpack 0x400200120008001200078000) = 0x0000038000024034#64 ∧
    bad 0x0000FF000000000000000000 = some .opcode ∧ bad (wd 0x20 0x0F 0 0 0) = some (.function 0 0) ∧
    bad (wd 0x20 0x03 32 0 0) = some (.range 1 32) ∧ bad (wd 0x01 0 0 0 1) = some (.range 3 1) ∧
    bad (wd 0x3E 0x08 8 9 (kI 9)) = some (.function 3 (kI 9)) ∧ bad (wd 0x3E 0x08 8 9 (kI 0x82)) = some (.range 3 (kI 0x82)) ∧
    bad (wd 0x18 0x01 (kP 6) (kI 33) 0) = some (.range 2 (kI 33)) ∧
    badOf 0x1D (wd 0x7B 0x03 9 8 (kI 0)) = some (.feature 0 1) ∧
    badOf 0x0F (wd 0x62 0x09 (kV 8) (kV 2) 0) = some (.feature 0 4) ∧
    badOf 0x17 (wd 0x20 0x03 1 (kN 2) 0) = some (.feature 2 3) := by decide +kernel

/-! ## Worked examples of the rules -/

/-- Partition 0 is present and accepts every feature; thread 0 runs in it, with a RESIDENT page at address 0. -/
def st : State := { tableState State.reset 0 with agenda := [] }

/-- Thread 0 with some of its registers set. -/
def stW (l : List (Nat × W64)) : State := st.modThr 0 (fun t => l.foldl (fun t x => t.setW x.1 x.2) t)
def stP (l : List (Nat × W32)) : State := st.modThr 0 (fun t => l.foldl (fun t x => t.setPred x.1 x.2) t)

/-- A property of the state that an instruction leaves. -/
def after (i : Instr) (s : State) (f : State → Bool) : Bool := match exec i s with | .next s' => f s' | _ => false

/-- The instruction leaves `v` in `wr`, and raises exactly the flags `fl`. -/
def gives (i : Instr) (l : List (Nat × W64)) (r : Nat) (v : W64) (fl : Fl) : Bool :=
  after i (stW l) (fun s => s.me.w r == v && s.me.flags == fl)

/-- The table of R120. -/
theorem test_division :
    gives (.div g1 .i32 (.w 8) (.w 1) (.w 2)) [(1, -7), (2, 2)] 8 0xFFFFFFFFFFFFFFFD 0 = true ∧
    gives (.rem g1 .i32 (.w 8) (.w 1) (.w 2)) [(1, -7), (2, 2)] 8 (-1) 0 = true ∧
    gives (.div g1 .i32 (.w 8) (.w 1) (.w 2)) [(1, 9), (2, 0)] 8 0xFFFFFFFFFFFFFFFF 2 = true ∧
    gives (.div g1 .b32 (.w 8) (.w 1) (.w 2)) [(1, 9), (2, 0)] 8 0x00000000FFFFFFFF 2 = true ∧
    gives (.rem g1 .b64 (.w 8) (.w 1) (.w 2)) [(1, 9), (2, 0)] 8 9 2 = true ∧
    gives (.div g1 .i8 (.w 8) (.w 1) (.w 2)) [(1, -128), (2, -1)] 8 0xFFFFFFFFFFFFFF80 0 = true ∧
    gives (.rem g1 .i8 (.w 8) (.w 1) (.w 2)) [(1, -128), (2, -1)] 8 0 0 = true := by decide +kernel

/-- The table of R124: −2.7, 300.5 and 465.0 as FP32 words. -/
theorem test_conversion :
    gives (.fcvt g1 .i32 .f32 ⟨false, 1⟩ (.w 8) (.w 1)) [(1, 0xC02CCCCD)] 8 (-2) 16 = true ∧
    gives (.fcvt g1 .i8 .f32 ⟨false, 0⟩ (.w 8) (.w 1)) [(1, 0x43964000)] 8 (-128) 1 = true ∧
    gives (.fcvt g1 .i8 .f32 ⟨true, 0⟩ (.w 8) (.w 1)) [(1, 0x43964000)] 8 127 1 = true ∧
    gives (.fcvt g1 .fp8e4 .f32 ⟨false, 0⟩ (.w 8) (.w 1)) [(1, 0x43E88000)] 8 0x7F 20 = true ∧
    gives (.fcvt g1 .fp8e4 .f32 ⟨true, 0⟩ (.w 8) (.w 1)) [(1, 0x43E88000)] 8 0x7E 20 = true ∧
    gives (.fcvt g1 .bf16 .i32 ⟨false, 0⟩ (.w 8) (.w 1)) [(1, 257)] 8 0x4380 16 = true ∧
    gives (.fcvt g1 .int4s .i32 ⟨true, 0⟩ (.w 8) (.w 1)) [(1, 9)] 8 7 4 = true := by decide +kernel

/-- R38, R121, R122, R123: `movi` and `movi.h`, a label, `bext` at its sign, and the fused product-sum. -/
theorem test_scalar_examples :
    gives (.movi g1 9 0x123456789) [] 9 0x0000000123456789 0 = true ∧
    gives (.bext g1 .b64 (.w 8) (.w 9) (.imm 264)) [(9, 0xABCD)] 8 0xB 0 = true ∧
    gives (.bext g1 .i64 (.w 8) (.w 9) (.imm 264)) [(9, 0xABCD)] 8 (-5) 0 = true ∧
    gives (.bins g1 8 (.w 9) (.imm 264)) [(8, 0xFFFF), (9, 0)] 8 0xF0FF 0 = true ∧
    after (.ffma g1 .bf16 8 (.w 9) (.w 10)) (stW [(8, 0x3F80), (9, 0x4040), (10, 0x3C00)]) (fun s => s.me.w 8 == 0x3F83) = true ∧
    gives (.mulh g1 .b8 (.w 8) (.w 9) (.w 10)) [(9, 0xFF), (10, 0xFF)] 8 0xFE 0 = true ∧
    gives (.rot g1 .b16 (.w 8) (.w 9) (.imm 17)) [(9, 0x8001)] 8 3 0 = true ∧
    gives (.clz g1 .b32 (.w 8) (.w 9)) [(9, 0)] 8 32 0 = true ∧
    gives (.sext g1 .i8 (.w 8) (.w 9)) [(9, 0x80)] 8 0xFFFFFFFFFFFFFF80 0 = true := by decide +kernel

/-- The examples of R115, R116 and R117. -/
theorem test_predicate_examples :
    after (.plog g1 0xE8 4 1 2) (stP [(1, 0x0F), (2, 0x33), (4, 0x55)]) (fun s => s.me.pred 4 == 0x17) = true ∧
    after (.pcnt g1 (.w 9) 0) st (fun s => s.me.w 9 == 32) = true ∧
    after (.pfirst g1 (.w 9) 3) st (fun s => s.me.w 9 == 32) = true ∧
    after (.psetFirst g1 6 (.w 9)) (stW [(9, 5)]) (fun s => s.me.pred 6 == 0x1F) = true ∧
    after (.pset g1 2 (-1)) st (fun s => s.me.pred 2 == 0xFFFFFFFF) = true ∧
    after (.cmp g1 .lt .i64 ⟨3, 4⟩ (.w 8) (.imm 0)) (stW [(8, -1)]) (fun s => s.me.pred 3 != 0 && s.me.pred 4 == 0) = true := by
  decide +kernel

/-- The examples of R133, R135 and R139: a power out of range, a reciprocal, an index sequence, and an INT4X pair. -/
theorem test_lane_examples :
    after (.vexp2 g1 .f32 (vr 1) (.sc (.w 8))) (stW [(8, 0x43000000)]) (fun s => s.me.lane 1 31 == 0x7F800000 && s.me.flags == 20) = true ∧
    after (.vrcp g1 .bf16 (vr 1) (.sc (.w 8))) (stW [(8, 0x4040)]) (fun s => s.me.lane 1 0 == 0x3EAB && s.me.flags == 16) = true ∧
    after (.vidxStep g1 .i16 (vr 2) (.imm (-3)) (.imm 2)) st (fun s => s.me.lane 2 0 == -3 && s.me.lane 2 31 == 59) = true ∧
    after (.vunpack g1 .int4x (vr 8) (vv 1)) (st.modThr 0 (fun t => t.setLane 1 0 0x8338))
      (fun s => (s.me.vreg 8).take 8 == [0x3F800000, 0, 0, 0x3F800000, 0, 0, 0, 0]) = true ∧
    after (.vunpack g1 .int4s (vr 8) (vv 1)) (st.modThr 0 (fun t => t.setLane 1 0 0x8338))
      (fun s => (s.me.vreg 8).take 8 == [0, 3, 3, 0, 0, 0, 0, 0] && s.me.flags == 32) = true := by decide +kernel

/-- R14, R147, R154, R304: the copy engine of a core, the home of a scratchpad address and of a striped granule, and the
places of the stations. -/
theorem test_places :
    copyEngineOf (6 * 32 + 21) = 10 ∧
    (spPlace State.reset { Part.absent with present := true, lw := 3, lh := 2, spq := 4 } 0x25010).map (fun x => (x.1, x.2 % 4096)) =
      some (64 + 18, 0x010) ∧
    (pteLoc 0x9000000000000003 (5 * 4096)).chan = 56 ∧
    [0, 3 * 32 + 3, 4 * 32 + 20, 6 * 32 + 21, 1024 + 64 + 21].map ringPos = [0, 156, 180, 277, 213] := by decide +kernel

/-- R64: a scan's combinations at suppressed lanes raise nothing: with −256, 256 and 1 in lanes 1, 2 and 4, lane 5 would
form the inexact 256 + 1. R156: the bytes of a VERSIONED page from 63,488 on read as 0. R50: a cellar core opens stream ports as a press core does. -/
theorem test_scan_hole_port :
    after (.vscan ⟨0xF0, 5, 0, 0, 0⟩ .add .bf16 (vr 3) (vv 2)) (st.modThr 0 (fun t =>
        (((t.setPred 5 22).setLane 2 1 0xC380).setLane 2 2 0x4380).setLane 2 4 0x3F80))
      (fun s => s.me.flags == 0 && s.me.lane 3 4 == 0x3F80 && s.me.lane 3 2 == 0 && s.me.lane 3 1 == 0xC380) = true ∧
    readLoc { st with mem := st.mem.writeN 63480 (List.replicate 12 0x55) } 0 (.dm (pteLoc 0xF800000000000000 63480)) 12 =
      List.replicate 8 0x55 ++ List.replicate 4 0 ∧
    after (.openTx g1 3 (.imm 0) (.imm 2)) ({ st with cur := 16384 }.setThr 16384 { st.me with part := 0, tvec := 0x40 })
      (fun s => !s.me.tm && decide (s.me.port 3 ≠ .unbound) && s.me.ip == 12) = true := by decide +kernel

/-! ## States that meet the hypotheses of the statements -/

/-- `Ready` as a check. -/
def readyB (c : Ctl) (lane : Bool) (u : Uses) (s : State) : Bool :=
  s.me.active && (!u.matrix || !isCellar (coreOf s.cur)) && decide (vregCheck s.me u.groups = none) &&
  (if lane then guardOf s.me c != 0#32 else (guardOf s.me c).getLsbD 0) && !s.me.owes (u.regs s.me) &&
  (!s.me.specOn || u.conflict.isNone)

theorem ready_of {c : Ctl} {lane : Bool} {u : Uses} {s : State} (h : readyB c lane u s = true) : Ready c lane u s := by
  simp only [readyB, Bool.and_eq_true, Bool.or_eq_true, Bool.not_eq_true', decide_eq_true_eq] at h
  obtain ⟨⟨⟨⟨⟨h1, h2⟩, h3⟩, h4⟩, h5⟩, h6⟩ := h
  refine ⟨h1, ?_, h3, ?_, h5, ?_⟩
  · intro hm; rcases h2 with h2 | h2
    · rw [hm] at h2; cases h2
    · exact h2
  · cases lane with
    | true => exact bne_iff_ne.mp h4
    | false => exact h4
  · intro hs; rcases h6 with h6 | h6
    · rw [hs] at h6; cases h6
    · exact Option.isNone_iff_eq_none.mp h6

/-- Parts of a meaning go through one after the other. -/
def goes {α : Type} (a : Act α) (s : State) : Bool := match a s with | .ok _ => true | .error _ => false
theorem reads_of {α : Type} {a : Act α} {s : State} (h : goes a s = true) : ∃ x s', Reads a s x s' := by
  unfold goes at h; unfold Reads
  cases e : a s with
  | ok r => exact ⟨r.1, r.2, rfl⟩
  | error _ => rw [e] at h; cases h
def goes2 {α β : Type} (a : Act α) (b : α → Act β) (s : State) : Bool :=
  match a s with | .ok r => goes (b r.1) r.2 | .error _ => false
theorem reads2_of {α β : Type} {a : Act α} {b : α → Act β} {s : State} (h : goes2 a b s = true) :
    ∃ x s1 y s2, Reads a s x s1 ∧ Reads (b x) s1 y s2 := by
  unfold goes2 at h; unfold Reads
  cases e : a s with
  | ok r => rw [e] at h; obtain ⟨y, s2, hy⟩ := reads_of h; exact ⟨r.1, r.2, y, s2, rfl, hy⟩
  | error _ => rw [e] at h; cases h
/-- A part goes through and leaves the state as it is. -/
def stays {α : Type} (a : Act α) (s : State) : Bool := match a s with | .ok r => decide (r.2 = s) | .error _ => false
theorem reads_of_stays {α : Type} {a : Act α} {s : State} (h : stays a s = true) : ∃ x, Reads a s x s := by
  unfold stays at h; unfold Reads
  cases e : a s with
  | ok r => rw [e] at h; exact ⟨r.1, congrArg Except.ok (Prod.ext rfl (of_decide_eq_true h))⟩
  | error _ => rw [e] at h; cases h

/-- Two scalar sources read and a result of theirs written. -/
def goesTwo (t : Ty) (d : Dst) (a b : Src) (f : Nat → Nat → Nat) (s : State) : Bool :=
  goes2 (readSrc t a) (fun x s1 => match readSrc t b s1 with
    | .ok (y, s2) => writeResult t d (f x y) s2 | .error e => .error e) s

/-- A partition with a scratchpad, a peer port, a slot pool, host access, and the host page 0 translated to page 5. -/
def stF : State := { st.modPart 0 (fun p => { p with spq := 4, hgrant := true, poolSize := 8, coll := true, unwslot := 1 }) with
  ats := [(atsKey 0 0 0, 5)] }.modPart 0 (fun p => p.setCf 0x48 0x8000000000000001#64)

/-- Encode and step: an instruction that has a word; a boundary with a fetched word, one with a kept word, and one whose
word no instruction has; a word that crosses a granule into the next page. -/
theorem witness_StepRunsDecoded :
    (Instr.nop g1).wellFormed = true ∧ (encodeWord (.nop g1)).isSome = true ∧
    (let s := tableState State.reset 0x0100FF000000000000000000
     let s1 := { s with agenda := [], cur := 0 }
     s.agenda = [.issue 0] ∧ mayIssue s1 0 = true ∧ (s1.thr 0).wait.landed = false ∧ (s1.thr 0).async = [] ∧
       budgetDue (s1.thr 0) = false ∧ (s.thr 0).word = none ∧
       (match fetchWord s1 0 with | .word w => (decodeWord (s.prt 0).accept w).toOption | _ => none) = some (.nop g1)) ∧
    (let s := st.modThr 0 (fun t => { t with word := some 0x0100FF000000000000000000 })
     mayIssue s 0 = true ∧ (s.thr 0).wait.landed = false ∧ (s.thr 0).async = [] ∧ budgetDue (s.thr 0) = false) ∧
    (match fetchWord st 0 with | .word w => badOf (st.prt 0).accept w | _ => none) = some .opcode ∧
    (let s := st.modThr 0 (fun t => { t with ip := 0x1FFFF8 })
     let s := { s with tlbs := SMap.set [] s.tlbs 0 (⟨0, 1, tablePte⟩ :: SMap.get [] s.tlbs 0) }
     heldPte s (coreBufs 0) 0 0 = some tablePte ∧ heldPte s (coreBufs 0) 0 1 = some tablePte ∧ pteX tablePte = true ∧
       frameOk s 0 (pteLoc tablePte 0x1FFFF8) = true ∧ locBad s (.dm (pteLoc tablePte 0x1FFFF8)) 8 = false ∧
       locBad s (.dm (pteLoc tablePte 0x200000)) 4 = false) := by decide +kernel

/-- A thread with a handler, one without, one in trap mode; `brk`, `ecall` and `eret` in each of their cases; a BUDGET
that is due, with a handler and without. -/
theorem witness_Traps :
    (let s := st.modThr 0 (fun t => { t with tvec := 0x40 })
     (s.thr 0).tvec ≠ 0#64 ∧ (s.thr 0).tm = false) ∧
    (st.thr 0).active = true ∧ (st.thr 0).tvec = 0#64 ∧ (st.prt 0).present = true ∧ (st.prt 0).containing = .none ∧
    (st.prt 0).coll = false ∧ (stF.prt 0).coll = true ∧ (stF.prt 0).containing = .none ∧ (stF.thr 0).active = true ∧
    readyB g1 false Uses.none st = true ∧
    (let s := st.modThr 0 (fun t => { t with tm := true, cause := 0x14 })
     readyB g1 false Uses.none s = true ∧ s.me.tm = true ∧ fieldOf s.me.cause 0 8 ≠ 0x70) ∧
    (let s := st.modThr 0 (fun t => { t with tm := true, cause := 0x70 })
     readyB g1 false Uses.none s = true ∧ s.me.tm = true ∧ fieldOf s.me.cause 0 8 = 0x70 ∧ s.me.owed = []) ∧
    (let s := st.modThr 0 (fun t => { t with budEn := true, tvec := 0x40 })
     (s.thr 0).active = true ∧ (s.thr 0).budEn = true ∧ (s.thr 0).budRem = 0 ∧ (s.thr 0).tm = false ∧ (s.thr 0).stop = 0 ∧
       (s.thr 0).tvec ≠ 0#64) := by decide +kernel

/-- A suppressed instruction; one whose source is owed; a lane instruction past the allotment of 128 registers. -/
theorem witness_IssueChecks :
    st.me.active = true ∧ (guardOf st.me g0).getLsbD 0 = false ∧ st.me.loopOn = false ∧
    (let s := st.modThr 0 (fun t => { t with owed := [⟨1, [.stk 1], .word (.stk 1), [], false, none, .ls⟩] })
     s.me.active = true ∧ (guardOf s.me g1).getLsbD 0 = true ∧ s.me.specOn = false ∧
       s.me.owes ((twoUses 0x20 (.w 8) (.w 1) (.w 2)).regs s.me) = true) ∧
    st.me.owes ((laneUses (vr 127) (vs 128) (vs 0)).indexRegs st.me) = false ∧
    vregCheck st.me (laneUses (vr 127) (vs 128) (vs 0)).groups = some 128 := by decide +kernel

/-- A queue with an entry and one with room; a bound stream; ports that receive and send. -/
def stQ : State :=
  let s := st.modCore 0 (fun c => (c.setQ 1 [7, 9]).setChan 2 ⟨some 0, false, some 1⟩)
  let s := s.modThr 0 (fun t => ((t.setStream 3 ⟨true, 1, 0, List.replicate 128 0x55, 0, 0, 0⟩).setPort 4 (.rx 2)).setPort 5 (.tx 2))
  { s with routes := [⟨1, 1, 0, 2, true, [some 11], [], 0, 0, 0, false, false⟩, ⟨2, 0, 1, 0, true, [], [], 0, 0, 0, false, false⟩] }

theorem witness_OperandForms :
    (stQ.core 0).q 1 = [7, 9] ∧ servedNext (SMap.get [] (stQ.core 0).qReaders 1) 0 = true ∧
    ((stQ.core 0).q 15).length < 8 ∧ servedNext (SMap.get [] (stQ.core 0).qWriters 15) 0 = true ∧
    (stQ.me.stream 3).bound = true ∧ 128 ≤ (stQ.me.stream 3).buf.length ∧ stQ.me.port 4 = .rx 2 ∧
    ((stQ.chanRoute 0 2).map (fun r => (r.words, r.closed))) = some ([some 11], false) ∧
    stQ.me.port 5 = .tx 2 ∧ ((stQ.routes.find? (fun y => y.id == 2)).map (fun r => (r.dropped, r.words.length))) = some (false, 0) ∧
    stQ.me.port 7 = .unbound ∧ plainSrc (.g 8) = true := by decide +kernel

/-- Two sources of every form, and a destination of every form. -/
theorem witness_ScalarArithmetic :
    readyB g1 false (twoUses 0x20 (.q 15) (.q 1) (.s 3)) stQ = true ∧
    goesTwo .i64 (.q 15) (.q 1) (.s 3) (fun x y => (iAdd .i64 x y)) (stQ.begun (twoUses 0x20 (.q 15) (.q 1) (.s 3))) = true ∧
    goesTwo .f32 (.n 5) (.n 4) (.w 31) (fun x y => (fAdd (tyFmt .f32) x y).1) (stQ.begun (twoUses 0x3A (.n 5) (.n 4) (.w 31))) = true ∧
    readyB g1 false (oneUses 0x30 (.w 0) (.imm 0)) st = true ∧
    goes2 (readSrc .b8 (.imm 0)) (fun x => writeResult .b8 (.w 0) (iClz .b8 x)) (st.begun (oneUses 0x30 (.w 0) (.imm 0))) = true ∧
    readyB g1 false (oneUses 0x3E (.w 31) (.w 31)) st = true ∧
    goes2 (readSrc .f32 (.w 31)) (fun x => writeResult .i8 (.w 31) (convert .i8 .f32 ⟨true, 3⟩ x).1)
      (st.begun (oneUses 0x3E (.w 31) (.w 31))) = true := by decide +kernel

theorem witness_ScalarMoves :
    readyB g1 false (twoUses 0x32 (.w 0) (.w 1) (.imm 2)) st = true ∧
    goesTwo .i64 (.w 0) (.w 1) (.imm 2) (fun x _ => x) (st.begun (twoUses 0x32 (.w 0) (.w 1) (.imm 2))) = true ∧
    readyB g1 false (oneUses 0x33 (.w 0) (.w 1)) st = true ∧
    goes2 (readSrc .i8 (.w 1)) (fun x => writeResult .i8 (.w 0) x) (st.begun (oneUses 0x33 (.w 0) (.w 1))) = true ∧
    readyB g1 false (Uses.none.and (Uses.src (.w 1))) st = true ∧ goes (readSrc .i8 (.w 1)) (st.begun (Uses.none.and (Uses.src (.w 1)))) = true ∧
    readyB g1 false ((Uses.dst 0x33 (.w 31)).and Uses.none) st = true ∧
    goes (writeResult .b64 (.w 31) 0) (st.begun ((Uses.dst 0x33 (.w 31)).and Uses.none)) = true ∧
    readyB g1 false (Uses.none.and Uses.none) st = true ∧ readyB g1 false (Uses.w 31) st = true ∧
    readyB g1 false (Uses.dst 0x35 (.w 0)) st = true ∧ goes (writeDst (.w 0) 4#64) (st.begun (Uses.dst 0x35 (.w 0))) = true ∧
    readyB g1 false (twoUses 0x35 (.q 0) (.w 1) (.imm 2)) st = true ∧
    goes2 (readSrc64 .i64 (.w 1)) (fun _ => writeDst (.q 0) 0#64) (st.begun (twoUses 0x35 (.q 0) (.w 1) (.imm 2))) = true ∧
    readyB g1 false (twoUses 0x36 (.w 0) (.w 1) (.w 2)) st = true ∧
    readyB g1 false (((Uses.w 8).and (Uses.src (.w 9))).and (Uses.src (.imm 264))) st = true ∧
    goes2 (readSrc .bf16 (.w 9)) (fun _ => readSrc .bf16 (.imm 3)) (st.begun (((Uses.w 8).and (Uses.src (.w 9))).and (Uses.src (.imm 3)))) = true := by
  decide +kernel

/-- Elements at the ends of their ranges: an ordinary quotient, a zero divisor, the one overflow. -/
theorem witness_DivisionRules :
    tyIB .i8 = true ∧ 255 < 2 ^ tyWidth .i8 ∧ 127 < 2 ^ tyWidth .i8 ∧ (127 ≠ 0 ∧ ¬ (tyI .i8 = true ∧ 255 = 2 ^ 7 ∧ 127 = 2 ^ 8 - 1)) ∧
    (tyI .i8 = true ∧ 128 = 2 ^ (tyWidth .i8 - 1) ∧ 255 = 2 ^ tyWidth .i8 - 1) ∧
    readyB g1 false (twoUses 0x24 (.w 8) (.w 1) (.w 2)) st = true ∧
    goesTwo .i8 (.w 8) (.w 1) (.w 2) (iDiv .i8) (st.begun (twoUses 0x24 (.w 8) (.w 1) (.w 2))) = true := by decide +kernel

theorem witness_IdlingAndLoops :
    readyB g1 false Uses.none st = true ∧ readyB g1 false (Uses.wi (.imm 0)) st = true ∧ wiVal st.me (.imm 0) = 0#64 ∧
    wiVal st.me (.imm 1) ≠ 0#64 := by decide +kernel

/-- A call at frame 0 and at the last frame; a return from frame 1; trap mode, the deepest frame, ten resident frames. -/
theorem witness_BranchesAndCalls :
    readyB g1 false { extra := callRegs st.me } st = true ∧ readyB g1 false { ws := [31], extra := callRegs st.me } st = true ∧
    st.me.tm = false ∧ st.me.depth ≠ 65535 ∧ st.me.depth - st.me.low ≠ 9 ∧ st.me.depth = 0 ∧
    (let s := st.modThr 0 (fun t => { t with depth := 65535, low := 65527 })
     readyB g1 false { extra := callRegs s.me } s = true ∧ s.me.depth = 65535) ∧
    (let s := st.modThr 0 (fun t => { t with depth := 9 })
     readyB g1 false { extra := callRegs s.me } s = true ∧ s.me.depth ≠ 65535 ∧ s.me.depth - s.me.low = 9 ∧
       readyB g1 false (Uses.w 7) s = true ∧ s.me.depth ≠ s.me.low) ∧
    (let s := st.modThr 0 (fun t => { t with depth := 3, low := 3 })
     readyB g1 false (Uses.w 7) s = true ∧ s.me.depth ≠ 0 ∧ s.me.depth = s.me.low) ∧
    (let s := st.modThr 0 (fun t => { t with tm := true })
     readyB g1 false { extra := callRegs s.me } s = true ∧ readyB g1 false (Uses.w 7) s = true ∧ s.me.tm = true) := by
  decide +kernel

/-- At the end of a body with one iteration left, and with more. -/
theorem witness_Retirement :
    (let s := st.modThr 0 (fun t => { t with loopOn := true, lc := 1 })
     s.me.active = true ∧ s.me.loopOn = true ∧ s.me.ip = s.me.ae ∧ s.me.lc.toNat ≤ 1) ∧
    (let s := st.modThr 0 (fun t => { t with loopOn := true, lc := 2 })
     s.me.loopOn = true ∧ s.me.ip = s.me.ae ∧ 1 < s.me.lc.toNat) ∧
    st.me.loopOn = false := by decide +kernel

theorem witness_Predicates :
    readyB g1 false ((Uses.src (.w 1)).and (Uses.src (.imm 0))) st = true ∧
    goes2 (readSrc .i64 (.w 1)) (fun _ => readSrc .i64 (.imm 0)) (st.begun ((Uses.src (.w 1)).and (Uses.src (.imm 0)))) = true ∧
    (st.me.active = true ∧ (guardOf st.me g0).getLsbD 0 = false) ∧
    readyB g1 true ((Uses.vsrc (vs 1)).and (Uses.vsrc (.sc (.imm 0)))) st = true ∧
    goes2 (readLanes .i32 (vs 1)) (fun _ => readLanes .i32 (.sc (.imm 0))) (st.begun ((Uses.vsrc (vs 1)).and (Uses.vsrc (.sc (.imm 0))))) = true ∧
    (vregCheck st.me ((Uses.vsrc (vs 127)).and (Uses.vsrc (vs 0))).groups = none ∧
      st.me.owes (((Uses.vsrc (vs 127)).and (Uses.vsrc (vs 0))).indexRegs st.me) = false ∧ guardOf st.me g0 = 0#32) ∧
    (0#4 = 0#4 → 0#4 = 0) ∧ (3#4 = 4#4 → 3#4 = 0) ∧
    readyB g1 true Uses.none st = true ∧ readyB g1 true (Uses.w 31) st = true ∧ readyB g1 true (Uses.wi (.imm 32)) st = true ∧
    readyB g1 false (Uses.dst 0x16 (.w 9)) st = true ∧ goes (writeDst (.w 9) 32#64) (st.begun (Uses.dst 0x16 (.w 9))) = true ∧
    readyB g1 false (Uses.dst 0x17 (.q 0)) st = true ∧ goes (writeDst (.q 0) 32#64) (st.begun (Uses.dst 0x17 (.q 0))) = true := by
  decide +kernel

theorem witness_Lanes :
    readyB g1 true (laneUses (vr 127) (vs 0) (vs 127)) st = true ∧
    goes2 (readLanes .i8 (vs 0)) (fun _ => readLanes .i8 (vs 127)) (st.begun (laneUses (vr 127) (vs 0) (vs 127))) = true ∧
    readyB g1 true (lane1Uses (vr 1) (.sc (.s 3))) stQ = true ∧
    goes (readLanes .f32 (.sc (.s 3))) (stQ.begun (lane1Uses (vr 1) (.sc (.s 3)))) = true ∧
    readyB g1 true (lane1Uses (vr 1) (.sc (.w 9))) st = true ∧ goes (readLanes .b16 (.sc (.w 9))) (st.begun (lane1Uses (vr 1) (.sc (.w 9)))) = true ∧
    goes2 (readLanes .bf16 (vs 1)) (fun _ => readLanes .bf16 (.reg (vr 8))) (st.begun (laneUses (vr 8) (vs 1) (vs 2))) = true ∧
    readyB g1 true (((Uses.vr (vr 1)).and (Uses.vv (vv 2))).and (Uses.wi (.imm 31))) st = true ∧
    goes (readVV (vv 2)) (st.begun (((Uses.vr (vr 1)).and (Uses.vv (vv 2))).and (Uses.wi (.imm 31)))) = true ∧
    readyB g1 true (Uses.vr (vr 127)) st = true ∧ readyB g1 true (((Uses.vr (vr 1)).and (Uses.src (.imm (-3)))).and (Uses.src (.w 2))) st = true ∧
    goes2 (readScLanes .i8 (.imm (-3))) (fun _ => readScLanes .i8 (.w 2)) (st.begun (((Uses.vr (vr 1)).and (Uses.src (.imm (-3)))).and (Uses.src (.w 2)))) = true ∧
    readyB g1 true (((Uses.vr (vr 1)).and (Uses.vv (vv 2))).and (Uses.vv (.s 3))) stQ = true ∧
    goes2 (readVV (vv 2)) (fun _ => readVV (.s 3)) (stQ.begun (((Uses.vr (vr 1)).and (Uses.vv (vv 2))).and (Uses.vv (.s 3)))) = true ∧
    readyB g1 true (((Uses.vr (vr 1)).and (Uses.vv (vv 2))).and Uses.none) st = true := by decide +kernel

theorem witness_LaneNetworks :
    readyB g1 true ((Uses.w 9).and (Uses.vv (vv 2))) st = true ∧ goes (readVV (vv 2)) (st.begun ((Uses.w 9).and (Uses.vv (vv 2)))) = true ∧
    readyB g1 true ((Uses.vr (vr 1)).and (Uses.vv (vv 2))) st = true ∧
    readyB g1 true (((Uses.ty .int4x).and (Uses.vr (vr 1))).and (Uses.group (vr 120) 8)) st = true ∧
    goes (readGroup 120 8) (st.begun (((Uses.ty .int4x).and (Uses.vr (vr 1))).and (Uses.group (vr 120) 8))) = true ∧
    readyB g1 true (((Uses.ty .i8).and (Uses.group (vr 124) 4)).and (Uses.vv (vv 2))) st = true ∧
    goes2 (readVV (vv 2)) (fun x => writeGroup 124 1#32 [x, x, x, x]) (st.begun (((Uses.ty .i8).and (Uses.group (vr 124) 4)).and (Uses.vv (vv 2)))) = true ∧
    readyB g1 true (((Uses.vr (vr 1)).and (Uses.group (vr 0) (127 + 1))).and (Uses.vv (vv 2))) st = true ∧
    goes2 (readGroup 0 128) (fun _ => readVV (vv 2)) (st.begun (((Uses.vr (vr 1)).and (Uses.group (vr 0) 128)).and (Uses.vv (vv 2)))) = true ∧
    readyB g1 true (((Uses.group (vr 126) (1 + 1)).and (Uses.vv (vv 2))).and (Uses.vsrc (.sc (.imm 1)))) st = true ∧
    goes2 (readVV (vv 2)) (fun x => scatter 126 1#32 x (List.replicate 32 1) 2) st = true := by decide +kernel

/-- The accesses of a thread: refused at each check in turn, and passed, at the ends of the ranges. -/
theorem witness_AccessChecks :
    5 % 8 ≠ 0 ∧ (0 % 8 = 0 ∧ 2 ^ 48 ≤ 2 ^ 48) ∧ (2 ^ 48 - 8) % 8 = 0 ∧ heldPte stF (coreBufs 0) 0 ((2 ^ 48 - 8) / 2 ^ 21) = none ∧
    stF.me.wait ≠ .walkFault ((2 ^ 48 - 8) / 2 ^ 21) ∧
    heldPte stF (coreBufs 0) 0 (2097144 / 2 ^ 21) = some tablePte ∧
    ¬ ((pteLoc tablePte 2097144).attr = 2#2 ∧ sparseLimit ≤ (pteLoc tablePte 2097144).off) ∧
    (pteLoc 0xC000000000000000 sparseLimit).attr = 2#2 ∧ sparseLimit ≤ (pteLoc 0xC000000000000000 sparseLimit).off ∧
    (pteLoc 0xA000000000000000 0).wr = false ∧ attrBad .atomic (pteLoc 0xC000000000000000 0) = true ∧
    attrBad .rowadd (pteLoc 0xE000000000000000 65535) = true ∧ attrBad .rowadd (pteLoc 0xE000000000000000 65536) = false ∧
    (stF.me.kind ≠ .handler ∧ stF.spSize (stF.prt 0) = 1048576) ∧ (spPlace stF (stF.prt 0) 1048568).isSome = true ∧
    (stF.ats.find? (fun e => e.1 == atsKey stF.me.part (coreDie 0) (8 / 4096))).map (·.2) = some 5 ∧ (stF.prt 0).hgrant = true ∧
    (st.prt 0).hgrant = false ∧ (stF.ats.find? (fun e => e.1 == atsKey 0 0 (4096 / 4096))).map (·.2) = none ∧
    stF.me.wait ≠ .atsFault 1 ∧ bitOf ((stF.prt 0).cfReg 0x48) 63 = true ∧ bitOf ((stF.prt 0).cfReg 0x4F) 63 = false ∧
    (let s := st.modThr 0 (fun t => { t with kind := .handler })
     s.me.kind = .handler ∧ coreOf s.cur ≠ homeEp (pteLoc tablePte 0).home) ∧
    readyB g1 false (ldUses (.w .i64 9) (.w 8) (.imm 4)) st = true ∧
    (wgVal st.me (.w 8) + wiVal st.me (.imm 4)).toNat % ldBytes (.w .i64 9) ≠ 0 ∧
    readyB g1 true (stUses (.w 8) (.imm 64) (.v (vv 2))) st = true ∧
    (wgVal st.me (.w 8) + wiVal st.me (.imm 64)).toNat % stBytes (.v (vv 2)) ≠ 0 := by decide +kernel

/-- A message of the path may leave. -/
def sends (s : State) (p : Path) : Bool := s.pathOpen s.cur p && !s.pending s.me.task [p] && !s.me.specOn

theorem witness_LoadsAndStoresLeave :
    sends stF .ls = true ∧ sends (stF.begun pmFeat) .ls = true ∧ stF.pathTo 0 = .ls ∧
    readyB g1 false (ldUses (.w .i64 9) (.w 8) (.imm 8)) stF = true ∧ stays (dmAccess .load 8 8) stF = true ∧
    stays (spAccess 64 8) stF = true ∧ stays (hmAccess 8 8) stF = true ∧
    readyB g1 true (ldUses (.v (vr 127)) (.g 8) (.imm 0)) stF = true ∧ stays (dmAccess .load 2097024 128) stF = true ∧
    stays (pmAccess 0 8 8) (stF.begun ((ldUses (.w .i64 9) (.w 8) (.imm 8)).and pmFeat)) = true ∧
    readyB g1 false ((ldUses (.w .i64 9) (.w 8) (.imm 8)).and pmFeat) stF = true ∧
    readyB g1 false (stUses (.w 8) (.imm 8) (.s .b8 (.w 1))) stF = true ∧
    goes (storeData (.s .b8 (.w 1)) 1#32) (stF.begun (stUses (.w 8) (.imm 8) (.s .b8 (.w 1)))) = true ∧
    stays (dmAccess .store 8 1) (stF.begun (stUses (.w 8) (.imm 8) (.s .b8 (.w 1)))) = true ∧
    stays (spAccess 8 1) (stF.begun (stUses (.w 8) (.imm 8) (.s .b8 (.w 1)))) = true ∧
    stays (hmAccess 8 1) (stF.begun (stUses (.w 8) (.imm 8) (.s .b8 (.w 1)))) = true ∧
    readyB g1 false ((stUses (.w 8) (.imm 8) (.s .b8 (.w 1))).and pmFeat) stF = true ∧
    stays (pmAccess 0 8 1) (stF.begun ((stUses (.w 8) (.imm 8) (.s .b8 (.w 1))).and pmFeat)) = true ∧
    -- and in an open region, whose core holds 63 messages at most
    (let s := stF.modThr 0 (fun t => { t with specOn := true })
     s.me.specOn = true ∧ s.heldOn (coreOf s.cur) < 64 ∧ readyB g1 false (stUses (.w 8) (.imm 8) (.s .b8 (.w 1))) s = true) := by
  decide +kernel

theorem witness_AtomicsLeave :
    sends stF .ls = true ∧ readyB g1 false (atUses 0x75 9 (.w 8) (.w 10)) stF = true ∧
    readyB g1 false (atUses 0x72 9 (.w 8) (.w 10)) stF = true ∧ readyB g1 false (atUses 0x7A 9 (.w 8) (.w 10)) stF = true ∧
    readyB g1 false ((atUses 0x7D 9 (.w 8) (.w 10)).and pmFeat) stF = true ∧
    stays (dmAccess .atomic 0 8) (stF.begun (atUses 0x75 9 (.w 8) (.w 10))) = true ∧
    stays (spAccess 0 8) (stF.begun (atUses 0x72 9 (.w 8) (.w 10))) = true ∧
    stays (hmAccess 0 4) (stF.begun (atUses 0x7A 9 (.w 8) (.w 10))) = true ∧
    stays (pmAccess 0 0 4) (stF.begun ((atUses 0x7D 9 (.w 8) (.w 10)).and pmFeat)) = true ∧
    goes (readSrc64 .b64 (.w 10)) (stF.begun (atUses 0x75 9 (.w 8) (.w 10))) = true := by decide +kernel

/-- A VERSIONED page, whose first row begins at 65,536 (R156). -/
def stRow : State :=
  { stF.modThr 0 (fun t => t.setW 11 65536) with tlbs := SMap.set [] stF.tlbs 0 [⟨0, 0, 0xF800000000000000⟩] }

theorem witness_RowsWordsFences :
    (let u := ((Uses.w 11).and (Uses.group (vr 126) 2)).and { feats := [0] }
     readyB g1 true u stRow = true ∧ stays (dmAccess .rowadd (stRow.me.w 11).toNat 256) (stRow.begun u) = true ∧
       goes (readGroup 126 2) (stRow.begun u) = true ∧ rowHeld stRow.me (pteLoc 0xF800000000000000 65536).key = false ∧
       stRow.pendingRow stRow.me.task (pteLoc 0xF800000000000000 65536).key = false ∧ sends (stRow.begun u) .ls = true) ∧
    (let u := ((((Uses.group (vr 126) 2).and (Uses.w 11)).and (Uses.wi (.imm 0))).and { feats := [0] }).and
       { extra := [.rver], conflict := some 0x77 }
     readyB g1 true u stRow = true ∧ stays (dmAccess .rowld (stRow.me.w 11).toNat 256) (stRow.begun u) = true) ∧
    stF.me.kind ≠ .handler ∧ readyB g1 false (Uses.w 9) stF = true ∧ readyB g1 false ((Uses.w 9).and (Uses.wi (.imm 0x70))) stF = true ∧
    (wiNat stF.me (.imm 0x7FFF) < 2 ^ 15 ∧ cfClass (wiNat stF.me (.imm 0x7FFF)) ≠ .shuone ∧ cfClass 0xE3 ≠ .shuone ∧ cfClass 0xE3 ≠ .ro) ∧
    readyB g1 false ((Uses.src (.w 9)).and { conflict := some 0x7F }) stF = true ∧
    goes (readSrc64 .b64 (.w 9)) (stF.begun ((Uses.src (.w 9)).and { conflict := some 0x7F })) = true ∧
    readyB g1 false (((Uses.wi (.imm 0xE3)).and (Uses.src (.w 9))).and { conflict := some 0x81 }) stF = true ∧
    readyB g1 false { conflict := some 0x82 } stF = true ∧ stF.pending stF.me.task (classPaths 3) = false ∧
    stF.copiesPending stF.me.task = false := by decide +kernel

/-- A record that is eligible near and far, with no anchor; and its words as a descriptor that has been read. -/
def rec0 : Rec := devRecord 0x1000#64 (List.replicate 8 5)
def stD : State := stF.modThr 0 (fun t => { t with pre :=
  [(4, wordsBytes (rec0.take 8)), (0x100, wordsBytes rec0), (0x200, leBytes 8 1), (0x208, leBytes 8 0)] })

theorem witness_Records :
    (nearEligible (Rec.header rec0) = true ∧ farEligible (Rec.header rec0) = true) ∧ (Rec.dcoff rec0) % 256 = 0 ∧ Rec.dcoff rec0 = 0 ∧
    ¬ (nearEligible 0 = true ∨ farEligible 0 = true) ∧
    (let r := recSet rec0 4 0x0000000100000000#64
     ¬ (Rec.dcoff r % 256 = 0)) ∧
    (let r := recSet (recSet rec0 3 0x8000000000000001#64) 4 4096#64
     Rec.alen r ≠ 0 ∧ 4096 < (Rec.abase r).toNat % 4096 + Rec.alen r) ∧
    (let r := recSet (recSet rec0 3 0x8000000000000000#64) 4 4096#64
     Rec.spAnchor r = true ∧ (Rec.abase r).toNat % 4096 + Rec.alen r ≤ 4096 ∧ fieldOf (Rec.abase r) 32 31 = 0 ∧
       (spPlace stF (stF.prt 0) (fieldOf (Rec.abase r) 0 32)).isSome = true) ∧
    ((stF.core 0).spawnOut < 32 ∧ (stF.core 0).spawnLimit = 32 ∧ stF.counted.pending stF.me.task [.ls, .nb, .am] = false ∧
      stF.counted.pathOpen stF.cur .ls = true) ∧
    ((stF.modCore 0 (fun c => { c with spawnOut := 32 })).core 0).spawnOut = 32 ∧
    readyB g1 false ((((Uses.wi (.imm 1)).and (Uses.wg (.w 8))).and (Uses.wi (.imm 16383))).and (Uses.args 24)) stD = true ∧
    goes2 (readDesc (.imm 1)) (fun ds => checkAndSend (descRecord ds 0 0 (List.replicate 8 0))) stD = true ∧
    readyB g1 false (Uses.w 9) stD = true ∧ goes2 (readPre 0x100 128) (fun bs => checkAndSend (bytesWords 16 bs)) stD = true ∧
    readyB g1 false (Uses.vr (vr 3)) stD = true ∧
    (let s := stD.modThr 0 (fun t => { t with header := devHeader })
     goes (checkAndSend (forkRecord s.me 0x40#64 0#64 0#64 0#64 0#64 (recArgs s.me 24 7))) s = true ∧
     readyB g1 false ((Uses.wi (.imm 3)).and (Uses.args 24)) s = true ∧
     readyB g1 false ((((Uses.wi (.imm 3)).and (Uses.wg (.g 8))).and (Uses.wi (.imm 0))).and (Uses.args 24)) s = true ∧
     readyB g1 false (((((Uses.wi (.imm 3)).and (Uses.wg (.w 8))).and (Uses.wi (.imm 0))).and (Uses.args 0)).and { conflict := some 0x94 }) s = true ∧
     s.me.owed = []) := by decide +kernel

/-- A record in a vector register goes through as well. -/
theorem witness_RecordOfRegister :
    goes2 (readVReg (vr 3)) (fun ls => checkAndSend (lanesRecord ls))
      (stD.modThr 0 (fun t => setLanes t 3 allLanes 0 (bytesLanes 32 (wordsBytes rec0)))) = true := by decide +kernel

theorem witness_Launches :
    readyB g1 false ((((Uses.wi (.imm 1)).and (Uses.wi (.imm 0))).and (Uses.wi (.imm 0x12))).and (Uses.args 24)) stD = true ∧
    (hdrF (Rec.header rec0) = true ∧ hdrGran (Rec.header rec0) ≤ 32) ∧ originOf 0#64 = some (0, 0) ∧ shapeOf 0x12#64 = some (4, 4) ∧
    originOf 1023#64 = some (31, 31) ∧ originOf 1024#64 = none ∧ shapeOf 64#64 = none ∧
    goes2 (readDesc (.imm 1)) (fun ds => (sendLaunch ds 0 0 4 4 : Act Ret)) stD = true ∧
    rectOk (stD.prt 0) 0 0 4 4 = true ∧ rectOk (stD.prt 0) 0 0 8 4 = false ∧
    readyB g1 false ((((Uses.wi (.imm 1)).and (Uses.w 9)).and (Uses.wi (.imm 0))).and (Uses.args 24))
      (stD.modThr 0 (fun t => t.setW 9 0x200)) = true ∧
    goes2 (readPre 0x200 8) (fun n => readMap 0x200 (bytesWord n).toNat 1) stD = true ∧
    placeRect (stD.prt 0) [0#64] 1 1 = some (0, 0) ∧ (stF.core 0).spawnOut < (stF.core 0).limit ∧ stF.me.specOn = false := by decide +kernel

theorem witness_CountersAndQueues :
    readyB g1 false ((Uses.w 9).and (Uses.wi (.imm (-1)))) stF = true ∧ stays (dmAccess .atomic 0 256) stF = true ∧ sends stF .ls = true ∧
    stF.pending stF.me.task [.ls, .nb, .am] = false ∧ stF.recordPath 0 = .ls ∧
    readyB g1 false (((Uses.w 9).and (Uses.wi (.imm 3))).and (Uses.w 10)) stD = true ∧
    goes2 (readPre 0x100 128) (fun bs => checkRecord (bytesWords 16 bs)) stD = true ∧
    readyB g1 false (((Uses.wg (.g 8)).and (Uses.wi (.imm 15))).and (Uses.wi (.imm 47))) stF = true ∧ stays (anchorHome 0#64) stF = true ∧
    stays (anchorHome 0x80000000000FFFFF#64) stF = true ∧
    ((wiVal stF.me (.imm 47)).toNat ≤ 47 ∧ (wiVal stF.me (.imm 255)).toNat ≤ 255 ∧ (wiVal stF.me (.imm 128)).toNat % 128 = 0) ∧
    (let u := (((Uses.dst 0x98 (.w 9)).and (Uses.w 8)).and (Uses.wi (.imm 15))).and { conflict := some 0x98 }
     readyB g1 false u stF = true ∧ stays (anchorHome 0#64) (stF.begun u) = true) ∧
    readyB g1 false ((((Uses.vr (vr 9)).and (Uses.w 8)).and (Uses.wi (.imm 15))).and { conflict := some 0x99 }) stF = true := by
  decide +kernel

theorem witness_TasksEnd :
    stF.me.owed = [] ∧ readyB g1 false { conflict := some 0x08 } stF = true ∧ stF.me.cont = 0#64 ∧
    ((stF.modThr 0 (fun t => { t with cont := 0x100 })).me.cont ≠ 0#64 ∧ stays (dmAccess .atomic 0x100 256) stF = true) ∧
    readyB g1 false ((Uses.w 9).and { conflict := some 0x08 }) stF = true ∧ sends stF .ls = true := by decide +kernel

/-- A barrier of two whose first thread has arrived; one of one; an inert one. -/
theorem witness_Barriers :
    (let s := stF.modCore 0 (fun c => ((c.setBar 127 ⟨2, 0, 255, 9⟩).setBar 1 ⟨1, 0, 0, 0⟩).setBar 3 ⟨3, 2, 0, 1⟩)
     readyB g1 false (Uses.wi (.imm 127)) s = true ∧ wiNat s.me (.imm 127) = 127 ∧ s.me.wait = .none ∧ ((s.core 0).bar 127).count ≠ 0 ∧
       ((s.core 0).bar 127).arr + 1 < ((s.core 0).bar 127).count ∧ ((s.core 0).bar 1).count ≤ ((s.core 0).bar 1).arr + 1 ∧
       ((s.core 0).bar 3).count ≤ ((s.core 0).bar 3).arr + 1 ∧ ((s.core 0).bar 0).count = 0 ∧ barRecDone s.me 127 = false ∧
       s.me.restarted = false ∧ barRecDone (barArrive s 0 1).me 1 = true ∧ barRecDone (barArrive s 0 127).me 127 = false ∧
       barRecDone (barArrive s 0 1).me 1 = true) ∧
    readyB g1 false (((Uses.wi (.imm 127)).and (Uses.wi (.imm 255))).and (Uses.wi (.imm 16383))) stF = true ∧
    (let s := stF.modThr 0 (fun t => { t with wait := .bar 127 1 1#32 })
     (s.thr 0).active = true ∧ (s.thr 0).wait = .bar 127 1 1#32 ∧ 1 ≤ 1) := by decide +kernel

theorem witness_MessagesLeave :
    wiNat stF.me (.imm 255) = 255 ∧ stays (anchorHome 0#64) stF = true ∧ sends stF .ls = true ∧
    stF.pending stF.me.task [.ls, .nb, .am] = false ∧
    readyB g1 false ((((Uses.wg (.w 8)).and (Uses.wi (.imm 255))).and (Uses.wi (.imm 9))).and Uses.amArgs) stF = true ∧
    readyB g1 false (((Uses.wg (.w 8)).and (Uses.wi (.imm 255))).and (Uses.wi (.imm 0x7FFF))) stF = true ∧
    readyB g1 false ((Uses.wg (.w 8)).and (Uses.wi (.imm 255))) stF = true := by decide +kernel

/-- An unbound port; the last core of the partition and one past it; a bound port; a channel with a receiver; a cellar core. -/
theorem witness_StreamPorts :
    (let u := (((Uses.wi (.imm 15)).and (Uses.wi (.imm 15))).and portUses).and { conflict := some 0xA5 }
     readyB g1 false u stF = true ∧ readyB g1 false u stQ = true) ∧ stF.me.port 7 = .unbound ∧ stQ.me.port 4 ≠ .unbound ∧
    (stF.prt 0).coreAt (wiNat stF.me (.imm 15)) = some 99 ∧ (stF.prt 0).coreAt (wiNat stF.me (.imm 16)) = none ∧
    (let v := ((Uses.wi (.imm 2)).and portUses).and { conflict := some 0xA5 }
     readyB g1 false v stF = true ∧ readyB g1 false v stQ = true) ∧ ((stF.core 0).chan 2).receiver = none ∧ ((stQ.core 0).chan 2).receiver ≠ none ∧
    stQ.me.port 7 = .unbound ∧ isCellar 0 = false ∧
    (let s := { stF with cur := 16384 }.setThr 16384 { stF.me with part := 0 }
     isCellar (coreOf s.cur) = true ∧ readyB g1 false (((Uses.wi (.imm 2)).and portUses).and { conflict := some 0xA5 }) s = true ∧
       ((s.core (coreOf s.cur)).chan 2).receiver = none) ∧
    readyB g1 false (portUses.and { conflict := some 0xA6 }) stQ = true ∧ stQ.me.owed = [] := by decide +kernel

theorem witness_SpeculativeRegions :
    readyB g1 false { feats := [2] } stF = true ∧ readyB g1 false ((Uses.w 9).and { feats := [2] }) stF = true ∧ stF.me.specOn = false ∧
    (let s := stF.modThr 0 (fun t => { t with specOn := true, held := [⟨[], false, false, spaceDm, 0, []⟩] })
     let s0 := s.begun ((Uses.w 9).and { feats := [2] })
     readyB g1 false ((Uses.w 9).and { feats := [2] }) s = true ∧ s.me.specOn = true ∧ s.me.wait = .none ∧
       (releaseHeld s.me.held s0).me.held = []) := by decide +kernel

theorem witness_SoleraSlots :
    (slTwo.all (fun row => readyB g1 false ((((Uses.w 9).and (Uses.slotOp (.sl 7))).and (Uses.src (.w 10))).and (slUses row.1)) stF)) = true ∧
    stF.me.wait = .none ∧ (stF.prt 0).poolSize ≤ slotVal stF.me (.sl 8) ∧ slotVal stF.me (.sl 7) < (stF.prt 0).poolSize ∧
    goes (readSrc64 .b64 (.w 10)) (stF.begun ((((Uses.w 9).and (Uses.slotOp (.sl 7))).and (Uses.src (.w 10))).and (slUses 0xB1))) = true ∧
    (List.all [0xB0, 0xB5] (fun op => readyB g1 false (((Uses.ldDst (.w .i64 9)).and (Uses.slotOp (.sl 7))).and (slUses op)) stF &&
      readyB g1 false (((Uses.ldDst (.v (vr 9))).and (Uses.slotOp (.w 3))).and (slUses op)) stF)) = true ∧
    readyB g1 false (((Uses.w 9).and (Uses.slotOp (.sl 0))).and (slUses 0xB7)) stF = true ∧
    readyB g1 false (((Uses.w 9).and (Uses.src (.w 10))).and (slUses 0xB4)) stF = true ∧
    readyB g1 false (((Uses.w 9).and (Uses.vr (vr 10))).and (slUses 0xB4)) stF = true ∧
    readyB g1 false ((Uses.w 9).and (slUses 0xB7)) stF = true ∧
    (let s := stF.modThr 0 (fun t => { t with wait := .slotDone (.ok [5] true 4) })
     s.me.wait = .slotDone (.ok [5] true 4) ∧
       readyB g1 false ((((Uses.w 9).and (Uses.slotOp (.sl 7))).and (Uses.src (.w 10))).and (slUses 0xB6)) s = true ∧
       readyB g1 false (((Uses.ldDst (.v (vr 9))).and (Uses.slotOp (.sl 7))).and (slUses 0xB0)) s = true) ∧
    (let s := stF.modThr 0 (fun t => { t with wait := .slotDone (.trap 0x61 3) })
     s.me.wait = .slotDone (.trap 0x61 3) ∧ readyB g1 false (((Uses.ldDst (.w .i64 9)).and (Uses.slotOp (.sl 7))).and (slUses 0xB0)) s = true) := by
  decide +kernel

/-- A plane of ones in FP format and an engine that its task holds. -/
def engI8 : Engine := { Engine.free with holder := some 0, active := ⟨some .i8, false, true, [], []⟩ }
/-- A task of 16 granules whose core's engine it holds. -/
def stE : State := (stF.modThr 0 (fun t => { t with gran := 16 })).modCore 0 (fun c => { c with engine := engI8 })

theorem witness_PlaneLoads :
    (let u := matUses ((Uses.group (vr 64) 64).and (Uses.ty .int4x))
     readyB g1 false u stE = true ∧ goes2 (readGroup 64 64) (fun _ => needEngine) (stE.begun u) = true ∧ engI8.loading = false) ∧
    (let u := matUses ((Uses.genMat (.shift (.imm 511))).and (Uses.ty .i8))
     readyB g1 false u stE = true ∧ goes2 (readGen 0xC1 0x10 1 31 (.shift (.imm 511))) (fun _ => needEngine) (stE.begun u) = true) ∧
    readyB g1 false (matUses (Uses.group (vr 8) 8)) stE = true ∧ goes2 (readGroup 8 8) (fun _ => needEngine) stE = true ∧
    readyB g1 false (matUses Uses.none) stE = true ∧ stays needEngine stE = true ∧ rowsWaiting engI8 = false ∧
    (let e := { Engine.free with waiters := [3, 5] }
     e.holder = none ∧ e.waiters = [3, 5]) ∧
    (let j : MmaJob := ⟨.i8, 0, 1, 0, [.gen .ones], 0, [], 0, [], true, false, 0⟩
     (enterRow { engI8 with jobs := [j] }).isSome = true) ∧
    (let j : MmaJob := ⟨.i8, 0, 1, 1, [], 0, [], 0, [], true, false, 16⟩
     ({ engI8 with jobs := [j] } : Engine).holder = some 0 ∧ j.m ≤ j.next) := by decide +kernel

theorem witness_Multiplies :
    (let u := matUses ((mmaUses (.reg (vr 8)) (.imm 0)).and (Uses.ty .i8))
     readyB g1 false u stE = true ∧ stays (readRows 0xC4 0 3 63 (.imm 0) false) (stE.begun u) = true ∧
       stays (checkGroups (mmaGroup (.reg (vr 8)) 1)) (stE.begun u) = true ∧ goes (mmaRun .i8 63 (.reg (vr 8)) 1 false []) (stE.begun u) = true) ∧
    (let u := matUses ((mmaUses (.reg (vr 8)) (.imm (64 * 4 + 1))).and (Uses.ty .i8))
     readyB g1 false u stE = true ∧ stays (readRows 0xC4 0x10 3 62 (.imm (64 * 4 + 1)) true) (stE.begun u) = true ∧
       stays (checkGroups (mmaGroup (.reg (vr 8)) 2 ++ [(VReg.v 16, 8)])) (stE.begun u) = true ∧
       goes2 (readGroup 16 8) (fun xs => mmaRun .i8 62 (.reg (vr 8)) 2 true (chunks 16 64 ((xs.map lanesBytes).flatten.map BitVec.toNat)))
         (stE.begun u) = true) ∧
    (let u := matUses (((Uses.genMat .ident).and (Uses.wi (.imm 0))).and (Uses.ty .i8))
     readyB g1 false u stE = true ∧ stays (readRows 0xC5 0 3 0 (.imm 0) false) (stE.begun u) = true ∧
       goes2 (readGen 0xC5 0 2 63 .ident) (fun _ => needEngine) (stE.begun u) = true ∧ stays (mmaCheck engI8 .i8 false 0 1) stE = true ∧
       goes (mmaStart engI8 ⟨.i8, 0, 1, 0, [.gen (.one 0)], 0, [], 0, [], true, false, 0#7⟩) (stE.begun u) = true) := by decide +kernel

theorem witness_Accumulators :
    readyB g1 false (matUses (Uses.wi (.imm 63))) stE = true ∧ stays (readRows 0xC6 0 2 0 (.imm 63) false) stE = true ∧
    stays needEngine stE = true ∧ rowsBusy engI8 0 64 = false ∧
    readyB g1 false (matUses (Uses.group (vr 8) (if accWide .f56 then 2 else 1))) stE = true ∧ rowsBusy engI8 63 1 = false ∧
    goes2 (readVNum 8) (fun _ => readVNum 9) stE = true ∧
    readyB g1 false (matUses ((Uses.w 9).and (Uses.wi (.imm 2)))) stE = true ∧
    (stE.core 0).engine.holder = some 0 ∧ (stF.core 0).engine.holder = none ∧ (stF.core 0).engine.waiters = [] := by decide +kernel

theorem witness_Copies :
    readyB g1 false ((((Uses.wg (.w 9)).and (Uses.wg (.w 8))).and (Uses.wi (.imm 16376))).and { conflict := some 0xD0 }) stF = true ∧
    (wiNat stF.me (.imm 16376) % 8 = 0 ∧ wiNat stF.me (.imm 16376) ≤ 2 ^ 24 - 8) ∧
    goes (issueCopy (lineArgs .dm 3 0 16376) (.sp 0)) stF = true ∧
    readyB g1 false (((Uses.wg (.w 8)).and (Uses.wi (.imm 8))).and { conflict := some 0xD4 }) stF = true ∧
    goes (issueCopy (lineArgs .hm 3 0 8) (.stream 7)) stF = true ∧
    (List.all [0xD1, 0xD2, 0xD3] (fun op => readyB g1 false (((Uses.cpyDst (.sp 9)).and (Uses.vr (vr 12))).and { conflict := some op }) stF)) = true ∧
    (let ls : Lanes := [0, 0, 0, 0, 1, 8, 8, 8] ++ List.replicate 24 0
     goes2 (readVReg (vr 12)) (fun _ => readCpyDst (.sp 9)) (stF.modThr 0 (fun t => setLanes t 12 allLanes 0 ls)) = true ∧
       descBad (.cpyg true) .dm false ls = [] ∧ descBad (.cpyx true) .dm false ls = [] ∧ descBad .cpys .sp false ls = [] ∧
       goes (issueCopy (descArgs (.cpyg true) .dm 0 ls) (.sp 0)) stF = true ∧ goes (issueCopy (descArgs (.cpyx true) .dm 0 ls) (.sp 0)) stF = true ∧
       goes (issueCopy (descArgs .cpys .dm 0 ls) (.sp 0)) stF = true ∧ descBad .cpys .sp false (ls.set 1 1) = [1]) ∧
    stays (checkCopyTo (lineArgs .dm 0 0 8) (.sp 0)) stF = true ∧ stF.me.outAll < 32 ∧ (stF.engine stF.me.copyEng).length < 256 ∧
    -- groups
    readyB g1 false (Uses.wi (.imm 32)) stF = true ∧ readyB g1 false { conflict := some 0xD6 } stF = true ∧ readyB g1 false (Uses.w 9) stF = true ∧
    ((stF.me.group 3).out ≤ wiNat stF.me (.imm 0) ∧ (stF.me.group 3).err = false) ∧
    (let s := stF.modThr 0 (fun t => (t.setGroup 0 ⟨2, 0, false, 0, 0, 0⟩).setGroup 1 ⟨0, 1, true, 1, 0, 0⟩)
     wiNat s.me (.imm 1) < (s.me.group 0).out ∧ (s.me.group 1).out ≤ wiNat s.me (.imm 0) ∧ (s.me.group 1).err = true) := by decide +kernel

/-- Copies at their engine: new, begun with its row read, fed to a stream, over, and one whose page has no entry. -/
def cp0 : Copy :=
  { id := 5, thr := 0, task := 0, part := 0, kind := .cpy, space := .dm, grp := 0, sbase := 0, ibase := 0, nrows := 1, rowb := 8, sstride := 8,
    dstride := 8, bound := 0, dst := 0, stream := none, started := false, row := 0, opened := 0, rows := [], index := [], indexed := 0,
    bad := none, ready := [], skip := 0, age := 0, via := [], fault := none, finished := false }

theorem witness_CopySteps :
    (let s := stF.setEngine 0 [cp0]
     (s.engine 0)[0]? = some cp0 ∧ cp0.started = false ∧ ((s.engine 0).take 0).all (fun x => x.started) = true) ∧
    (let k := { cp0 with finished := true, fault := some 1 }
     let s := (stF.setEngine 0 [k]).modThr 0 (fun t => t.setGroup 0 ⟨1, 0, false, 0, 0, 0⟩)
     k.over = true ∧ (s.engine 0).take 0 = [] ∧ (s.thr k.thr).active = true ∧ (s.thr k.thr).task = k.task ∧ k.fault ≠ none) ∧
    (let k := { cp0 with started := true, bad := some (0, 1) }
     (match copyNext (stF.setEngine 0 [k]) 0 k with | .fault c => some c | _ => none) = some 1 ∧ k.stream = none) ∧
    (let k := { cp0 with started := true, stream := some 7, ready := List.replicate 8 1, row := 1 }
     let s := (stF.setEngine 0 [k]).modThr 0 (fun t => t.setStream 7 ⟨true, 5, 0, [], 8, 0, 0⟩)
     k.stream = some 7 ∧ (s.thr k.thr).active = true ∧ (s.thr k.thr).task = k.task ∧ ((s.thr k.thr).stream 7).copyId = k.id ∧
       k.ready ≠ [] ∧ (s.core (coreOf k.thr)).engine.jobs = [] ∧ ((s.thr k.thr).stream 7).buf.length + k.ready.length ≤ 4096) ∧
    (let k := { cp0 with started := true, opened := 1, rows := [⟨0, [(0, 0x0101010101010101)], []⟩] }
     (match copyNext (stF.setEngine 0 [k]) 0 k with | .go _ _ => true | _ => false) = true) := by decide +kernel

theorem witness_System :
    (stF.core (coreOf stF.cur)).engine.jobs = [] ∧ readyB g1 false ((Uses.w 9).and { extra := sysRegs stF 0x17F }) stF = true ∧
    readyB g1 false ((Uses.src (.w 9)).and { extra := sysRegs stF 0x007 }) stF = true ∧
    readyB g1 false ((Uses.src (.w 9)).and { extra := sysRegs stF 0x001 }) stF = true ∧
    goes (readSrc64 .b64 (.w 9)) (stF.begun ((Uses.src (.w 9)).and { extra := sysRegs stF 0x007 })) = true ∧
    (sysClass 0x007 = .rw ∧ sysClass 0x001 = .ro ∧ sysClass 0x010 = .rwT ∧ stF.me.tm = false) ∧
    (stF.modThr 0 (fun t => { t with tm := true })).me.tm = true ∧ stF.me.active = true ∧
    ¬ (fieldOf 0x0000000A#64 16 16 ≤ fieldOf 0x0000000A#64 0 16 ∧ fieldOf 0x0000000A#64 0 16 ≤ fieldOf 0x0000000A#64 16 16 + 9) ∧
    (fieldOf 0x00000009#64 16 16 ≤ fieldOf 0x00000009#64 0 16 ∧ fieldOf 0x00000009#64 0 16 ≤ fieldOf 0x00000009#64 16 16 + 9) ∧
    stF.pending stF.me.task [.ls, .nb] = false ∧ readyB g1 false (Uses.w 9) stF = true ∧ usesPage stF 0 (some 0) = false ∧
    readyB g1 false Uses.none stF = true ∧ usesPage stF 0 none = false ∧ stF.pending stF.me.task [.ls, .nb, .am] = false ∧
    stF.copiesPending stF.me.task = false := by decide +kernel

/-! ### At the homes -/

/-- A request at an endpoint's router port, sent by thread 0. -/
def msg (dst : Nat) (req : Req) : Msg := ⟨0, dst, 0, .ls, 0, 0, 0, 0, 1, req, none, 0⟩
def stM (e : Nat) (req : Req) : State := stF.modHome e (fun h => { h with router := [msg e req] })
/-- The place of an address of the RESIDENT page, of a VERSIONED and of a SPARSE one, and of a page in a frame that nobody has. -/
def lR (va : Nat) : DmLoc := pteLoc tablePte va
def lV (va : Nat) : DmLoc := pteLoc 0xF800000000000000 va
def lX : DmLoc := pteLoc 0xB800000000000003 0
/-- The line of an address is poisoned. -/
def poison0 (s : State) : State := s.modHome 1024 (fun h => { h with poisoned := [0] })

theorem witness_HomeAccesses :
    (List.all [Req.load (.dm (lR 0)) 8, .store (.sp 0) [some 1], .atomic .addI64 (.dm (lR 8)) 1 0, .rowadd (.dm (lV 65536)) .f32 1 (List.replicate 64 0),
      .rowld (.dm (lV 65536)) 1] (fun r => decide (inboxNext (stM 1024 r) 1024 false = some (0, msg 1024 r)))) = true ∧
    (stF.prt 0).discard = false ∧ locRefused stF 0 (.dm lX) = true ∧ locRefused stF 0 (.dm (lR 0)) = false ∧
    locBad stF (.dm (lR 0)) 8 = false ∧ locBad (poison0 stF) (.dm (lR 0)) 8 = true ∧ isSparse (.sp 0) = false ∧
    frameOk stF 0 (lV 65536) = true ∧ rowBad stF (lV 65536) = false := by decide +kernel

theorem witness_StoresChangeMemory :
    ((lR 0).attr ≠ 2#2 ∧ (lR 0).attr ≠ 3#2) ∧ (logParts stF 0 (lR 0)).all (fun q => logCnt (stF.prt q) == 0) = true ∧
    ((lV 63488).attr = 3#2 ∧ 63488 ≤ (lV 63488).off ∧ (lV 65535).off < 65536) ∧
    (let s := stF.modPart 0 (fun p => { p with ckptEff := 0x0000000100000001 })
     logCnt (s.prt 0) ≠ 0 ∧ ((s.home 1024).log 0).any (fun e => e.line == 0) = false ∧
       ((logLine s 0 0 0).home 1024).log 0 ≠ []) := by decide +kernel

theorem witness_OtherAccesses :
    inboxNext (stM 1500 (.hmLoad 0 8 [])) hostEp false = some (0, msg 1500 (.hmLoad 0 8 [])) ∧
    inboxNext (stM 1500 (.hmStore 0 (List.replicate 9 (some 1)))) hostEp false = some (0, msg 1500 (.hmStore 0 (List.replicate 9 (some 1)))) ∧
    inboxNext (stM 1517 (.pmLoad 0 8)) (peerEp 7) false = some (0, msg 1517 (.pmLoad 0 8)) ∧
    inboxNext (stM 1400 (.mbWrite 3 7 1)) (mbEp 0) false = some (0, msg 1400 (.mbWrite 3 7 1)) ∧
    cfOwnStep (stF.prt 0).preempt 0x70 5 = false ∧ cfClass 0x70 = .rw ∧
    cfHead (stM 1400 (.cfWrite 0x3F 1)) 0 = some (0, 0x3F, 1) ∧ cfHead (stM 1400 (.cfWrite 0x41 1)) 0 = some (0, 0x41, 1) ∧
    cfHead (stM 1400 (.cfWrite 0x60 1)) 0 = some (0, 0x60, 1) := by decide +kernel

/-! ### What arrives -/

/-- A message in the network. -/
def stN (m : Msg) : State := { stF with net := [m] }
/-- A word reply for `w9`, and one that has landed. -/
def owe (f : Fill) (tok : Nat) : Owed := ⟨tok, [.stk 9], f, [], false, none, .ls⟩
def stL (f : Fill) (r : Req) : State := stF.modThr 0 (fun t => { t with owed := [owe f 1], landing := [⟨1, r⟩] })

theorem witness_RepliesLand :
    (let s := stN (msg 1024 (.load (.dm (lR 0)) 8))
     s.net[0]? = some (msg 1024 (.load (.dm (lR 0)) 8)) ∧ SMap.get 0 s.seqIn (pairKey 0 1024) = 0 ∧ isReply (Req.load (.dm (lR 0)) 8) = false) ∧
    (let m : Msg := ⟨1024, 0, 0, .ls, 0, 0, 0, 0, 1, .bytes [1], none, 0⟩
     let s := { stL (.word (.stk 9)) (.word 1 0) with net := [m] }
     s.isFor m = true ∧ SMap.get 0 s.seqIn (pairKey 1024 0) = 0) ∧
    (msg 1510 (.pmLoad 0 8)).seq = SMap.get 0 (stN (msg 1510 (.pmLoad 0 8))).seqIn (pairKey 0 1510) ∧
    (let s := stF.modCore 0 (fun c => { c with fwdIn := [msg 0 (.word 1 0)], fwd := [⟨0, 16⟩] })
     (s.core 0).fwdIn[0]? = some (msg 0 (.word 1 0)) ∧ s.fwdOf 0 0 = some ⟨0, 16⟩) ∧
    (let r : Route := ⟨1, 0, 1, 2, false, [], [0], 0, 0, 0, false, false⟩
     { stF with routes := [r] }.routes[0]? = some r ∧ r.complete = false) ∧
    (List.all [stL (.w (.stk 9) .i64 8) (.bytes (List.replicate 8 1)), stL (.word (.stk 9)) (.word 1 2), stL (.v 3 1) (.bytes (List.replicate 128 1)),
      stL (.word (.stk 9)) (.refusal 8)] (fun s => (s.thr 0).active && ((s.thr 0).owed.find? (fun x => x.tok == 1)).isSome)) = true ∧
    replyTrap (.refusal 8) ≠ none ∧ (∀ r < 4, PReg.stk 9 ≠ .v r) := by decide +kernel

/-- Page tables in memory: a root in frame 1 of channel 0, whose entry 0 leads to a table in frame 2, whose entry 0 maps page 0. -/
def stT : State :=
  let s := stF.modPart 0 (fun p => p.setCf 0x41 (ptrootWord (0, 1)))
  { s with mem := (s.mem.writeN (1 * 2 ^ 21) (wordBytes (framePte 0 false (0, 2)))).writeN (2 * 2 ^ 21) (wordBytes tablePte)
           chanOwner := SMap.set Owner.nobody (SMap.set Owner.nobody s.chanOwner 1 (.part 0)) 2 (.part 0) }

theorem witness_Walks :
    walkPage stT 0 0 = some tablePte ∧ walkPage stT 0 1 = none ∧
    (stT.modThr 0 (fun t => { t with wait := .walk 0 })).me.wait = .walk 0 ∧ 0 < 2 ^ 20 := by decide +kernel

/-- A queue of home 0 with room, one full in hardware with a spill region, and one whose region is full. -/
def stR (f : Queue → Queue) : State :=
  (stM 1024 (.record rec0 true)).modQueue 0 0 0 f
def entry (n : Nat) : QEntry := ⟨n, rec0, none⟩

theorem witness_RecordsArrive :
    inboxNext (stR id) 1024 false = some (0, msg 1024 (.record rec0 true)) ∧ (stR id).halted 0 = false ∧
    olderRecord (inboxTake (stR id) 1024 false 0) (msg 1024 (.record rec0 true)) = false ∧
    ((((stR (fun q => { q with entries := List.replicate 47 (entry 0) })).home 1024).queue 0 0).hw < 48 ∧
      (((stR id).home 1024).queue 0 0).spilled = 0) ∧
    (let s := stR (fun q => { q with entries := List.replicate 48 (entry 0), spsize := 1, spbase := 0x100 })
     let x := (s.home 1024).queue 0 0
     ¬ (x.hw < 48 ∧ x.spilled = 0) ∧ x.noSpill = false ∧ x.used < x.spsize ∧
       (spillWrite (inboxTake s 1024 false 0) 0 0 (spillVa x x.tail) rec0).isSome = (walkVa s 0 0x100).isSome) ∧
    (let s := stR (fun q => { q with entries := List.replicate 48 (entry 0) })
     let x := (s.home 1024).queue 0 0
     ¬ (x.hw < 48 ∧ x.spilled = 0) ∧ x.spsize ≤ x.used) ∧
    ((stR id).modPart 0 (fun p => { p with containing := .rollback })).halted 0 = true := by decide +kernel

/-- A record that spills: the region lies in a mapped page. -/
theorem witness_Spill :
    (let s := { stT.modHome 1024 (fun h => { h with router := [msg 1024 (.record rec0 true)] }) with tlbs := stT.tlbs }.modQueue 0 0 0
        (fun q => { q with entries := List.replicate 48 (entry 0), spsize := 1, spbase := 0x100 })
     let x := (s.home 1024).queue 0 0
     ¬ (x.hw < 48 ∧ x.spilled = 0) ∧ x.used < x.spsize ∧ (spillWrite (inboxTake s 1024 false 0) 0 0 (spillVa x x.tail) rec0).isSome = true) := by
  decide +kernel

theorem witness_QueuesDecide :
    (let m := msg 1024 (.record rec0 true)
     (stF.modCore 0 (fun c => { c with resend := [m] }) |>.core 0).resend[0]? = some m) ∧
    (let m := msg 1024 (.steal 0 false)
     let q := fun n => stF.modQueue 0 0 0 (fun q => { q with thresh := 1, entries := List.replicate n (entry 0), steals := [m] })
     let x := ((q 2).home 1024).queue 0 0
     x.takes = [] ∧ x.steals = [m] ∧ (q 2).halted 0 = false ∧ x.thresh < x.depth ∧
       (farChoice ((q 2).modQueue 0 0 0 (fun y => { y with takes := [], steals := [] })) 0 0 0 0).map (·.spilled) = some none ∧
       (((q 1).home 1024).queue 0 0).depth ≤ (((q 1).home 1024).queue 0 0).thresh) ∧
    (let s := stF.modQueue 0 0 0 (fun q => { q with entries := [entry 0], takes := [5] })
     ((s.home 1024).queue 0 0).takes = [5] ∧ takesNear s 0 0 = true ∧ s.slotFree (1024 * 16 + 5) = true ∧
       (nearChoice (s.modQueue 0 0 0 (fun y => { y with takes := [], steals := [] })) 0 0 0).isSome = true) ∧
    (let s := stF.modQueue 0 0 3 (fun q => { q with entries := [entry 0] })
     (s.home 1024).queues.map (·.1) = [3] ∧ s.slotFree (1024 * 16 + 5) = true ∧ takePendingAt s 0 5 = false ∧ nextHandler s 1024 = none ∧
       draw (nextX (s.core 1024).genX) (nearOffers s 0) = some 3) := by decide +kernel

theorem witness_CounterBlocks :
    (List.all [Req.decrement (.dm (lR 256)), .deposit (.dm (lR 256)) rec0, .setdep (.dm (lR 256)) 3 none] (fun r =>
      decide (inboxNext (stM 1024 r) 1024 false = some (0, msg 1024 r)))) = true ∧ frameOk stF 0 (lR 256) = true ∧
    (stF.prt 0).discard = false ∧ locBad stF (.dm (lR 0)) 256 = false ∧ locBad (poison0 stF) (.dm (lR 0)) 256 = true ∧
    blockCount (setBlockWord stF 0 (lR 256) 0 2#64) 0 (lR 256) = 2 ∧ blockCount (setBlockWord stF 0 (lR 256) 0 1#64) 0 (lR 256) = 1 ∧
    blockState stF 0 (lR 256) ≠ 1#64 ∧ blockState stF 0 (lR 256) ≠ 2#64 ∧ blockCount stF 0 (lR 256) ≤ 0 ∧
    blockState (setBlockWord stF 0 (lR 256) 8 1#64) 0 (lR 256) = 1#64 ∧ blockState (setBlockWord stF 0 (lR 256) 8 2#64) 0 (lR 256) = 2#64 ∧
    ((lR 256).attr = 1#2 ∧ (lR 256).va % 256 = 0) := by decide +kernel

theorem witness_ActiveMessages :
    (List.all [Req.bind 255 0x40, .unbind 255, .amsg 255 1 [2]] (fun r => decide (inboxNext (stM 1024 r) 1024 false = some (0, msg 1024 r)))) = true ∧
    stF.halted 0 = false ∧ SMap.get 0#64 (stF.home 1024).tags (tagKey 0 255) = 0#64 ∧
    (let s := stF.modHome 1024 (fun h => { h with tags := SMap.set 0 h.tags (tagKey 0 255) 0x41, amq := [⟨0, 0x40, 1, [2]⟩] })
     SMap.get 0#64 (s.home 1024).tags (tagKey 0 255) ≠ 0#64 ∧ s.slotFree (1024 * 16 + 7) = true ∧ takePendingAt s 0 7 = false ∧
       1 ≤ granulesLeft s 1024 ∧ nextHandler s 1024 = some ⟨0, 0x40, 1, [2]⟩) := by decide +kernel

/-- A posted write of the host on its way to home 0. -/
def hostStore : Msg := ⟨hostEp, 1024, 0, .hp, 0, 0, 0, 0, 0, .store (.dm (lR 0)) [some 1], none, 0⟩

/-- Work at core 1: a launch instance in a run-list, one at the door, and a full list. -/
def inst0 : Inst := ⟨0, rec0, 0, 0, 1, 1, 0, 0, 0⟩

theorem witness_Dispatching :
    (let s := stF.modCore 1 (fun c => c.setRunlist 3 [⟨inst0, none⟩])
     mayChoose s 16 = some 0 ∧ (s.core 1).decision 0 = Decision.init ∧ (s.core 1).runCount ≠ 0 ∧
       draw (nextX (s.core 1).genX) (classTickets s 1 0) = some 3 ∧ (s.core 1).runlist 3 = [⟨inst0, none⟩]) ∧
    (mayChoose stF 16 = some 0 ∧ (stF.core 1).runCount = 0 ∧ nextCand stF 1 0 Decision.init = none) ∧
    (let s := { stF with pub := [(pubKey 0 0 3, 2)] }
     (nextCand s 1 0 Decision.init).isSome = true) ∧
    (let s := stM 1 (.launch inst0)
     inboxNext s 1 false = some (0, msg 1 (.launch inst0)) ∧ s.halted 0 = false ∧ roomForLaunch s 1 = true ∧ (s.core 1).launchWait = []) ∧
    (let s := stF.modCore 1 (fun c => { c.setRunlist 0 (List.replicate 32 ⟨inst0, none⟩) with launchWait := [inst0] })
     roomForLaunch s 1 = false ∧ waitingMail s 1 = none) ∧
    (let s := stF.modCore 1 (fun c => { c with launchWait := [inst0] })
     roomForLaunch s 1 = true ∧ waitingMail s 1 = none ∧ (s.core 1).launchWait = [inst0]) ∧
    -- the resident core keeps its last entry for a bound message that host writes hold back; another core does not
    (let s := { (stF.modPart 0 (fun p => p.setMbox 3 { p.mbox 3 with held := true, bound := some 0x8000000000000040, before := [(1024, 0)] })).modCore 0
       (fun c => c.setRunlist 0 (List.replicate 31 ⟨inst0, none⟩)) with net := [hostStore] }
     partOfCore s 0 = some 0 ∧ (s.prt 0).resident = 0 ∧ roomForLaunch s 0 = false ∧ waitingMail s 0 = none ∧ (s.core 0).runCount < 32) ∧
    (partOfCore stF 1 = some 0 ∧ (stF.prt 0).resident ≠ 1) ∧
    (let s := stF.modPart 0 (fun p => (p.setCf 0xE3 0x8000000000000040).setMbox 3 { p.mbox 3 with held := true, bound := some 0x8000000000000040 })
     waitingMail s 0 = some (0, 3)) := by decide +kernel

theorem witness_TasksStart :
    (stF.thr 16).active = false ∧ hdrGran (Rec.header rec0) ≤ granulesLeft stF 1 ∧ dispatches stF 1 0 = true ∧
    (let s := stF.modCore 1 (fun c => { c with starting := [(0, ⟨inst0, some 3⟩)] })
     (s.core 1).starting.find? (fun x => x.1 == slotOf 16) = some (0, ⟨inst0, some 3⟩)) ∧
    (let s := stF.modCore 1024 (fun c => { c with granted := [(0, rec0, 15, some ⟨0, 0, 15, 0⟩)] })
     (s.core 1024).starting.find? (fun x => x.1 == slotOf 16384) = none ∧
       (s.core 1024).granted.find? (fun x => x.1 == slotOf 16384) = some (0, rec0, 15, some ⟨0, 0, 15, 0⟩) ∧
       hdrGran (Rec.header rec0) ≤ granulesLeft s 1024 ∧ dispatches s 1024 0 = true) ∧
    partOfCore stF 1 = some 0 := by decide +kernel

theorem witness_Mailboxes :
    (stF.prt 0).present = true ∧ ((stF.prt 0).mbox 3).busy = false ∧ canPlace stF 0 3 = false ∧
    (let s := stF.modPart 0 (fun p => (p.setCf 0xE3 0x8000000000000040).setMbox 3 { p.mbox 3 with held := true, busy := true, bound := some 0x8000000000000040 })
     canPlace s 0 3 = true ∧ ((s.prt 0).mbox 3).busy = true) ∧
    cfHead (stM 1400 (.cfWrite 0xE3 0x8000000000000040)) 0 = some (0, 0xE0 + 3, 0x8000000000000040) ∧
    (let s := stF.modPart 0 (fun p => { p.setCf 0xE3 0x8000000000000040 with replay := [⟨List.replicate 8 1, 3, 1⟩] })
     (s.prt 0).retiredTasks < 1 ∧ s.halted 0 = false ∧ mbBind (s.prt 0) 3 ≠ none ∧ (s.core (s.prt 0).resident).runCount < 32) ∧
    -- a write that the host sent before its message, and one that it sent after
    (let p (ws : List (Nat × Nat)) := stF.modPart 0 (fun p => p.setMbox 3 { p.mbox 3 with held := true, bound := some 1, before := ws })
     let s := { p [(1024, 0)] with net := [hostStore] }
     let s1 := { p [] with net := [hostStore] }
     hostStore ∈ s.inFlight ∧ hostWrites s 0 = [(1024, 0)] ∧ hostWrites s 1 = [] ∧ canPlace s 0 3 = false ∧ canPlace s1 0 3 = true) := by decide +kernel

theorem witness_UnitSteps :
    (let o : DramReq := ⟨0, 4, 0, 0, 0⟩
     let r : DramReq := ⟨0, 5, 1, 7, 1⟩
     let s := { stF.modHome 1024 (fun h => { h with dram := [o, r], openRow := [(0, 6)], now := 3 }) with agecap := [(0, 2)] }
     let x := s.home 1024
     bankChoice (SMap.get 0 s.agecap 0) x.now (SMap.get 0 x.openRow 0) (SMap.get 0#32 x.lastTag 0) (bankReady x 0) = some o ∧
       bankChoice 3 3 6 7 [o, r] = some r ∧ r.row + 1 = 6 ∧ r.tag = 7) ∧
    SMap.get 0 ({ stF with scrubrate := [(0, 1000)] } : State).scrubrate 0 ≠ 0 ∧
    -- a slot of the pool meets the station of core 0, whose thread asks for it
    (let s := (stF.modThr 0 (fun t => { t with wait := .slot ⟨.swap 9, 7, 3, 0⟩ })).setSlot 7 ⟨.full, 0, List.replicate 8 1, 0⟩
     let time := nextPass 7 0 0
     slRequests s 0 7 time = [(0, ⟨.swap 9, 7, 3, 0⟩)] ∧ (s.slot 7).part = (s.thr 0).part ∧ (s.slot 7).state = .full ∧
       (slTimes s).all (fun x => decide (passTime s 7 0 ≤ x)) = true ∧ (s.slot 8).part ≠ (s.thr 0).part ∧ slIsBoard (.swap 9) = false) ∧
    (let s := stF.modThr 0 (fun t => { t with wait := .slot ⟨.board (List.replicate 8 1), 0, 0, 0⟩ })
     let s := (List.range 8).foldl (fun s k => s.setSlot k ⟨.full, 0, List.replicate 8 1, 0⟩) s
     (s.thr 0).active = true ∧ (slMeets s 0).all (fun x => decide (0 + 1280 < x)) = true ∧ (slTimes s).all (fun x => decide (0 + 1280 ≤ x)) = true) := by
  decide +kernel

theorem witness_Containments :
    (st.prt 0).present = true ∧ (st.prt 0).containing = .none ∧ (st.prt 0).coll = false ∧ (stF.prt 0).coll = true ∧
    (let s := st.modPart 0 (fun p => { p with containing := .rollback })
     messagesLeft s 0 = false ∧ (s.prt 0).containing = .rollback ∧ messagesLeft { s with net := [msg 1024 (.load (.dm (lR 0)) 8)] } 0 = true) ∧
    (let s := st.modPart 0 (fun p => { p with containing := .destroy })
     messagesLeft s 0 = false ∧ (s.prt 0).containing = .destroy) ∧
    (let s := (stF.setThr 0 Thread.free).modPart 0 (fun p => { p with containing := .unwind none [] 5 })
     (s.prt 0).containing = .unwind none [] 5#64 ∧ messagesLeft s 0 = false ∧ s.partThreads 0 = []) ∧
    bitOf ((stF.prt 0).cfReg (0x48 + 0)) 63 = true ∧
    (((stF.modHome 1024 (fun h => h.setLog 0 [⟨0, List.replicate 64 1, true⟩])).home 1024).log 0) = [⟨0, List.replicate 64 1, true⟩] := by decide +kernel

/-- A word of PREEMPT: core 0, slot 0, the kind, RESUME, and the target core. -/
def preWord (kind resume core dest slots : Nat) : W64 := w64 (2 ^ 63 + kind * 2 ^ 58 + resume * 2 ^ 57 + slots * 2 ^ 41 + dest * 2 ^ 30 + core)
def stPre (v : W64) : State := stM 1400 (.cfWrite 0xD4 v)

theorem witness_PreemptionRequests :
    (List.all [(0, 0, 0), (1, 0, 0), (2, 0, 5), (3, 0, 0), (0, 1, 0)] (fun k =>
      decide (preemptHead (stPre (preWord k.1 k.2.1 0 k.2.2 1)) 0 = some (0, preWord k.1 k.2.1 0 k.2.2 1)) &&
      decide (physCore (stPre (preWord k.1 k.2.1 0 k.2.2 1)) 0 (fieldOf (preWord k.1 k.2.1 0 k.2.2 1) 0 11) = some 0) &&
      decide (fieldOf (preWord k.1 k.2.1 0 k.2.2 1) 58 2 = k.1) && decide (bitOf (preWord k.1 k.2.1 0 k.2.2 1) 57 = (k.2.1 == 1)))) = true ∧
    physCore stF 0 15 = some 99 ∧ physCore stF 0 16 = none ∧ (stF.prt 0).coreAt 5 = some 33 ∧
    slotList { Preempt.init with slots := fieldOf (preWord 1 0 0 0 1) 41 16 } = [0] ∧ occupied stF 0 0 [0] = [0] ∧ occupied stF 0 0 [1] = [] ∧
    migrateRefused (stF.thr 0) = false ∧ migrateRefused (stQ.thr 0) = true ∧
    ([] : List Nat).filter (fun k => decide (k < slotsOf 0)) = [] := by decide +kernel

/-- A request in progress: a drain, a save of slot 0 with its area mapped, a restore, a move to core 1. -/
def stGo (kind : Nat) (todo : List Nat) (dest slots : Nat) : State :=
  stT.modPart 0 (fun p => { (p.setCf 0xD5 0) with preempt := ⟨0, true, 1, kind, false, slots, dest, 0, todo, none⟩ })

theorem witness_PreemptionSteps :
    (physCore (stGo 0 [0] 0 1) 0 0 = some 0 ∧ occupied (stGo 0 [0] 0 1) 0 0 [0] ≠ [] ∧ slotList (stGo 0 [0] 0 1 |>.prt 0).preempt = [0] ∧
      occupied (stGo 0 [1] 0 2) 0 0 (slotList (stGo 0 [1] 0 2 |>.prt 0).preempt) = []) ∧
    (let s := (stGo 1 [0] 0 1).modThr 0 (fun t => { t with stop := 1 })
     (s.thr 0).active = true ∧ (s.thr 0).stop = 1 ∧ readyToSave s 0 = true ∧ (s.prt 0).preempt.coreSlot ≠ some (slotOf 0) ∧
       (match ctxPte s 0 0 (ctxVa (s.prt 0) 0) with
        | some (pte, _) => (pteLoc pte (ctxVa (s.prt 0) 0)).attr != 2#2
        | none => false) = true) ∧
    -- the area in a SPARSE page of a home without poison
    (let s := { (stGo 1 [0] 0 1).modThr 0 (fun t => { t with stop := 1 }) with
       mem := (stGo 1 [0] 0 1).mem.writeN (2 * 2 ^ 21) (wordBytes 0xD000000000000000) }
     (match ctxPte s 0 0 (ctxVa (s.prt 0) 0) with
        | some (pte, _) => (pteLoc pte (ctxVa (s.prt 0) 0)).attr == 2#2 &&
            (s.home (homeEp (pteLoc pte (ctxVa (s.prt 0) 0)).home)).poisoned == [] && (s.home (homeEp (pteLoc pte (ctxVa (s.prt 0) 0)).home)).ecc == []
        | none => false) = true) ∧
    (let s := ((stGo 1 [0] 0 1).modThr 0 (fun t => { t with stop := 1 })).modPart 0 (fun p => p.setCf 0xD5 0x0000400000000000)
     (ctxPte s 0 0 (ctxVa (s.prt 0) 0)).isNone = true) ∧
    (let s := stGo 3 [1] 0 2
     (s.prt 0).preempt.todo.contains 1 = true ∧
       (match ctxRdHeader s 0 0 1 with
        | some (pte, _, s1) => ctxRoom s1 1 (ctxReadWords s1 0 pte (ctxVa (s1.prt 0) 1 + 64) 56)
        | none => false) = true ∧
       (ctxRdHeader (s.modPart 0 (fun p => p.setCf 0xD5 0x0000400000000000)) 0 0 1).isNone = true) ∧
    (let s := stGo 2 [0] 1 1
     (s.prt 0).coreAt (s.prt 0).preempt.dest = some 1 ∧ (s.prt 0).preempt.todo = [0] ∧ occupied s 0 0 [0] ≠ [] ∧
       migrateRefused (s.thr 0) = false ∧ (s.thr 0).wait.landed = false ∧ (s.thr 0).stop = 0 ∧ moveSlot s 1 = some 16 ∧ moveRoom s 0 1 = true) := by
  decide +kernel

/-! ### From outside the package -/

theorem witness_OutsideRequests :
    (let s := { stT with windows := [⟨0, 0, 0x200000, 0, true⟩] }
     windowAt s 0x1FFFF8 8 = some ⟨0, 0, 0x200000, 0, true⟩ ∧ (walkVa s 0 (0 + (0x1FFFF8 - 0))).map (·.wr) = some true ∧
       windowAt s 0x1FFFF9 8 = none) ∧
    (let s := { stT with windows := [⟨0, 0, 0x400000, 0, false⟩] }
     (windowAt s 0x200000 8).isSome = true ∧ walkVa s 0 (0 + (0x200000 - 0)) = none) ∧
    portBound stT 0 0 = true ∧ isTail stT 0 0 0x100 = false ∧ (walkVa stT 0 0x100).isSome = true ∧
    isTail (stT.modPart 0 (fun p => p.setCf 0xA8 0x8000000000000100)) 0 0 0x100 = true ∧
    ({ stT with pulls := [(0, 0, 5)] }.pulls.find? (fun y => y.1 == 0 && y.2.1 == 0)) = some (0, 0, 5) ∧
    recordTarget stT 0 ((List.range 16).map (fun k => rec0.getD k 0#64)) ≠ none ∧
    recordTarget stT 0 ((List.range 16).map (fun k => ([] : List W64).getD k 0#64)) = none ∧
    mgmtFree st = true ∧ st.recovery = false ∧ st.stage = 3 ∧ mgmtFree { st with stage := 2 } = true ∧
    mgmtFree (st.modPart 0 (fun p => { p with containing := .destroy })) = false := by decide +kernel

/-- Words of a CREATE of a partition in the last row of clusters, with an image of one trailer word in host memory. -/
def stC : State := { State.reset with stage := 3, hostMem := State.reset.hostMem.writeN 0 (wordBytes 0x534C0000#64) }
def cre (id cx lw pages : Nat) (accept : W64) : List W64 :=
  [0, w64 (id + cx * 2 ^ 8 + 7 * 2 ^ 12 + lw * 2 ^ 16), 1, 1, accept, 0, 0, 8, 0, 0x40, w64 pages, 0]

/-- Ids 47 and 48, 8,190 and 8,191 pages, a rectangle past the last cluster, an id in use, a feature not offered, and an SPQ
past the slice. -/
theorem witness_Create :
    ([cre 47 7 0 8190 0, cre 48 7 0 1 0, cre 47 7 0 8191 0].map (fun ws => createRange (createArgs ws))) = [true, false, false] ∧
    (let a := createArgs (cre 47 7 0 1 0)
     createRange a = true ∧ createShape stC a = true ∧ createFeat a = true ∧ (createPlan stC a (createPart a)).isSome = true ∧
       splitImage (stC.hostMem.readN a.image a.imageLen) = some ([], []) ∧ a.load + 0 ≤ a.pages * 2 ^ 21) ∧
    (createRange (createArgs (cre 0 7 1 1 0)) = true ∧ createShape stC (createArgs (cre 0 7 1 1 0)) = false) ∧
    createShape (stC.modPart 0 (fun p => { p with present := true })) (createArgs (cre 0 3 0 1 0)) = false ∧
    (let a := createArgs (cre 0 7 0 1 (w64 (2 ^ 40)))
     createRange a = true ∧ createShape stC a = true ∧ createFeat a = false) ∧
    (let a := createArgs ((cre 0 7 0 1 0).set 2 257)
     createRange a = true ∧ createShape stC a = true ∧ createFeat a = true ∧ createPlan stC a (createPart a) = none) := by decide +kernel

theorem witness_PartitionCommands :
    mgmtFree stC = true ∧ stC.recovery = false ∧ stC.stage = 3 ∧ (stC.prt 47).present = false ∧ (st.prt 0).present = true ∧
    framesOwner st 0 = some (.part 0) ∧ (lowest 127 (blockFree st 0)).length = 127 ∧
    (let ws : List W64 := [0, 2 ^ 17, 1 * 2 ^ 32, 0]
     bitOf (reqW ws 1) 16 = false ∧ bitOf (reqW ws 1) 17 = true ∧ fieldOf (reqW ws 2) 32 8 = 1 ∧ framesOwner st (reqW ws 1) = some (.part 0)) ∧
    (let ws : List W64 := [0, 63 + 8 * 2 ^ 8, 0, 0, 0, 0, 0, 0, 0, 0]
     fieldOf (reqW ws 1) 0 6 = 63 ∧ fieldOf (reqW ws 1) 8 4 = 8 ∧
       (List.range 8).all (fun i => (st.prt (fieldOf (reqW ws (2 + i)) 0 6)).present) = true) ∧
    (let ws : List W64 := [0, 0, 0, 0x200000, 0]
     (reqW ws 2).toNat % 2097152 = 0 ∧ (reqW ws 3).toNat % 2097152 = 0 ∧ bitOf (reqW ws 1) 9 = false ∧ st.windows = []) ∧
    (let cws := (cre 0 7 0 1 (w64 (2 ^ 5))).set 1 (w64 (7 * 2 ^ 8 + 7 * 2 ^ 12 + 2 ^ 25))
     (createArgs cws).det = true ∧ (createCmd stC cws).mgmtResp = 0#64) := by decide +kernel

/-- Stages, and an instruction word that steps. -/
theorem witness_Machine :
    State.reset.stage = 1 ∧ State.reset.recovery = false ∧ ({ State.reset with stage := 2 } : State).stage = 2 ∧
    st.memOk = true ∧ (encodeWord (.nop g1)).isSome = true ∧ after (.nop g1) st (fun s => s.memOk) = true ∧
    (match step (tableState State.reset 0x0100FF000000000000000000) with | .next s => s.me.ip == 12#64 && s.memOk | _ => false) = true := by
  decide +kernel

/-! ### Values: the kinds of operand that the rules tell apart, at the ends of their ranges -/

/-- FP32: the largest value, the smallest subnormal, the two infinities, a NaN, the zeros, a product that is 0. -/
theorem witness_IntegerOperations :
    fdec fmtF32 0x7F7FFFFF = .fin false 0xFFFFFF 104 ∧ fdec fmtF32 1 = .fin false 1 (-149) ∧ fdec fmtF32 0xFF800000 = .inf true ∧
    fdec fmtF32 0x7F800000 = .inf false ∧ fdec fmtF32 0x7FC00000 = .nan ∧ fdec fmtF32 0x80000000 = .fin true 0 (-149) ∧
    (0xFFFFFF * 1 ≠ 0 ∧ 0xFFFFFF * 0 = 0) ∧
    -- the smaller of two values
    (fdec fmtF32 1 ≠ .nan ∧ valLt (fdec fmtF32 1) (fdec fmtF32 0x7F7FFFFF) = true ∧ valLt (fdec fmtF32 0x7F7FFFFF) (fdec fmtF32 1) = false) ∧
    (valLt (fdec fmtF32 0) (fdec fmtF32 0x80000000) = false ∧ valNeg (fdec fmtF32 0x80000000) = true ∧ valNeg (fdec fmtF32 0) = false) ∧
    -- conversions: every kind of pair, and the elements that part their cases
    (tyFloat .f32 = true ∧ tyFloat .fp8e4 = true ∧ Ty.fp8e4 ≠ .f32 ∧ tyFloat .i8 = false ∧ tyFloat .int4s = false ∧ Ty.i8 ≠ .int4s) ∧
    (tyWidth .i8 ≤ tyWidth .i8 ∧ elemInt .i8 0x80 < (intRange .int4s).1 ∧ (intRange .int4s).2 < elemInt .i8 0x7F ∧ elemInt .i8 0 = 0 ∧
      elemInt .i8 0xFF ≠ 0) ∧ (8 % 16 = 8 ∧ 15 % 16 ≠ 8) ∧
    (tyIB .i8 = true ∧ 255 < 2 ^ tyWidth .i8) := by decide +kernel

/-- Five halves round to 2 to nearest, 2 towards zero, 3 towards +∞, and −5/2 to −3 towards −∞. -/
theorem witness_Quanta :
    Quanta 0#2 false 5 (-1) 0 2 ∧ Quanta 1#2 false 5 (-1) 0 2 ∧ Quanta 2#2 false 5 (-1) 0 3 ∧ Quanta 3#2 true 5 (-1) 0 3 := by
  refine ⟨?_, ?_, ?_, ?_⟩ <;> (simp [Quanta] <;> decide)

/-- A value past the largest of E4M3, one below its smallest normal, and one between: their quanta before and after the
subnormals; the operands of the four approximations. -/
theorem witness_RoundingAndApproximations :
    fmtE4 ∈ [fmtF32, fmtBf16, fmtE4, fmtE5, fmtF56] ∧ fdec fmtE4 fmtE4.maxMag = .fin false 14 5 ∧
    (let q0 : Int := 0 + Nat.log2 500 - fmtE4.fb
     q0 = 5 ∧ max q0 fmtE4.qmin = 5 ∧ dyLt 14 5 16 q0 = true) ∧
    (let q0 : Int := -12 + Nat.log2 5 - fmtE4.fb
     q0 = -13 ∧ max q0 fmtE4.qmin = -9 ∧ dyLt 14 5 10 q0 = false) ∧
    fdec fmtBf16 0x4040 = .fin false 192 (-6) ∧ fdec fmtBf16 0xC040 = .fin true 192 (-6) ∧ fdec fmtBf16 0x4080 = .fin false (2 ^ 7) (-5) ∧
    (fdec fmtBf16 0x4040 = .fin false (3 * 2 ^ (6 : Nat)) (-6) ∧ (-6 : Int) ≤ 0 ∧ 3 ≤ 2000) ∧
    fdec fmtBf16 0x7FC0 = .nan ∧ fdec fmtBf16 0x7F80 = .inf false ∧ fdec fmtBf16 0xFF80 = .inf true ∧ fdec fmtBf16 0x8000 = .fin true 0 (-133) := by
  decide +kernel

theorem witness_RoundedQuanta :
    Quanta 0#2 false 500 0 5 16 ∧ Quanta 0#2 false 5 (-12) (-13) 10 ∧ Quanta 0#2 false 5 (-12) (-9) 1 := by
  refine ⟨?_, ?_, ?_⟩ <;> (simp [Quanta] <;> decide)

/-- What parts the networks: even lengths and their halves, the types that fill a lane, INT4S's reserved code, an INT4X
byte with 8 in its upper and its lower half, and a register number past a table. -/
theorem witness_Networks :
    ((List.replicate 32 0).length % 2 = 0 ∧ 15 < 32 / 2) ∧ (16 ≤ 32 ∧ 15 < 16 ∧ ¬ 16 < 16) ∧
    (tyIB .i8 = true ∧ tyFloat .bf16 = true ∧ Ty.bf16 ≠ .fp8e4) ∧
    packF .i8 * tyWidth .i8 = 32 ∧ packF .int4s * tyWidth .int4s = 32 ∧ packF .int4x * tyWidth .int4x = 32 ∧ packF .f32 * tyWidth .f32 = 32 ∧
    (Ty.i8 ≠ .int4s ∧ Ty.i8 ≠ .int4x) ∧ 0x88 % 16 = 8 ∧ (0x83 % 16 ≠ 8 ∧ 0x83 / 16 = 8) ∧
    (∀ n, n < ([List.replicate 32 0#32] : List Lanes).length → n = 0) ∧ (List.replicate 32 0#32).length = 32 := by decide +kernel

/-- An elevated check: a matrix instruction on a cellar core, whatever its guard. -/
theorem witness_NearIllegal :
    (let s := { stF with cur := 16384 }.setThr 16384 { stF.me with part := 0 }
     s.me.active = true ∧ isCellar (coreOf s.cur) = true) := by decide +kernel

/-- A walk that has met poison; an access that a fence holds back, and one that none does. -/
theorem witness_WalkPoison :
    (let s := stF.modThr 0 (fun t => { t with wait := .walkPoison 1 })
     2097152 % 8 = 0 ∧ heldPte s (coreBufs 0) 0 (2097152 / 2 ^ 21) = none ∧ s.me.wait = .walkPoison (2097152 / 2 ^ 21)) := by decide +kernel

/-! ### What holds an instruction up -/

/-- An access of thread 0 on its way, sent before a fence of its class that the thread has executed since. -/
def stFence : State :=
  { stF.modThr 0 (fun t => { t with retired := 1, fences := [([.ls], 1)] }) with net := [msg 1024 (.load (.dm (lR 0)) 8)] }
/-- A grant that is still to land holds every path; a copy that a fence of class {cp} waits for. -/
def stGrant : State := stF.modThr 0 (fun t => { t with owed := [⟨1, [.v 9], .recd 9, [], true, none, .ls⟩] })
def stCpFence : State :=
  (stF.modThr 0 (fun t => { t with retired := 1, fences := [([.cp], 1)] })).setEngine stF.me.copyEng [{ cp0 with started := true }]

theorem witness_Fences :
    stFence.fenceWaits 0 ([.ls], 1) = true ∧ stFence.fencesOver 0 allPaths = false ∧ stFence.me.fences = [([.ls], 1)] ∧
    stFence.accessOpen 0 .ls = false ∧ stFence.accessOpen 0 .nb = true ∧ stFence.fenceWaits 0 ([.ls], 0) = false ∧
    stCpFence.fenceWaits 0 ([.cp], 1) = true ∧ stCpFence.accessOpen 0 .cp = false ∧
    stFence.fenceWaits 0 ([.ls], stFence.me.retired) = true ∧
    (∀ o ∈ stF.me.owed, o.acquires .ls = false) ∧ stF.me.fences = [] ∧
    (stQ.fencesOver 0 allPaths = true) ∧ (∀ k : BitVec 3, k = 5 → stQ.me.port k.toNat = .tx 2) ∧
    (∀ o ∈ stGrant.me.owed, o.acq = true ∧ o.fill = .recd 9) ∧ stGrant.me.owed ≠ [] ∧ stGrant.pathOpen 0 .nb = false ∧
    stFence.recordWaits = true ∧ stF.recordWaits = false ∧ stF.moveDrained 0 = true ∧ stF.me.specOn = false := by decide +kernel

/-- A turn passed after a `yield` while a slot that was ready has still to issue; a `yield` that acts. -/
theorem witness_Yield :
    (let a := stF.setThr 1 { stF.me with gran := 2, word := encodeWord (.nop g1) }
     let s := a.modThr 0 (fun t => { t with yieldAt := [(1, stF.me.task)] })
     yieldHolds { s with agenda := [] } 0 = true) ∧
    yieldHolds { stF with agenda := [] } 0 = false ∧
    (let s := { stF with cur := 0 }
     (guardOf s.me g1).getLsbD 0 = true ∧ after (.yield g1) s (fun x => (x.thr 0).retired == (s.thr 0).retired + 1) = true) := by
  decide +kernel

/-- Rows held back: `rowadd` finds no row of its own on its way, with `.row` or without. Records, with room in OUT. -/
theorem witness_Waits :
    (stRow.me.specOn = false ∧ stRow.pendingRow stRow.me.task (pteLoc 0xF800000000000000 65536).key = false) ∧
    (stF.counted.recordWaits = false ∧ stF.counted.pathOpen 0 (stF.counted.recordPath 0) = true) ∧
    (let s := stF.modThr 0 (fun t => { t with specOn := true })
     s.me.specOn = true ∧ s.counted.heldOn (coreOf s.cur) < 64) ∧
    stF.pathOpen 0 (stF.recordPath 0) = true ∧
    (let u := (((Uses.dst 0x98 (.q 3)).and (Uses.w 8)).and (Uses.wi (.imm 15))).and { conflict := some 0x98 }
     readyB g1 false u stF = true ∧ stF.fencesOver 0 allPaths = true) ∧
    (let u := (((Uses.dst 0x98 (.n 5)).and (Uses.w 8)).and (Uses.wi (.imm 15))).and { conflict := some 0x98 }
     readyB g1 false u stQ = true ∧ stQ.me.port 5 = .tx 2) ∧
    (readyB g1 false ((((Uses.dst 0x98 (.w 9)).and (Uses.w 8)).and (Uses.wi (.imm 15))).and { conflict := some 0x98 }) stGrant = true ∧
      readyB g1 false ((((Uses.vr (vr 12)).and (Uses.w 8)).and (Uses.wi (.imm 15))).and { conflict := some 0x99 }) stGrant = true ∧
      stays (anchorHome 0#64) stGrant = true ∧ stGrant.pathOpen 0 (stGrant.recordPath 0) = false) ∧
    (stF.core 0).engine.holder = none ∧ (stE.core 0).engine.holder = some 0 ∧ (stE.core 0).engine.loading = false ∧
      (stE.core 0).engine.jobs = [] := by decide +kernel

/-- Barriers: an arrival held up by a fence; a restarted `bar.sync` whose arrival stands, in its own generation and in one
that has completed. -/
theorem witness_BarrierRestarts :
    (let s := stFence.modCore 0 (fun c => c.setBar 127 ⟨2, 0, 255, 9⟩)
     readyB g1 false (Uses.wi (.imm 127)) s = true ∧ ((s.core 0).bar 127).count ≠ 0 ∧ s.fencesOver 0 allPaths = false) ∧
    (let r (done : Bool) (gen : BitVec 8) := (stF.modCore 0 (fun c => c.setBar 127 ⟨2, 1, gen, 9⟩)).modThr 0 (fun t =>
       { t with restarted := true, syncRec := some (127, 255#8, t.ip), bar := ⟨true, 127, 255#8, done, 0⟩ })
     readyB g1 false (Uses.wi (.imm 127)) (r false 255) = true ∧ (r false 255).me.syncRec = some (127, (r false 255).me.bar.gen, (r false 255).me.ip) ∧
       (r false 255).me.bar.gen = (((r false 255).core 0).bar 127).gen ∧ (r true 0).me.bar.done = true ∧
       barRecDone (r false 255).me 127 = false) := by decide +kernel

/-- The ports of a cellar core; a message to hold; a region whose first message may leave, and one whose may not. -/
theorem witness_RegionsAndPorts :
    (let s := { stF with cur := 16384 }.setThr 16384 { stF.me with part := 0 }
     isCellar (coreOf s.cur) = true ∧ s.me.port 7 = .unbound ∧
       readyB g1 false ((((Uses.wi (.imm 0)).and (Uses.wi (.imm 2))).and portUses).and { conflict := some 0xA5 }) s = true) ∧
    (∀ o ∈ stQ.me.owed, o.fill ≠ .port 5) ∧ stQ.me.port 5 ≠ .unbound ∧
    (let m : Msg := msg 1024 (.store (.dm (lR 0)) [some 1])
     let h : Held := ⟨[m], false, false, spaceDm, 0, [some 1]⟩
     heldWaits stF h = false ∧ heldWaits stFence h = true ∧ heldWaits stGrant h = true ∧ stF.me.moved = false ∧ stF.me.fences = [] ∧
       h.rel = false ∧ m.path = .ls ∧ m.req = .store (.dm (lR 0)) [some 1] ∧ (∀ o ∈ stF.me.owed, o.acq = false) ∧
       (let s := stFence.modThr 0 (fun t => { t with specOn := true, held := [h] })
        s.me.specOn = true ∧ readyB g1 false ((Uses.w 9).and { feats := [2] }) s = true ∧
          (releaseHeld s.me.held (s.begun ((Uses.w 9).and { feats := [2] }))).me.held ≠ [])) ∧
    (let m : Msg := msg 1024 (.record rec0 true)
     m.req = .record rec0 true) := by decide +kernel

/-! ### The engines -/

/-- A task that holds its engine, with a stream of 256 bytes here and 256 to come; the engine with a row still to enter. -/
def stES : State := stE.modThr 0 (fun t => t.setStream 3 ⟨true, 5, 0, List.replicate 256 1, 256, 0, 0⟩)
def jobI8 : MmaJob := ⟨.i8, 0, 1, 0, [.gen (.one 0)], 0, [], 0, [], true, false, 0⟩
def stEW : State := stE.modCore 0 (fun c => { c with engine := { engI8 with jobs := [jobI8] } })
def stEL : State := stE.modCore 0 (fun c => { c with engine := { engI8 with loading := true } })
/-- The engine's plane fits a format, and no row of a multiply has the other kind. -/
def fitsB (e : Engine) (f : Ty) (sc : Bool) (acc n : Nat) : Bool :=
  e.holder == some 0 && decide (acc + n ≤ 64) && (match e.active.fmt with | some pf => matK pf == matK f | none => false) &&
  (List.range n).all (fun i => e.kind (acc + i) != (if matInt e f sc then .fp else .int))

theorem witness_EngineWaits :
    (let u := matUses ((Uses.group (vr 64) 64).and (Uses.ty .int4x))
     readyB g1 false u stEL = true ∧ goes2 (readGroup 64 64) (fun _ => needEngine) (stEL.begun u) = true ∧ (stEL.core 0).engine.loading = true) ∧
    (let u := matUses ((Uses.genMat (.shift (.imm 511))).and (Uses.ty .i8))
     readyB g1 false u stEL = true ∧ goes2 (readGen 0xC1 0x10 1 31 (.shift (.imm 511))) (fun _ => needEngine) (stEL.begun u) = true) ∧
    (readyB g1 false (matUses Uses.none) stEW = true ∧ stays needEngine stEW = true ∧ rowsWaiting (stEW.core 0).engine = true) ∧
    (readyB g1 false ((Uses.w 9).and { extra := sysRegs stEL 0x007 }) stEL = true ∧ (stEL.core 0).engine.holder = some stEL.cur) ∧
    readyB g1 false (((((Uses.wi (.imm 3)).and (Uses.wg (.w 8))).and (Uses.wi (.imm 0))).and (Uses.args 0)).and { conflict := some 0x94 })
      stEL = true := by decide +kernel

/-- Multiplies from registers and from a stream, plain and scaled, at both ends of the row count; one whose engine is at
work; one whose stream has no row yet. -/
theorem witness_MultiplyForms :
    fitsB engI8 .i8 false 0 64 = true ∧ fitsB engI8 .i8 true 63 1 = true ∧ rowsWaiting engI8 = false ∧ rowsWaiting (stEW.core 0).engine = true ∧
    (let u := matUses ((mmaUses (.reg (vr 8)) (.imm 0)).and (Uses.ty .i8))
     readyB g1 false u stE = true ∧ vregCheck (stE.begun u).me [(vr 8, 2)] = none ∧
       (stE.begun u).me.owes ([(vr 8, 2)].flatMap (groupRegs (stE.begun u).me)) = false ∧ goes (readGroup 8 2) (stE.begun u) = true ∧
       readyB g1 false u stEW = true ∧ wiNat stE.me (.imm 0) < 64) ∧
    (let u := matUses ((mmaUses (.s 3) (.imm 1)).and (Uses.ty .i8))
     readyB g1 false u stES = true ∧ (stES.me.stream 3).bound = true ∧ 256 * 2 ≤ (stES.me.stream 3).buf.length + (stES.me.stream 3).toCome ∧
       256 ≤ (stES.me.stream 3).buf.length ∧
       (let s := stE.modThr 0 (fun t => t.setStream 3 ⟨true, 5, 0, List.replicate 255 1, 257, 0, 0⟩)
        readyB g1 false u s = true ∧ (s.me.stream 3).buf.length < 256 ∧ s.me.wait = .none ∧
          256 * 2 ≤ (s.me.stream 3).buf.length + (s.me.stream 3).toCome)) ∧
    (let u := matUses ((mmaUses (.reg (vr 8)) (.imm (64 * 4 + 1))).and (Uses.ty .i8))
     let v := matUses ((mmaUses (.s 3) (.imm (64 * 4 + 1))).and (Uses.ty .i8))
     readyB g1 false u stE = true ∧ readyB g1 false v stES = true ∧ goes2 (readGroup 16 8) (fun _ => readGroup 8 4) (stE.begun u) = true ∧
       goes (readGroup 16 8) (stES.begun (matUses ((mmaUses (.reg (.v 0)) (.imm (64 * 4 + 1))).and (Uses.ty .i8)))) = true ∧
       vregCheck (stE.begun u).me [(vr 8, 4), (VReg.v 16, 8)] = none ∧
       (stE.begun u).me.owes ([(vr 8, 4), (VReg.v 16, 8)].flatMap (groupRegs (stE.begun u).me)) = false) ∧
    -- a row of a register group enters, one of a stream, and none where the stream is short
    ((stEW.core 0).engine.jobs = [] ++ jobI8 :: [] ∧ jobI8.next < jobI8.m ∧ (jobRow jobI8).isSome = true ∧ jobI8.rows ≠ []) ∧
    (let j : MmaJob := { jobI8 with rows := [], got := List.replicate 256 1 }
     j.rows = [] ∧ 256 ≤ j.got.length ∧ (let k : MmaJob := { j with got := List.replicate 255 1 }
       k.next < k.m ∧ k.got.length < 256)) ∧
    (1 ≤ 254 ∧ 254 < 255) := by decide +kernel

/-- A copy that may be accepted, to the scratchpad and to a stream; one past 32 in its task, past 256 at the engine, and
behind a fence; a stream that is busy; a descriptor whose lowest bad lane is 5. -/
theorem witness_CopyForms :
    (stF.me.outAll < 32 ∧ (stF.engine stF.me.copyEng).length < 256 ∧ stF.accessOpen 0 .cp = true) ∧
    (0 % 8 = 0 ∧ 0 + (2047 - 1) * 8 + 8 ≤ stF.spSize (stF.prt 0)) ∧ streamFree stF (stF.me.stream 7) = true ∧
    ¬ (stF.modThr 0 (fun t => t.setGroup 0 ⟨32, 0, false, 0, 0, 0⟩)).me.outAll < 32 ∧
    ¬ ((stF.setEngine stF.me.copyEng (List.replicate 256 cp0)).engine stF.me.copyEng).length < 256 ∧
    (readyB g1 false (((Uses.wg (.w 8)).and (Uses.wi (.imm 8))).and { conflict := some 0xD4 }) stCpFence = true ∧
      stCpFence.accessOpen 0 .cp = false ∧ streamFree stCpFence (stCpFence.me.stream 7) = true) ∧
    (readyB g1 false (((Uses.wg (.w 8)).and (Uses.wi (.imm 8))).and { conflict := some 0xD4 }) stES = true ∧
      streamFree stES (stES.me.stream 3) = false) ∧
    (let ls : Lanes := [0, 0, 0, 0, 1, 0, 4, 8] ++ List.replicate 24 0
     let s := stF.modThr 0 (fun t => setLanes t 12 allLanes 0 ls)
     descBad (.cpyg true) .dm false (s.me.vreg 12) = 5 :: [6] ∧ (List.all [0xD1, 0xD3] (fun op =>
       readyB g1 false (((Uses.cpyDst (.sp 9)).and (Uses.vr (vr 12))).and { conflict := some op }) s)) = true ∧
       descBad (.cpyx true) .dm false ((s.me.vreg 12).set 0 64) = 0 :: [] ∧
       readyB g1 false (((Uses.cpyDst (.stream 7)).and (Uses.vr (vr 12))).and { conflict := some 0xD2 }) s = true) := by decide +kernel

/-- `tlbinv` and `ckpt` find accesses, or copies, on their way; a page that an access uses. -/
theorem witness_WaitForAccesses :
    stFence.pending stFence.me.task [.ls, .nb] = true ∧ readyB g1 false (Uses.w 9) stFence = true ∧ readyB g1 false Uses.none stFence = true ∧
    stFence.pending stFence.me.task [.ls, .nb, .am] = true ∧ stCpFence.copiesPending stCpFence.me.task = true ∧
    (let s := { stF with net := [{ msg 1024 (.load (.dm (lR 0)) 8) with task := 7 }] }
     s.pending s.me.task [.ls, .nb] = false ∧ usesPage s 0 (some 0) = true ∧ usesPage s 0 none = true) := by decide +kernel

/-! ### At the homes and in the network -/

/-- A row in a frame that nobody lets the partition use, and a page with a poisoned line. -/
def lVX : DmLoc := pteLoc 0xF800000000000003 65536
def stPoison : State := poison0 stF

theorem witness_HomeAnswers :
    (List.all [Req.load (.dm (lR 0)) 8, .store (.dm (lR 0)) [some 1], .atomic .addI64 (.dm (lR 8)) 1 0, .rowadd (.dm lVX) .f32 1 [], .rowld (.dm lVX) 1]
      (fun r => decide (inboxNext (stM 1024 r) 1024 false = some (0, msg 1024 r)) && !((stM 1024 r).prt 0).discard)) = true ∧
    locRefused stF 0 (.dm lX) = true ∧ frameOk stF 0 lVX = false ∧ isSparse (.dm (lR 0)) = false ∧
    locBad stPoison (.dm (lR 0)) (atBytes .addI64) = true ∧
    (let s := stF.modHome 1024 (fun h => { h with poisoned := [65536 / 64] })
     frameOk s 0 (lV 65536) = true ∧ rowBad s (lV 65536) = true) ∧
    frameOk stF 0 (lR 256) = true ∧ frameOk stF 0 lX = false := by decide +kernel

/-- The ends of what a VERSIONED page holds; a line logged in this interval and one that is not; rows past the header. -/
theorem witness_Stores :
    ((lV 63480).attr = 3#2 ∧ (lV 63480).off + 8 ≤ 63488) ∧ (65536 ≤ (lV 65536).off) ∧ (63488 ≤ (lV 65528).off ∧ (lV 65528).off + 8 ≤ 65536) ∧
    (let s := (stF.modPart 0 (fun p => { p with ckptEff := 0x0000000100000001 })).modHome 1024 (fun h => h.setLog 0 [⟨3, List.replicate 64 0, false⟩])
     logCnt (s.prt 0) ≠ 0 ∧ ((s.home 1024).log 0).any (fun e => e.line == 3) = true ∧ ((s.home 1024).log 0).any (fun e => e.line == 4) = false) ∧
    -- `addfx`: 2^31 and one unit above it, −2^31, NaN, the infinities
    fdec fmtF32 0x4F000000 = .fin false 0x800000 8 ∧ fdec fmtF32 0xCF000000 = .fin true 0x800000 8 ∧ fdec fmtF32 0xCF000001 = .fin true 0x800001 8 ∧
    ((2 ^ 63 : Int) - 1 < signedMag false (0x800000 * 2 ^ 40)) ∧ (-(2 ^ 63 : Int) ≤ signedMag true (0x800000 * 2 ^ 40)) ∧
    (signedMag true (0x800001 * 2 ^ 40) < -(2 ^ 63 : Int)) := by decide +kernel

/-- PREEMPT written while a request is in progress, without GO and with it. -/
theorem witness_PreemptWrites :
    cfOwnStep (stF.prt 0).preempt 0xD4 5 = false ∧
    (let s := stF.modPart 0 (fun p => { p with preempt := ⟨0, true, 1, 0, false, 1, 0, 0, [], none⟩ })
     cfOwnStep (s.prt 0).preempt 0xD4 0x8000000000000001 = false ∧ bitOf (0x8000000000000001#64) 63 = true ∧ bitOf 5#64 63 = false) ∧
    inboxNext (stM 1400 (.cfWrite 0xD4 5)) (mbEp 0) false = some (0, msg 1400 (.cfWrite 0xD4 5)) := by decide +kernel

/-- Late flags; a route that meets a link held by another, one that others wait for, one whose link is free, and one at its
end; a channel that two routes have reached; walks that find no entry, and poison. -/
theorem witness_Arrivals :
    (let m : Msg := ⟨1024, 0, 0, .ls, 0, 0, 0, 0, 1, .flags 4, none, 0⟩
     let s := stN m
     s.net[0]? = some m ∧ m.seq = SMap.get 0 s.seqIn (pairKey 1024 0) ∧ s.isFor m = true) ∧
    (let r : Route := ⟨1, 0, 1, 2, false, [], [7], 0, 0, 0, false, false⟩
     let h : Route := ⟨2, 2, 1, 2, false, [], [7, 9], 1, 0, 0, false, false⟩
     let w : Route := ⟨3, 3, 1, 2, false, [], [7], 0, 5, 0, false, false⟩
     let e : Route := ⟨4, 1, 1, 2, false, [], [], 0, 0, 0, false, false⟩
     r.links[r.taken]? = some 7 ∧ 7 ∈ h.links.take h.taken ∧ (w.waitNo ≠ 0 ∧ w.links[w.taken]? = some 7 ∧ r.waitNo = 0) ∧
       h.links[h.taken]? = some 9 ∧ e.links[e.taken]? = none ∧ w.waitNo ≠ 0) ∧
    (let s := { stF with routes := [⟨1, 0, 1, 2, true, [], [], 0, 0, 8, false, false⟩, ⟨2, 5, 1, 2, true, [], [], 0, 0, 6, false, false⟩] }
     nextRoute s 1 2 = some 2) ∧
    walkTables stT 0 1 = .absent ∧ walkTables (stT.modHome 1024 (fun h => { h with poisoned := [2 ^ 21 / 64] })) 0 0 = .poison ∧
    PReg.holds (.stk 9) = true := by decide +kernel

/-- A record behind an older one of its flow; one whose anchor's frame is refused; a resend with an older one behind it. -/
theorem witness_RecordOrder :
    (let m := { msg 1024 (.record rec0 true) with tok := 9 }
     let y := { msg 1024 (.record rec0 true) with tok := 8 }
     let s := stF.modHome 1024 (fun h => { h with router := [m] })
     inboxNext s 1024 false = some (0, m) ∧ olderRecord (inboxTake { s with net := [y] } 1024 false 0) m = true ∧ sameFlow 0 1024 m y = true) ∧
    (let m := { msg 1024 (.record rec0 true) with loc := some lX }
     let s := stF.modHome 1024 (fun h => { h with router := [m] })
     inboxNext s 1024 false = some (0, m) ∧ s.halted 0 = false ∧ m.loc = some lX ∧ frameOk s 0 lX = false) ∧
    (let a := { msg 1024 (.record rec0 true) with tok := 9 }
     let b := { msg 1024 (.record rec0 true) with tok := 8 }
     let s := stF.modCore 0 (fun c => { c with resend := [a, b] })
     (s.core 0).resend[0]? = some a ∧ sameFlow a.src a.dst a b = true ∧ b.tok < a.tok) ∧
    (List.all [Req.bind 255 0x40, .unbind 255, .amsg 255 1 [2]] (fun r =>
      let m := { msg 1024 r with loc := some lX }
      decide (inboxNext (stF.modHome 1024 (fun h => { h with router := [m] })) 1024 false = some (0, m)))) = true := by decide +kernel

/-- A held message takes the binding that a store gives; one that has its binding keeps it. -/
theorem witness_Bindings :
    (let x := { (stF.prt 0).mbox 3 with held := true }
     x.held = true ∧ x.bound = none ∧ (takeBinding x (some 0x8000000000000040)).bound = some 0x8000000000000040 ∧
       (takeBinding (takeBinding x (some 1)) (some 2)).bound = some 1) ∧
    (let s := stF.modPart 0 (fun p => p.setCf 0xE3 0x8000000000000040)
     bitOf ((s.prt 0).cfReg 0xE3) 63 = true ∧ ((s.prt 0).mbox 3).busy = false) := by decide +kernel

/-- A context in memory, valid and not: its slot restored, its page without a translation, its VERSION wrong, another
partition's, a feature that ACCEPT lacks, and a core section on a core that is not quiet. -/
def stCtx (w0 w2 w3 : W64) : State :=
  let s := stGo 3 [1] 0 2
  { s with mem := (s.mem.writeN (ctxVa (s.prt 0) 1) (wordsBytes [w0, 1, w2, w3])) }

theorem witness_ContextChecks :
    (let s := stCtx 0x0001000000000000 0 0
     (ctxRdHeader s 0 0 1).isSome = true ∧ ctxStatus s 0 0 1 = 0 ∧ physCore s 0 (s.prt 0).preempt.core = some 0) ∧
    ctxStatus (stCtx 0 0 0) 0 0 1 = 5 ∧ ctxStatus (stCtx 0x0001000000000000 0 5) 0 0 1 = 4 ∧
    ctxStatus ((stCtx 0x0001000000000000 1 0).modPart 0 (fun p => { p with accept := 0 })) 0 0 1 = 3 ∧
    ctxStatus (stCtx 0x0001000000000000 0 0x100) 0 0 1 = 4 ∧ ctxStatus (stCtx 0x0001002000000000 0 0) 0 0 1 = 4 ∧
    ctxStatus ((stCtx 0x0001000000000000 0 0).modPart 0 (fun p => p.setCf 0xD5 0x0000400000000000)) 0 0 1 = 5 ∧
    (let s := stCtx 0x0001008000000000 0 0
     (match ctxRdHeader s 0 0 1 with
      | some (_, h, s1) => bitOf (h.getD 0 0#64) 39 && (s1.core 0).engine.holder == none && servedNext (s1.core 0).engine.waiters (32 + 1)
      | none => false) = true) ∧
    (let s := (stCtx 0x0001000000000000 0 0).modHome 1024 (fun h => { h with poisoned := [(ctxVa ((stGo 3 [1] 0 2).prt 0) 1 + 64) / 64] })
     (match ctxRdHeader s 0 0 1 with
      | some (pte, h, s1) => ctxBad s1 pte (ctxVa (s1.prt 0) 1) h (ctxReadWords s1 0 pte (ctxVa (s1.prt 0) 1 + 64) 56)
      | none => false) = true) ∧
    ctxRoom (stCtx 0x0001000000000000 0 0) 0 (List.replicate 56 0) = false := by decide +kernel

/-! ### From outside -/

/-- A request of a host to a BAR; a device without a peer port; frames for a partition that has no core on their die; an
image that host memory does not deliver. -/
theorem witness_HostRequests :
    (let s := { stT with windows := [⟨0, 0, 0x200000, 0, true⟩], agenda := [.hostRead 2 0x1FFFF8 8] }
     (windowAt s 0x1FFFF8 8).isSome = true ∧ s.agenda = .hostRead 2 0x1FFFF8 8 :: []) ∧
    (windowAt stT 0 8 = none ∧ 4 % 8 ≠ 0) ∧ SMap.get 0#64 ({ st with mgmtReq := [(0, 4)] } : State).mgmtReq 0 = 4#64 ∧
    ({ st with agenda := [.hostWrite 0 0 0x800 (wordBytes 1)] } : State).agenda = .hostWrite 0 0 0x800 (wordBytes 1) :: [] ∧
    (3 < 48 ∧ 3 < 4 ∧ 7 < 8) ∧ (2 ^ 22 ≤ 2 ^ 22 ∧ 1 ≠ 0 ∧ 1 ≠ 2) ∧
    ({ st with disabled := [unitPeer 7] } : State).disabled.contains (unitPeer 7) = true ∧ st.disabled.contains (unitPeer 7) = false ∧
    mayOwn (st.modPart 0 (fun p => { p with lw := 1, lh := 1 })) (.part 0) 0 = true ∧
    mayOwn (st.modPart 0 (fun p => { p with lw := 1, lh := 1 })) (.part 0) 3 = false ∧
    ({ stC with hostReadFails := true } : State).hostReadFails = true ∧ stC.hostReadFails = false ∧
    (let m : Msg := ⟨hostEp, 1024, 0, .ls, 0, 0, 0, 0, 1, .load (.dm (lR 0)) 8, none, 0⟩
     m.src = hostEp ∧ m.req = .load (.dm (lR 0)) 8) := by decide +kernel

/-- The poison that an access meets after its requests at DRAM, and its absence. -/
theorem witness_PoisonMet : locBad (noteLoc stPoison (.dm (lR 0)) 8 0) (.dm (lR 0)) 8 = true ∧
    locBad (noteLoc stF (.dm (lR 0)) 8 0) (.dm (lR 0)) 8 = false ∧
    rowBad (noteSpans stF 0 (rowSpans (lV 65536)) 0) (lV 65536) = false := by
  rw [locBad_noteLoc, locBad_noteLoc, rowBad_noteSpans]; decide +kernel

/-! ### Words of every family -/

/-- The checks of an instruction word up to its guard are passed, and its guard is as given (R46, R41). -/
def formB (s : State) (i : Instr) (runs : Bool) : Bool :=
  match wordForm s i with
  | none => false
  | some f => s.me.active && (!f.uses.matrix || !isCellar (coreOf s.cur)) && (!runs || !s.me.owes (f.uses.indexRegs s.me)) &&
    decide (vregCheck s.me f.uses.groups = none) &&
    ((if f.lane then guardOf s.me f.ctl != 0#32 else (guardOf s.me f.ctl).getLsbD 0) == runs)
def suppressedB (s : State) (i : Instr) : Bool :=
  formB s i false && !s.me.loopOn && (match wordForm s i with | some f => !f.always | none => false)
/-- An executing word finds a register of its own owed a reply; or one that its operands index by. -/
def interlockedB (s : State) (i : Instr) : Bool :=
  formB s i true && (match wordForm s i with | some f => (!s.me.specOn || f.uses.conflict.isNone) && s.me.owes (f.uses.regs s.me) | none => false)
def indexOwedB (s : State) (i : Instr) : Bool :=
  s.me.active && (match wordForm s i with
    | some f => s.me.owes (f.uses.indexRegs s.me) && (if f.lane then guardOf s.me f.ctl != 0#32 else (guardOf s.me f.ctl).getLsbD 0)
    | none => false)
/-- OP of an executing word that an open region refuses; the register past the allotment that a word names. -/
def conflictOf (s : State) (i : Instr) : Option Nat :=
  if formB s i true && s.me.specOn then (match wordForm s i with | some f => f.uses.conflict | none => none) else none
def rangeOf (s : State) (i : Instr) : Option Nat :=
  match wordForm s i with
  | some f => if s.me.active && !s.me.owes (f.uses.indexRegs s.me) then vregCheck s.me f.uses.groups else none
  | none => none

/-- Suppressed words, interlocked words, words that a region refuses and words past the allotment of 128 registers, family by
family. -/
theorem witness_WordForms :
    (List.all [Instr.nop g0, .add g0 .i64 (.q 1) (.q 2) (.s 3), .vadd g0 false .i32 (vr 1) (vs 2) (vs 3), .ldd g0 o0 (.w .i64 9) (.w 8) (.imm 1),
      .std g0 o0 (.w 8) (.imm 0) (.v (vv 3)), .spawn g0 (.w 10) (.w 8) (.imm 0), .amsg g0 (.w 8) (.imm 0) (.imm 0), .slrd g0 0 (.w .i64 13) (.sl 0) ⟨0, 0⟩,
      .mma g0 .i8 0 (.reg (vr 8)) (.imm 0), .cpyg g0 true 1 .dm (.sp 9) (vr 12), .csrr g0 9 7] (suppressedB stE)) = true ∧
    (let s := stE.modThr 0 (fun t => { t with owed := [⟨1, [.stk 9], .word (.stk 9), [], false, none, .ls⟩, ⟨2, [.v 12], .v 12 1, [], false, none, .ls⟩] })
     List.all [Instr.brx g1 9, .vbcast g1 .i32 (vr 1) (.w 9), .ldd g1 o0 (.w .i64 8) (.w 9) (.imm 1), .std g1 o0 (.w 8) (.imm 0) (.v (vv 12)),
       .decr g1 9, .unbind g1 (.w 9) (.imm 0), .slrd g1 0 (.w .i64 9) (.sl 0) ⟨0, 0⟩, .mma g1 .i8 0 (.reg (vr 8)) (.w 9), .cpyg g1 true 1 .dm (.sp 8) (vr 12),
       .csrr g1 9 7] (interlockedB s) = true ∧
     indexOwedB s (.vadd g1 false .i32 (.vi 9 0) (vs 2) (vs 3)) = true ∧ suppressedB s (.vadd g0 false .i32 (.vi 9 0) (vs 2) (vs 3)) = true) ∧
    (let s := stE.modThr 0 (fun t => { t with specOn := true })
     List.map (conflictOf s) [.done g1, .csrr g1 9 7, .spawn g1 (.w 10) (.w 8) (.imm 0), .cpyg g1 true 1 .dm (.sp 9) (vr 12), .add g1 .i64 (.w 1) (.w 2) (.w 3)] =
       [some 0x08, none, none, some 0xD1, none]) ∧
    List.map (rangeOf stF) [.vmov g1 .i32 (vr 128) (vs 0), .stsp g0 o0 (.w 8) (.imm 0) (.v (vv 200)), .rowadd g1 o0 .f32 11 (vr 127),
      .mma g1 .i8 0 (.reg (vr 127)) (.imm 0), .vadd g1 false .i32 (vr 1) (vs 2) (vs 3)] = [some 128, some 200, some 128, some 128, none] := by
  decide +kernel

/-! ### Values that the rules tell apart -/

/-- FP32: a NaN, the infinities, a finite value, the two zeros; the elements at a sign; a pattern of `vshuf` at both ends. -/
theorem witness_Values :
    fdec (tyFmt .f32) 0x7FC00000 = .nan ∧ fdec (tyFmt .f32) 0xFF800000 = .inf true ∧ fdec (tyFmt .f32) 0x7F800000 = .inf false ∧
    fdec (tyFmt .f32) 0x3F800000 = .fin false 0x800000 (-23) ∧ fdec (tyFmt .f32) 0x80000000 = .fin true 0 (-149) ∧
    fCond .oeq .f32 0 0x80000000 = true ∧ fCond .olt .f32 0x80000000 0 = false ∧ fCond .uno .f32 0x7FC00000 0 = true ∧
    (tyIB .b8 = true ∧ 0x80 < 2 ^ tyWidth .b8) ∧ (tyIB .i64 = true ∧ 2 ^ 64 - 1 < 2 ^ tyWidth .i64) ∧ tyF2 .bf16 = true ∧
    (clampInt .i8 128 = (127, flOF) ∧ clampInt .i8 (-129) = (128, flOF) ∧ clampInt .b8 (-1) = (0, flOF) ∧ clampInt .b8 255 = (255, 0)) ∧
    (31 + 1 = 32 ∧ ¬ 32 ≤ 31 + 0 ∧ 31 ≤ 31 ∧ 15 < 16) ∧
    -- conversions: INT4S with 8, 15 and 7; a type to itself
    (8 % 16 = 8 ∧ 15 % 16 ≠ 8 ∧ toSigned 4 15 = -1 ∧ toSigned 4 7 = 7 ∧ toSigned 4 0 = 0) ∧
    (tyFloat .f32 = true ∧ fdec (tyFmt .f32) 0xFFC00001 = .nan) := by decide +kernel

/-! ### Handlers -/

/-- Thread 0 as a handler, and on the cellar core of home 0. -/
def stH : State := { stF.modThr 0 (fun t => { t with kind := .handler }) with cur := 0 }
def stHome : State := ({ stF with cur := 16384 } : State).setThr 16384 { stF.me with part := 0, kind := .handler }

theorem witness_Handlers :
    stH.me.kind = .handler ∧ (spPlace stHome (stHome.prt stHome.me.part) 0).isSome = true ∧ stHome.me.kind = .handler ∧
    (∃ a ∈ [0, 0x1000, 0x25010], ∃ h k, spPlace stHome (stHome.prt 0) a = some (h, k) ∧ coreOf stHome.cur ≠ homeEp h) ∧
    (∃ h k, spPlace stHome (stHome.prt 0) 0 = some (h, k) ∧ coreOf stHome.cur = homeEp h) ∧
    bitOf ((stH.prt stH.me.part).cfReg 0x48) 63 = true ∧ stH.me.wait ≠ .atsFault 0 ∧ (stH.prt stH.me.part).hgrant = true := by
  refine ⟨by decide +kernel, by decide +kernel, by decide +kernel, ⟨0x25010, by decide, _, _, rfl, by decide +kernel⟩, ⟨_, _, rfl, by decide +kernel⟩,
    by decide +kernel, by decide +kernel, by decide +kernel⟩

/-- `ldcf` of PREEMPT's register, whose reply acquires every path (R344). -/
theorem witness_StatusRead :
    readyB g1 false ((Uses.w 9).and (Uses.wi (.imm 0xD4))) stF = true ∧ stF.me.kind ≠ .handler ∧ wiNat stF.me (.imm 0xD4) = 0xD4 ∧
    cfClass 0xD4 ≠ .shuone ∧
    (let o : Owed := ⟨1, [.stk 9], .status (.stk 9), [], true, none, .ls⟩
     o.fill = .status (.stk 9) ∧ o.acquires .nb = true) ∧
    (let o : Owed := ⟨1, [.stk 9], .word (.stk 9), [], true, none, .ls⟩
     o.acquires .ls = true ∧ o.acquires .nb = false) := by decide +kernel

/-! ### Records and launches -/

/-- A launch that is refused: an origin past 1,023, a shape of 64, no far body, 33 granules, a map of 0 and of 257 cores, a map
that names no die, a DCOFF. -/
theorem witness_LaunchRefusals :
    (rec0.take 8).length = 8 ∧ (List.replicate 32 0#32 : Lanes).length = 32 ∧ 15 < 16 ∧
    readyB g1 false ((((Uses.wi (.imm 1)).and (Uses.w 9)).and (Uses.w 10)).and (Uses.args 24)) (stD.modThr 0 (fun t => (t.setW 9 1024).setW 10 64)) = true ∧
    originOf 1024#64 = none ∧ shapeOf 64#64 = none ∧ shapeOf 6#64 = none ∧ shapeOf 45#64 = some (32, 32) ∧
    (let noF := recSet rec0 0 0x0100000000000000#64
     hdrF (Rec.header noF) = false) ∧ hdrGran (Rec.header rec0) ≤ 32 ∧ hdrF (Rec.header rec0) = true ∧
    32 < hdrGran 0x0021000000000000#64 ∧
    (let pre (n e : Nat) : State := (stD.modThr 0 (fun t => { t with pre := (4, wordsBytes (rec0.take 8)) ::
        [(0x200, leBytes 8 n), (0x208, leBytes 8 e)] })).modThr 0 (fun t => t.setW 9 0x200)
     readyB g1 false ((((Uses.wi (.imm 1)).and (Uses.w 9)).and (Uses.wi (.imm 0))).and (Uses.args 24)) (pre 257 0) = true ∧
       (match readPre 0x200 8 (pre 0 0), readPre 0x200 8 (pre 257 0) with
        | .ok x, .ok y => (bytesWord x.1).toNat == 0 && (bytesWord y.1).toNat == 257
        | _, _ => false) = true ∧
       goes2 (readPre 0x200 8) (fun _ => readMap 0x200 1 1) (pre 1 3) = true ∧ placeRect ((pre 1 3).prt 0) [3#64] 1 1 = none) ∧
    Rec.dcoff (recSet rec0 4 0x0000000100000000#64) ≠ 0 := by decide +kernel

/-! ### The accumulators -/

theorem witness_AccumulatorRows :
    (let e := { engI8 with jobs := [jobI8] }
     let s := stE.modCore 0 (fun c => { c with engine := e })
     readyB g1 false (matUses (Uses.wi (.imm 63))) s = true ∧ stays (readRows 0xC6 0 2 0 (.imm 63) false) s = true ∧ stays needEngine s = true ∧
       rowsBusy e 0 64 = true ∧ readyB g1 false (matUses (Uses.group (vr 8) 1)) s = true ∧ rowsBusy e 0 1 = true ∧ rowsBusy e 1 1 = false ∧
       (∀ j ∈ e.jobs, 0 < j.m) ∧ e.holder = some 0 ∧ e.holder ≠ some 1) ∧
    (2 ^ 56 - 1 < 2 ^ 56 ∧ toSigned 56 (2 ^ 55) = -(2 ^ 55) ∧ toSigned 56 0 = 0 ∧ tyFloat .f32 = true ∧ tyFloat .i8 = false ∧ tyWidth .i8 ≤ 56) := by
  decide +kernel

/-! ### Copies, homes, and the mailboxes' partitions -/

/-- Poison in the words of a counter block, in its record only, and a block about to fire. -/
theorem witness_BlockPoison :
    (let s := stF.modHome 1024 (fun h => { h with poisoned := [4] })
     locBad s (.dm (lR 256)) 16 = true ∧ locBad s (.dm (lR 384)) 128 = false) ∧
    (let s := stF.modHome 1024 (fun h => { h with poisoned := [6] })
     locBad s (.dm (lR 256)) 16 = false ∧ locBad s (.dm (lR 384)) 128 = true) ∧
    (let s := setBlockWord (setBlockWord stF 0 (lR 256) 0 1#64) 0 (lR 256) 8 1#64
     blockCount s 0 (lR 256) = 1 ∧ blockState s 0 (lR 256) = 1#64) ∧
    ((some rec0).isSome = true ∧ 1 ≤ (3#64).toInt) ∧ (7 < 8 ∧ 31 < 32 ∧ 15 < 16 ∧ 1 ≤ 6 ∧ ¬ 7 ≤ 6) := by decide +kernel

/-! ### Pre-emption: what lets a context be placed, and a thread move -/

/-- A context that may be placed; two of which one carries the core section; a thread that stalled on the engine, with a copy
on its way; the same with another engine's holder at the target. -/
theorem witness_PlacingAndMoving :
    (let s := stCtx 0x0001000000000000 0 0
     ctxStatus s 0 0 1 = 0 ∧ (s.prt 0).preempt.todo.contains 1 = true ∧ ctxRoom s 1 (List.replicate 56 0) = true) ∧
    ctxStatus (stCtx 0 0 0) 0 0 1 ≠ 0 ∧
    (let s := stGo 3 [1, 2] 0 6
     let h (s : State) (k : Nat) (w : W64) : State := { s with mem := s.mem.writeN (ctxVa (s.prt 0) k) (wordsBytes [w, 1, 0, 0]) }
     let s := h (h (s.setThr 0 Thread.free) 1 0x0001000000000000) 2 0x0001002000000000
     ctxStatus s 0 0 1 = 0 ∧ ctxStatus s 0 0 2 = 0 ∧
       (match ctxRdHeader s 0 0 2 with | some (_, g, _) => bitOf (g.getD 0 0#64) 37 | none => false) = true) ∧
    (let s := (stGo 2 [0] 1 1).modThr 0 (fun t => { t with wait := .claimStall })
     let s := (s.modCore 0 (fun c => { c with engine := { Engine.free with holder := some 0 } })).setEngine (s.thr 0).copyEng [{ cp0 with started := true }]
     occupied s 0 0 [0] ≠ [] ∧ migrateRefused (s.thr 0) = false ∧ (s.thr 0).wait.landed = false ∧ (s.thr 0).wait = .claimStall ∧
       moveSlot s 1 = some 16 ∧ moveRoom s 0 1 = true ∧ owedBehind s 0 = true ∧ (s.engine (s.thr 0).copyEng)[0]?.map (·.thr) = some 0) := by
  decide +kernel

/-! ### Host accesses -/

/-- An access in one granule, one across two, at the limits of size; a read of two parts, the other still to come, or there. -/
theorem witness_HostPieces :
    (let s := { stT with windows := [⟨0, 0, 0x200000, 0, true⟩] }
     windowAt s 0 4096 = some ⟨0, 0, 0x200000, 0, true⟩ ∧ (List.replicate 4096 (1 : Byte)).length = 4096 ∧ 4096 ≤ 4096 - (0 + (0 - 0)) % 4096 ∧
       (walkVa s 0 0).map (fun l => (l.wr, decide (l.attr = 2#2))) = some (true, false) ∧
       windowAt s 4000 512 = some ⟨0, 0, 0x200000, 0, true⟩ ∧ 4096 - 4000 < 512 ∧ (walkVa s 0 4000).isSome = true ∧ (walkVa s 0 4096).isSome = true ∧
       windowAt s 0x1FFFFF 2 = none ∧ (windowAt s 0 513).isSome = true) ∧
    (let s := { stT with windows := [⟨0, 0, 0x400000, 0, true⟩] }
     (windowAt s 0x1FFFC0 128).isSome = true ∧ 4096 - 0x1FFFC0 % 4096 < 128 ∧ walkVa s 0 0x200000 = none) ∧
    (pteLoc 0xD000000000000000 0).attr = 2#2 ∧ (pteLoc 0xD000000000000000 0).off + 4096 ≤ sparseLimit ∧
    (let m : Msg := ⟨hostEp, 1024, 0, .hp, 0, 0, 0, 0, 5, .load (.dm (lR 0)) 8, none, 0⟩
     let s (g : Option (List Byte)) := { stF with hostReads := [⟨m.tok, none⟩ :: [⟨6, g⟩]] }
     m.src = hostEp ∧ (∀ x ∈ ([⟨6, none⟩] : List HostPart), x.tok ≠ m.tok) ∧ (s (some [1])).hostReads = [([] : List HostPart) ++ (⟨5, none⟩ : HostPart) :: [⟨6, some [1]⟩]] ∧
       (∀ x ∈ ([⟨6, some [1]⟩] : List HostPart), x.got ≠ none) ∧ (∃ x ∈ ([⟨6, none⟩] : List HostPart), x.got = none)) := by decide +kernel

/-! ### CREATE -/

/-- Every class of CREATE refuses at its boundary, and passes on the other side. -/
theorem witness_CreateRefusals :
    (let r (k : Nat) (v : W64) := createRange (createArgs ((cre 0 7 0 1 0).set k v))
     [r 10 0, r 10 8190, r 10 8191, r 2 (w64 (1280 * 2 ^ 48)), r 2 (w64 (1280 * 2 ^ 48 + 2 ^ 32)),
      createRange (createArgs (((cre 0 7 0 1 0).set 1 (w64 (7 * 2 ^ 8 + 7 * 2 ^ 12 + 2 ^ 24))).set 2 (w64 (4 * 2 ^ 48)))),
      createRange (createArgs ((((cre 0 7 0 1 0).set 1 (w64 (7 * 2 ^ 8 + 7 * 2 ^ 12 + 2 ^ 24))).set 2 (w64 (4 * 2 ^ 48))).set 5 4)),
      createRange (createArgs (((cre 0 7 0 1 0).set 1 (w64 (7 * 2 ^ 8 + 7 * 2 ^ 12 + 2 ^ 26))).set 11 8))] =
      [false, true, false, true, false, true, false, false]) ∧
    (let sh (s : State) (id cx lw : Nat) := createShape s (createArgs (cre id cx lw 1 0))
     [sh stC 0 7 0, sh stC 0 6 1, sh stC 0 7 1, sh { stC with disabled := [29 * 32 + 29] } 0 7 0,
      sh { stC with disabled := [cellarAt 31 29] } 0 7 0, sh (stC.modPart 0 (fun p => { p with present := true })) 0 7 0] =
      [true, true, false, false, false, false]) ∧
    (let f (w1 : Nat) (acc : Nat) := createFeat (createArgs ((cre 0 7 0 1 (w64 acc)).set 1 (w64 (7 * 2 ^ 8 + 7 * 2 ^ 12 + w1))))
     [f 0 0xFF, f 0 0x100, f (2 ^ 25) 0, f (2 ^ 25) (2 ^ 5), f (2 ^ 26) 0, f (2 ^ 26) (2 ^ 6)] = [true, false, false, true, false, true]) ∧
    (let a := createArgs (cre 0 7 0 1 0)
     let ds := stC.spDies (createPart a)
     ds ≠ [] ∧ (∀ d ∈ ds, spBaseOn stC a.spq d ≠ none) ∧ spBaseOn stC 257 0 = none ∧
       (stC.slot (a.base + 0)).part = 63 ∧ (stC.setSlot 5 { stC.slot 5 with state := .poison } |>.slot 5).state = .poison) := by decide +kernel

/-! ### Words in two home units, and turns passed -/

/-- A word that crosses into the next page at its last four bytes: nothing read yet, its first part read, its second part read; and
one that is whole in its unit. -/
theorem witness_FetchHalves :
    (let s := st.modThr 0 (fun t => { t with ip := 0x1FFFF8 })
     let s := { s with tlbs := SMap.set [] s.tlbs 0 (⟨0, 1, tablePte⟩ :: SMap.get [] s.tlbs 0) }
     min 12 (2 ^ 21 - 0x1FFFF8 % 2 ^ 21) = 8 ∧ (pteLoc tablePte 0x1FFFF8).attr = 1#2 ∧ (s.thr 0).half = none ∧
     firstPart s 0 0x1FFFF8 = 8 ∧ (match fetchPart s 0 0x1FFFF8 8, fetchPart s 0 0x200000 4 with | .bytes _, .bytes _ => true | _, _ => false) = true ∧
     (match fetchWord (s.modThr 0 (fun t => { t with half := some (false, List.replicate 8 1) })) 0 with | .word _ => true | _ => false) = true ∧
     (match fetchWord (s.modThr 0 (fun t => { t with half := some (true, List.replicate 4 1) })) 0 with | .word _ => true | _ => false) = true) ∧
    (min 12 (4096 - 4084 % 4096) = 12 ∧ min 12 (4096 - 4088 % 4096) = 8 ∧ (pteLoc 0x9000000000000003 0).attr = 0#2) := by
  decide +kernel

/-- A slot that is ready at a `yield`, one that issues, and one whose turn is over; a yield that waits for a slot. -/
theorem witness_Turns :
    (let s := stF.setThr 1 { stF.me with gran := 2, word := encodeWord (.nop g1), yieldAt := [(0, 0), (3, 0)] }
     ready s 1 = true ∧ (1, stF.me.task) ∈ readySlots s 0 ∧ ((turnTakenBy s 0).thr 1).yieldAt = [(3, 0)] ∧
     ((s.modThr 1 (fun t => { t with stop := 1 })).thr 1).stop ≠ 0) := by decide +kernel

/-! ### Reads that end, fault or wait -/

theorem witness_SourceWaits :
    -- an empty queue, and one that another slot waits for; a full queue, and one that another slot waits to write
    (stQ.core 0).q 2 = [] ∧
    (let s := stQ.modCore 0 (fun c => { c with qReaders := SMap.set [] c.qReaders 1 [9], qWriters := SMap.set [] c.qWriters 1 [9] })
     servedNext (SMap.get [] (s.core 0).qReaders 1) 0 = false ∧ servedNext (SMap.get [] (s.core 0).qWriters 1) 0 = false ∧
       0 ∉ SMap.get [] (s.core 0).qReaders 1) ∧
    (stQ.fencesOver 0 allPaths = true ∧ 8 ≤ ((stQ.modCore 0 (fun c => c.setQ 1 (List.replicate 8 7))).core 0 |>.q 1).length) ∧
    -- streams: unbound, ended, cut by a fault, and with bytes still to come
    (let str (bd : Bool) (n k e : Nat) : Stream := (stF.modThr 0 (fun t => t.setStream 3 ⟨bd, 5, 0, List.replicate n 1, k, e, 9⟩)).me.stream 3
     (str false 0 0 0).bound = false ∧ ((str true 7 0 0).buf.length + (str true 7 0 0).toCome < 8 ∧ (str true 7 0 0).ecode = 0) ∧
       ((str true 7 0 4).buf.length + (str true 7 0 4).toCome < 8 ∧ (str true 7 0 4).ecode ≠ 0) ∧
       ((str true 7 1 0).buf.length < 8 ∧ 8 ≤ (str true 7 1 0).buf.length + (str true 7 1 0).toCome)) ∧
    -- ports: a marker in front, an empty route, none, a full one, and a port that does not receive
    (let s (ws : List (Option W64)) : State := { stQ with routes := [⟨1, 1, 0, 2, true, ws, [], 0, 0, 0, false, false⟩] }
     ((s [none, none]).chanRoute 0 2).map (fun r => r.words) = some [none, none] ∧ ((s []).chanRoute 0 2).map (fun r => r.words) = some [] ∧
       stF.chanRoute 0 2 = none ∧ stQ.me.port 4 = .rx 2 ∧ stQ.me.port 5 = .tx 2 ∧ stQ.me.port 6 = .unbound) ∧
    (let s := { stQ with routes := [⟨2, 0, 1, 0, true, List.replicate 8 (some 1), [], 0, 0, 0, false, false⟩] }
     s.fencesOver 0 allPaths = true ∧ ((s.routes.find? (fun y => y.id == 2)).map (fun r => (r.dropped, r.words.length))) = some (false, 8)) := by
  decide +kernel

/-- Lanes of a reduction: taken and suppressed. -/
theorem witness_ReducedLanes : (List.replicate 32 7#32 : Lanes).length = 32 ∧ (1#32).getLsbD 0 = true ∧ (1#32).getLsbD 31 = false := by decide +kernel

/-! ### Records, barriers -/

/-- A record that waits behind a fence: it takes its place in OUT; one whose place is taken, at the limit; none left. -/
theorem witness_RecordWaits :
    (stFence.counted.recordWaits = true ∧ stFence.me.specOn = false ∧ stFence.me.outTaken = false ∧
      (stFence.core 0).spawnOut < (stFence.core 0).limit) ∧
    (let s := stFence.modCore 0 (fun c => { c with spawnOut := c.limit })
     ¬ (s.core 0).spawnOut < (s.core 0).limit ∧ (s.modThr 0 (fun t => { t with outTaken := true })).me.outTaken = true) ∧
    (let s := (stFence.modThr 0 (fun t => { t with pre := [(4, wordsBytes (rec0.take 8))] }))
     readyB g1 false ((((Uses.wi (.imm 1)).and (Uses.wg (.w 8))).and (Uses.wi (.imm 0))).and (Uses.args 24)) s = true ∧
       goes (readDesc (.imm 1)) s = true ∧
       (match checkAndSend (descRecord (rec0.take 8) (wgVal s.me (.w 8)) 0 (recArgs s.me 24 (hdrArgc (rec0.getD 0 0#64)))) s with
        | .error (.block f) => decide ((f s).me.outTaken = true) | _ => false) = true) := by
  decide +kernel

/-- The first origin of the die with the highest count; two dies that name one core each, of which the lower is chosen. -/
theorem witness_Rectangles :
    (stF.prt 0).dies ≠ [] ∧ placeRect (stF.prt 0) [0#64] 1 1 = some (0, 0) ∧ ([0#64] : List W64).length ≤ 256 ∧
    rectOk (stF.prt 0) 0 0 1 1 = true ∧ rectOk (stF.prt 0) 1 0 2 1 = false ∧ placeRect (stF.prt 0) [3#64] 1 1 = none := by decide +kernel

/-- A barrier number of 128 and a COUNT of 256; a COUNT of 0 under a standing arrival; a generation that is over, and one that is not; a
saved thread that has arrived on core 0. -/
theorem witness_BarrierEnds :
    (let s := stF.modThr 0 (fun t => (t.setW 9 128).setW 10 256)
     readyB g1 false (Uses.w 9) s = true ∧ 127 < (s.me.w 9).toNat ∧ 255 < (s.me.w 10).toNat ∧
       readyB g1 false (((Uses.w 9).and (Uses.wi (.imm 3))).and (Uses.wi (.imm 0))) s = true ∧
       readyB g1 false (((Uses.wi (.imm 127)).and (Uses.w 10)).and (Uses.wi (.imm 0))) s = true) ∧
    (let s := (stF.modCore 0 (fun c => c.setBar 127 ⟨0, 0, 255, 9⟩)).modThr 0 (fun t =>
       { t with restarted := true, syncRec := some (127, 255#8, t.ip), bar := ⟨true, 127, 255#8, false, 0⟩ })
     readyB g1 false (Uses.wi (.imm 127)) s = true ∧ ((s.core 0).bar 127).count = 0 ∧ s.me.bar.gen = ((s.core 0).bar 127).gen) ∧
    (let s (w : Wait) : State := stF.modThr 0 (fun t => { t with wait := w })
     (s (.barDone 127)).me.wait = .barDone 127 ∧ readyB g1 false (Uses.wi (.imm 127)) (s (.barDone 127)) = true ∧
       (s (.bar 127 5 255)).me.wait = .bar 127 5 255 ∧ readyB g1 false (Uses.wi (.imm 127)) (s (.bar 127 5 255)) = true) ∧
    (let s := { stF with saved := [⟨1, 0, 3, 0, { stF.me with bar := ⟨true, 4, 0, false, 0⟩ }, [], none, none, false⟩] }
     s.saved.map (fun y => (y.thread.bar.set, y.thread.bar.valid)) = [(s.barSet 0, true)] ∧
       (barComplete s 0 4).saved.map (fun y => y.thread.bar.done) = [true] ∧ (barComplete s 0 5).saved.map (fun y => y.thread.bar.done) = [false]) := by
  decide +kernel

/-! ### Multiplies that trap or wait -/

/-- An empty plane, one of another width, a row of the other kind; a stream that ends in the first row, one that a fault cut; rows of an
earlier multiply under `mma.sc` and `mmag`. -/
theorem witness_MultiplyTraps :
    (let s (pl : Plane) : State := stE.modCore 0 (fun c => { c with engine := { engI8 with active := pl } })
     let u := matUses ((mmaUses (.reg (vr 8)) (.imm 0)).and (Uses.ty .i8))
     let p (f : Option Ty) : Plane := { engI8.active with fmt := f }
     (List.all [p none, p (some .int4x), p (some .i8)] (fun pl => readyB g1 false u (s pl) && stays needEngine ((s pl).begun u))) = true ∧
       (p none).fmt = none ∧ matK .int4x ≠ matK .i8 ∧ wiNat stE.me (.imm 0) < 64 ∧
       vregCheck ((s (p none)).begun u).me [(vr 8, 2)] = none) ∧
    (List.range 64).all (fun i => engI8.kind i != (if matInt engI8 .i8 false then .fp else .int)) = true ∧
    (let v := matUses ((mmaUses (.s 3) (.imm 0)).and (Uses.ty .i8))
     let s (bd : Bool) (n e : Nat) : State := stE.modThr 0 (fun t => t.setStream 3 ⟨bd, 5, 0, List.replicate n 1, 0, e, 0⟩)
     (List.all [s false 0 0, s true 255 0, s true 255 4] (fun s => readyB g1 false v s && stays needEngine (s.begun v) &&
       decide ((s.me.stream 3).buf.length + (s.me.stream 3).toCome < 256))) = true ∧ ((s true 255 4).me.stream 3).ecode ≠ 0 ∧
       ((s true 256 0).me.stream 3).buf.length = 256) ∧
    (let u := matUses ((mmaUses (.reg (vr 8)) (.imm (64 * 4 + 1))).and (Uses.ty .i8))
     let g := matUses (((Uses.genMat .ident).and (Uses.wi (.imm 0))).and (Uses.ty .i8))
     readyB g1 false u stEW = true ∧ goes2 (readGroup 16 8) (fun _ => needEngine) (stEW.begun u) = true ∧ readyB g1 false g stEW = true ∧
       goes2 (readGen 0xC5 (tyFn (genKind .ident) .i8) 2 63 .ident) (fun _ => needEngine) (stEW.begun g) = true ∧
       rowsWaiting (stEW.core 0).engine = true) := by decide +kernel

/-! ### Queues and draws -/

/-- Anchors that share a byte with an older entry's; a queue in which nothing qualifies; a thief's refusal, its fourth, and its grant. -/
theorem witness_QueueChoices :
    (let a (n : Nat) : QEntry := ⟨n, recSet (recSet (recSet rec0 0 (Rec.header rec0 ||| 0x8000000000000#64)) 1 0x100#64) 2 64#64, none⟩
     hdrN (Rec.header rec0) = true ∧ hdrF (Rec.header rec0) = true ∧ (a 0).num < (a 1).num ∧
       nearChoice (stF.modQueue 0 0 0 (fun q => { q with entries := [] })) 0 0 0 = none ∧
       farChoice (stF.modQueue 0 0 0 (fun q => { q with entries := [] })) 0 0 0 0 = none) ∧
    (let m := msg 1024 (.schedSteal 0 1)
     let s := stF.modQueue 0 0 0 (fun q => { q with steals := [m] })
     ((s.home 1024).queue 0 0).takes = [] ∧ ((s.home 1024).queue 0 0).steals = [m] ∧
       farChoice (s.modQueue 0 0 0 (fun q => { q with steals := [] })) 0 0 0 m.src = none) ∧
    (let s := stF.modQueue 0 0 0 (fun q => { q with takes := [5] })
     ((s.home 1024).queue 0 0).takes = [5] ∧ ((s.home 1024).queue 0 0).steals = [] ∧ nearChoice s 0 0 0 = none) ∧
    (let m : Msg := { msg 0 (.grant none 0 1024) with tok := 0 }
     let s (n : Nat) : State := stF.modCore 0 (fun c => c.setDecision 0 { Decision.init with pending := true, refusals := n })
     m.tok = 0 ∧ ((s 3).core (coreOf m.thr)).decision (slotOf m.thr) = { Decision.init with pending := true, refusals := 3 } ∧
       (((deliver (s 3) m).core 0).decision 0).waiting = true ∧ (((deliver (s 2) m).core 0).decision 0).waiting = false) ∧
    -- draws: no ticket at all, and the ends of the sums
    (draw 5 [(2, 0), (3, 0)] = some 2 ∧ draw 3 [(2, 3), (3, 1)] = some 3 ∧ draw 2 [(2, 3), (3, 1)] = some 2 ∧ 5 % 4 < 3) := by decide +kernel

/-! ### Slots -/

/-- A slot that passes core 0 with requests of its threads: reads, a combined addition, a rewrite after it, and a poisoned one. -/
theorem witness_SlotPassages :
    (let q (k : SlKind) : Wait := .slot ⟨k, 7, 3, 0⟩
     let s (stt : SlState) (w0 w1 : SlKind) : State :=
       ((stF.modThr 0 (fun t => { t with wait := q w0 })).setThr 1 { stF.me with wait := q w1 }).setSlot 7 ⟨stt, 0, List.replicate 8 1, 0⟩
     let time := nextPass 7 0 0
     let rs (x : State) : List Nat := (slRequests x 0 7 time).map (fun y => y.1)
     rs (s .full (.add .i64 2) (.add .b64 3)) = [0, 1] ∧ rs (s .empty (.rd true) (.swap 9)) = [0, 1] ∧ rs (s .poison .hdr (.rd false)) = [0, 1] ∧
       ((slServe (s .full (.add .i64 2) (.add .b64 3)) 0 7 time ⟨.full, 0, List.replicate 8 1, 0⟩ false).slot 7).words.getD 3 0#64 = 6#64 ∧
       ((s .full .hdr .hdr).slot 7).err = 0 ∧ (stF.prt 0).containing = .none ∧ slIsBoard (.rd false) = false ∧ slIsRead (.add .i64 2) = false) := by
  decide +kernel

/-- The forms of one slot: past the pool, within it, and with a slot trap that has come; `slboard` from a queue and a stream. -/
theorem witness_SlotForms :
    (let rows : List (Uses × Nat) := [(Uses.ldDst (.w .i64 9), 0xB0), (Uses.ldDst (.v (vr 9)), 0xB5), (Uses.w 9, 0xB7)]
     rows.all (fun row => readyB g1 false ((row.1.and (Uses.slotOp (.sl 8))).and (slUses row.2)) stF) = true ∧
       (stF.prt 0).poolSize ≤ slotVal stF.me (.sl 8) ∧ slotVal stF.me (.sl 7) < (stF.prt 0).poolSize ∧ stF.accessOpen 0 .rg = true ∧
       (let s := stF.modThr 0 (fun t => { t with wait := .slotDone (.trap 0x61 3) })
        rows.all (fun row => readyB g1 false ((row.1.and (Uses.slotOp (.sl 0))).and (slUses row.2)) s) = true ∧
          readyB g1 false (((Uses.w 9).and (Uses.src (.w 10))).and (slUses 0xB4)) s = true ∧
          readyB g1 false (((Uses.w 9).and (Uses.vr (vr 10))).and (slUses 0xB4)) s = true)) ∧
    (List.all [Src.q 1, .s 3, .n 4, .imm 5] (fun a => let u := ((Uses.w 9).and (Uses.src a)).and (slUses 0xB4)
      readyB g1 false u stQ && (match readSrc64 .b64 a (stQ.begun u) with | .ok r => r.2.accessOpen 0 .rg | .error _ => false))) = true := by
  decide +kernel

/-! ### Contexts -/

/-- A context of a thread of a few windows in a HOMED page, whose area begins at a boundary of 512 KiB. -/
theorem witness_ContextBytes :
    (let s := (stGo 1 [0] 0 1).modThr 0 (fun t => { t with stop := 1 })
     let t := s.thr 0
     (match ctxPte s 0 0 (ctxVa (s.prt 0) 0) with | some (pte, _) => decide ((pteLoc pte (ctxVa (s.prt 0) 0)).attr = 1#2) | none => false) = true ∧
       (s.prt 0).cfReg 0xD5 % 524288#64 = 0#64 ∧ t.depth - t.low ≤ 7 ∧ t.gran ≤ 48 ∧ (threadCopies s 0).length ≤ 32 ∧ t.held.length ≤ 64 ∧
       t.streams.length ≤ 8 ∧ (s.prt 0).coreIndex 0 < 2048) ∧
    (let s := { stCtx 0x0001000200000000 0 0 with saved := [⟨7, 0, 1, 0, { stF.me with g := SMap.set 0#64 stF.me.g 14 1 }, [cp0], some engI8, none, false⟩] }
     ctxStatus s 0 0 1 = 0 ∧ (s.saved.find? (fun z => z.part == 0 && z.thread.task == 1#64)).isSome = true ∧
       (match ctxRdHeader s 0 0 1 with | some (_, h, _) => bitOf (h.getD 0 0#64) 33 && (h.getD 1 0#64 == 1#64) | none => false) = true) ∧
    (let s := (stGo 2 [0] 1 1).modCore 0 (fun c => { c with engine := { Engine.free with holder := some 0 } })
     (s.core 0).engine.holder = some 0 ∧ (s.thr 0).wait ≠ .claimStall ∧ moveRoom s 0 1 = true ∧ moveSlot s 1 = some 16) := by decide +kernel

/-! ### Records, and accesses that are not aligned -/

/-- Anchors in DM: without a translation, in a page to be walked for, across a granule of a STRIPED page, and passed; counter blocks
without a translation, without W, in a SPARSE page, and passed. -/
theorem witness_RecordBlocks :
    (let r (base w4 : W64) : Rec := recSet (recSet rec0 3 base) 4 w4
     let tab (e : W64) : State := { stF with tlbs := [(0, [⟨0, 0, e⟩])] }
     let held (s : State) (va : Nat) : Option W64 := heldPte s (coreBufs (coreOf s.cur)) s.me.part (va / 2 ^ 21)
     (nearEligible (Rec.header (r 0 0)) = true ∧ Rec.spAnchor (r 0 0) = false ∧ Rec.alen (r 0 0) = 0) ∧
     2 ^ 48 ≤ (Rec.abase (r 0x0001000000000000 0)).toNat ∧
     (held stF 0x200000 = none ∧ stF.me.wait ≠ .walkFault 1 ∧ stF.me.wait ≠ .walkPoison 1 ∧
       (stF.modThr 0 (fun t => { t with wait := .walkFault 1 })).me.wait = .walkFault 1) ∧
     (held (tab 0x9800000000000000) 0xFF8 = some 0x9800000000000000 ∧ (pteLoc 0x9800000000000000 0xFF8).attr = 0#2 ∧ Rec.alen (r 0xFF8 9) = 9 ∧
       4096 < (Rec.abase (r 0xFF8 9)).toNat % 4096 + Rec.alen (r 0xFF8 9) ∧ (Rec.abase (r 0xFF8 9)).toNat % 2 ^ 21 + 9 ≤ 2 ^ 21) ∧
     (Rec.dcoff (r 0 0x0000010000000000) = 256 ∧ (pteLoc tablePte 256).wr = true ∧ (pteLoc tablePte 256).attr ≠ 2#2) ∧
     (held (tab 0x8000000000000000) 256 = some 0x8000000000000000 ∧ (pteLoc 0x8000000000000000 256).wr = false) ∧
     (held (tab 0xD000000000000000) 256 = some 0xD000000000000000 ∧ (pteLoc 0xD000000000000000 256).wr = true ∧
       (pteLoc 0xD000000000000000 256).attr = 2#2 ∧ ¬ sparseLimit ≤ (pteLoc 0xD000000000000000 256).off) ∧
     (Rec.spAnchor (r 0x8000000100000000 0) = true ∧ fieldOf (Rec.abase (r 0x8000000100000000 0)) 32 31 ≠ 0) ∧
     spPlace stF (stF.prt 0) (fieldOf (Rec.abase (r 0x80000000FFFFF000 0)) 0 32) = none) := by decide +kernel

/-- An access of each form that is not aligned to its size. -/
theorem witness_MisalignedForms :
    (let s := st.modThr 0 (fun t => t.setW 8 4)
     (wgVal s.me (.w 8)).toNat % 2 ^ 32 % atBytes .addI64 ≠ 0 ∧ (wgVal s.me (.w 8)).toNat % atBytes .addI64 ≠ 0 ∧ (s.me.w 8).toNat % 256 ≠ 0 ∧
     (wgVal s.me (.w 8) + wiVal s.me (.imm 1) * w64 8).toNat % 2 ^ 32 % ldBytes (.w .i64 9) ≠ 0 ∧
     (wgVal s.me (.w 8) + wiVal s.me (.imm 0)).toNat % ldBytes (.w .i64 9) ≠ 0 ∧
     [atUses 0x72 9 (.w 8) (.imm 1), atUses 0x75 9 (.w 8) (.imm 1), atUses 0x7A 9 (.w 8) (.imm 1),
      (atUses 0x7D 9 (.w 8) (.imm 1)).and pmFeat, (ldUses (.w .i64 9) (.w 8) (.imm 1)).and pmFeat,
      (stUses (.w 8) (.imm 1) (.s .i64 (.w 9))).and pmFeat].all (fun u => readyB g1 false u s) = true ∧
     readyB g1 true (((Uses.w 8).and (Uses.group (vr 126) 2)).and { feats := [0] }) s = true ∧
     readyB g1 true (((((Uses.group (vr 126) 2).and (Uses.w 8)).and (Uses.wi (.imm 1))).and { feats := [0] }).and
       { extra := [.rver], conflict := some 0x77 }) s = true) := by decide +kernel

/-! ### Barriers of restored threads, and what a second restore finds -/

/-- A thread of another core whose record is of core 0's barriers; a core whose barriers came with a core section. -/
theorem witness_BarrierSets :
    (let s := stF.setThr 16 { stF.me with bar := ⟨true, 4, 0, false, 0⟩ }
     (16 ∉ s.coreThreads 0) ∧ ((barComplete s 0 4).thr 16).bar.done = true ∧ ((barComplete s 1 4).thr 16).bar.done = false) ∧
    (let s := (stF.modCore 1 (fun c => { c with barSet := some 2055 })).setThr 16 { stF.me with bar := ⟨true, 4, 0, false, 1⟩ }
     s.barSet 1 = 2055 ∧ ((barComplete s 1 4).thr 16).bar.done = false) := by decide +kernel

/-- A context whose sections name a save; the save is found again after the restore. -/
theorem witness_ContextSections :
    (let y : SavedCtx := ⟨7, 0, 1, 0, { stF.me with g := SMap.set 0#64 stF.me.g 14 1, streams := [(3, ⟨true, 5, 0, [], 0, 0, 0⟩)] },
       [cp0], some engI8, some ⟨[], [(4, ⟨2, 1, 0, 0⟩)], 2055⟩, true⟩
     let s0 := stCtx 0x000100E800000000 0 0
     let s := { s0 with saved := [y], mem := [3072, 15360, 20480, 57344].foldl (fun m o => m.writeN (ctxVa (s0.prt 0) 1 + o) (leBytes 8 7)) s0.mem }
     match ctxRdHeader s 0 0 1 with
     | some (pte, h, s1) =>
       let va := ctxVa (s1.prt 0) 1
       let w := ctxRegWords s1 0 pte va
       let x := ctxFound s1 0 pte va h
       let s2 := placeContext s1 0 1 pte h w
       [3, 5, 6, 7].all (fun k => bitOf (h.getD 0 0#64) (32 + k)) && x.copies == [cp0] && x.engine == some engI8 &&
         x.queues.isSome && x.streams.length == 1 && x.held.isNone && (wordsSave s1 0 1 w).isSome &&
         s2.saved.map (fun z => (z.num, z.away)) == [(7, false)] && (s2.core 0).engine.holder == some 1 && s2.barSet 0 == 2055 &&
         (ctxFound s2 0 pte va h).copies == [cp0]
     | none => false) = true := by decide +kernel

/-! ### Peers and reports -/

/-- A place of a peer's access, and none; a table of 6 records that is exported, through port 0. -/
theorem witness_PeerAnswers :
    (let s := stT.modPart 0 (fun p => p.setCf 0xA0 0x8006000000000100)
     let place (a : Nat) : Option DmLoc := walkVa s 0 a
     portBound s 0 0 = true ∧ (place 0x100).map (fun l => (l.wr, frameOk s 0 l, l.attr, locBad s (.dm l) 128)) = some (true, true, 1#2, false) ∧
     0x100 % 128 = 0 ∧ place 0x200000 = none ∧ (s.prt 0).discard = false ∧
     (let e := (s.prt 0).cfReg 0xA0
      e.getLsbD 63 = true ∧ (5 : Nat) < fieldOf e 48 15 ∧ fieldOf e 48 15 ≤ 6 ∧ fieldOf e 7 41 * 128 + 128 * 5 = 0x380)) := by decide +kernel

/-- SHAKE256 of no bytes, as FIPS 202's test values give its first bytes. -/
theorem test_shake256_empty : (shake256 []).take 8 = [0x46, 0xb9, 0xdd, 0x2b, 0x0b, 0xa8, 0x8d, 0x13] := by decide +kernel
/-- A pull beyond the exported table is dropped, and one inside it is answered with the record's 128 bytes (R300). -/
theorem test_export_bounds :
    (let s := stT.modPart 0 (fun p => p.setCf 0xA0 0x8006000000000100)
     (peerAccess s 0 0 (.pull 6)).2 = .dropped ∧ (peerAccess (stT.modPart 0 (fun p => p.setCf 0xA0 0)) 0 0 (.pull 0)).2 = .dropped ∧
       (match (peerAccess s 0 0 (.pull 5)).2 with | .bytes bs => bs.length == 128 | _ => false) = true) := by decide +kernel
end Sys2Proof.Tests
end

section
/-!
PROOFS. What a mailbox message goes through from the host's first word to its task (R16, R17, R351, R355, R364).
-/
namespace Sys2Proof.Machine

open Sys2Proof

/-! ## Registers, mailboxes and run-lists: what a write leaves -/

theorem Part.mbox_setMbox (q : Part) (m n : Nat) (x : Mailbox) :
    (q.setMbox m x).mbox n = if m = n then x else q.mbox n := SMap.get_set _ _ _ _ _
@[simp] theorem Part.mbox_setMbox_self (q : Part) (m : Nat) (x : Mailbox) : (q.setMbox m x).mbox m = x := by
  simp [Part.mbox_setMbox]
@[simp] theorem Part.resident_setMbox (q : Part) (m : Nat) (x : Mailbox) : (q.setMbox m x).resident = q.resident := rfl
@[simp] theorem Part.present_setMbox (q : Part) (m : Nat) (x : Mailbox) : (q.setMbox m x).present = q.present := rfl
@[simp] theorem Part.containing_setMbox (q : Part) (m : Nat) (x : Mailbox) :
    (q.setMbox m x).containing = q.containing := rfl
@[simp] theorem Part.replay_setMbox (q : Part) (m : Nat) (x : Mailbox) : (q.setMbox m x).replay = q.replay := rfl

@[simp] theorem Core.runlist_setRunlist_self (c : Core) (k : Nat) (l : List RunItem) :
    (c.setRunlist k l).runlist k = l := SMap.get_set_self _ _ _ _

/-- A list of words written to the keys below a bound, one by one, is read back there. -/
theorem SMap.get_foldl_range (f : Nat → W64) (n : Nat) (a : SMap W64) (j : Nat) :
    SMap.get 0#64 ((List.range n).foldl (fun m j => SMap.set 0#64 m j (f j)) a) j =
      if j < n then f j else SMap.get 0#64 a j := by
  induction n with
  | zero => rfl
  | succ n ih =>
    rw [List.range_succ, List.foldl_append, List.foldl_cons, List.foldl_nil, SMap.get_set, ih]
    by_cases h : n = j
    · subst h; simp
    · rw [if_neg h]; congr 1; exact propext (by omega)

/-! ## The host's writes of a message (R16, R355) -/

section
variable {s : State} {p m : Nat}

theorem exec_mailboxWordWrite_staged (hp : (s.prt p).present = true) (hm : m < 4) {j : Nat} (hj : j < 7) (v : W64) :
    exec (.mailboxWordWrite p m j v) s = .next (s.modPart p (fun q =>
      q.setMbox m { q.mbox m with staged := SMap.set 0#64 (q.mbox m).staged j v })) := by
  rw [exec_mailboxWordWrite, execMailboxWordWrite, if_pos ⟨hp, hm, hj⟩]

theorem exec_mailboxMessageComplete_completed (hp : (s.prt p).present = true) (hm : m < 4) (v : W64) :
    exec (.mailboxMessageComplete p m v) s = .next (s.modPart p (fun q =>
      q.setMbox m (completeMail (q.mbox m) (mbBind q m) (hostWrites s s.hostReq) v))) := by
  rw [exec_mailboxMessageComplete, execMailboxMessageComplete, if_pos ⟨hp, hm⟩]

theorem exec_mbstatWrite_cleared (hp : (s.prt p).present = true) (hm : m < 4) (v : W64) :
    exec (.mbstatWrite p m v) s = .next (s.modPart p (fun q => q.setMbox m { q.mbox m with
      ready := (q.mbox m).ready && !bitOf v 0, overrun := (q.mbox m).overrun && !bitOf v 1 })) := by
  rw [exec_mbstatWrite, execMbstatWrite, if_pos ⟨hp, hm⟩]
end

/-- A busy mailbox discards the message. -/
theorem completeMail_busy {x : Mailbox} (h : x.busy = true) (b : Option W64) (ws : List (Nat × Nat)) (v : W64) :
    completeMail x b ws v = { x with staged := [], overrun := true } := if_pos h

/-- A mailbox that is not busy holds it. -/
theorem completeMail_held {x : Mailbox} (h : x.busy = false) (b : Option W64) (ws : List (Nat × Nat)) (v : W64) :
    completeMail x b ws v = { x with staged := [], inbound := SMap.set 0#64 x.staged 7 v, held := true, busy := true,
                                     bound := b, before := ws } := if_neg (by simp [h])

theorem takeBinding_eq (x : Mailbox) (b : Option W64) :
    takeBinding x b = if x.held = true ∧ x.bound = none then { x with bound := b } else x := by
  simp [takeBinding]

/-! ## When a held message may be placed (R351) -/

theorem isHostWrite_iff (y : Msg) : isHostWrite y = true ↔ y.src = hostEp ∧ ∃ l bs, y.req = .store l bs := by
  unfold isHostWrite
  cases y.req <;> simp

theorem mem_hostWrites (s : State) (r d n : Nat) : (d, n) ∈ hostWrites s r ↔
    ∃ y ∈ s.inFlight, y.src = hostEp ∧ (∃ l bs, y.req = .store l bs) ∧ y.thr = r ∧ y.dst = d ∧ y.seq = n := by
  simp [hostWrites, isHostWrite_iff, and_assoc]

/-- All of some writes are performed where none of them is among a requester's writes on their way. -/
theorem writesDone_iff (s : State) (ws : List (Nat × Nat)) :
    writesDone s ws = true ↔ ∀ w ∈ ws, ∀ r, w ∉ hostWrites s r := by
  have free : ∀ w : Nat × Nat, (s.inFlight.any (fun y => isHostWrite y && y.dst == w.1 && y.seq == w.2)) = true ↔
      ∃ r, w ∈ hostWrites s r := by
    rintro ⟨d, n⟩
    simp only [List.any_eq_true, Bool.and_eq_true, beq_iff_eq, isHostWrite_iff, mem_hostWrites]
    constructor
    · rintro ⟨y, hy, ⟨⟨hsrc, hreq⟩, hd⟩, hn⟩
      exact ⟨y.thr, y, hy, hsrc, hreq, rfl, hd, hn⟩
    · rintro ⟨_, y, hy, hsrc, hreq, _, hd, hn⟩
      exact ⟨y, hy, ⟨⟨hsrc, hreq⟩, hd⟩, hn⟩
  simp only [writesDone, List.all_eq_true, Bool.not_eq_true', ← Bool.not_eq_true, free, not_exists]

theorem canPlace_iff (s : State) (p m : Nat) : canPlace s p m = true ↔
    s.halted p = false ∧ ((s.prt p).mbox m).held = true ∧ ((s.prt p).mbox m).bound ≠ none ∧
      (s.core (s.prt p).resident).runCount < 32 ∧ ∀ w ∈ ((s.prt p).mbox m).before, ∀ r, w ∉ hostWrites s r := by
  simp only [canPlace, Bool.and_eq_true, Bool.not_eq_true', decide_eq_true_eq, writesDone_iff, and_assoc,
    Option.isSome_iff_ne_none]

/-! ## A held message becomes a task (R16, R17) -/

@[simp] theorem journal_mem (s : State) (p m : Nat) (ws : List W64) : (journal s p m ws).mem = s.mem := by
  unfold journal; dsimp only; split <;> rfl

@[simp] theorem journal_core (s : State) (p m : Nat) (ws : List W64) (c : Nat) : (journal s p m ws).core c = s.core c := by
  unfold journal; dsimp only; split <;> rfl

/-- A journal entry moves the partition's journal on, and leaves the rest of the partition. -/
theorem journal_prt (s : State) (p m : Nat) (ws : List W64) :
    ∃ n, (journal s p m ws).prt p = { s.prt p with jcount := n } := by
  unfold journal; dsimp only; split
  · exact ⟨_, State.prt_setPart_self _ _ _⟩
  · exact ⟨_, rfl⟩

/-- The run-list entry that a held message becomes. -/
def mailItem (s : State) (p m : Nat) : RunItem :=
  ⟨⟨p, devRecord (mbEntry (s.prt p) m) ((s.prt p).mbox m).message, 0, 0, 1, 1, 0, 0#64, 0⟩, some m⟩

@[simp] theorem placeMail_mem (s : State) (p m : Nat) : (placeMail s p m).mem = s.mem := by
  simp [placeMail]

/-- The new task is the last entry of class 0 of the resident core. -/
theorem placeMail_runlist (s : State) (p m : Nat) :
    ((placeMail s p m).core (s.prt p).resident).runlist 0 =
      (s.core (s.prt p).resident).runlist 0 ++ [mailItem s p m] := by
  simp [placeMail, mailItem]

/-- Placing leaves the partition but for the mailbox, which holds no message any more, and the journal. -/
theorem placeMail_prt (s : State) (p m : Nat) :
    ∃ n, (placeMail s p m).prt p = { (s.prt p).setMbox m
      { (s.prt p).mbox m with held := false, bound := none, before := [] } with jcount := n } := by
  obtain ⟨n, hn⟩ := journal_prt ((s.modPart p (fun q => q.setMbox m
    { q.mbox m with held := false, bound := none, before := [] })).modCore (s.prt p).resident
      (fun c => c.setRunlist 0 (c.runlist 0 ++ [mailItem s p m]))) p m ((s.prt p).mbox m).message
  refine ⟨n, hn.trans ?_⟩
  simp

theorem placeMail_mbox (s : State) (p m : Nat) :
    ((placeMail s p m).prt p).mbox m = { (s.prt p).mbox m with held := false, bound := none, before := [] } := by
  obtain ⟨n, hn⟩ := placeMail_prt s p m
  rw [hn]; exact Part.mbox_setMbox_self _ _ _

theorem placeMail_replay (s : State) (p m : Nat) : ((placeMail s p m).prt p).replay = (s.prt p).replay := by
  obtain ⟨n, hn⟩ := placeMail_prt s p m
  rw [hn]; rfl

/-- Bits 47 to 2 of a word, in their places. -/
theorem w64_fieldOf_entry (w : W64) : w64 (fieldOf w 2 46 * 4) = w &&& 0x0000FFFFFFFFFFFC#64 := by
  have mask : ∀ i, i < 64 → (0x0000FFFFFFFFFFFC#64).getLsbD i = decide (2 ≤ i ∧ i < 48) := by decide
  apply BitVec.eq_of_getLsbD_eq
  intro i hi
  rw [BitVec.getLsbD_and, mask i hi, w64, BitVec.getLsbD_ofNat, fieldOf, show 4 = 2 ^ 2 from rfl,
    Nat.testBit_mul_two_pow, Nat.testBit_mod_two_pow, Nat.testBit_div_two_pow, BitVec.testBit_toNat]
  by_cases h : 2 ≤ i
  · rw [show i - 2 + 2 = i by omega]
    simp [hi, h, show i - 2 < 46 ↔ i < 48 by omega, Bool.and_comm]
  · simp [h]

theorem mailItem_far (s : State) (p m : Nat) :
    Rec.far (mailItem s p m).inst.recd = ((s.prt p).mbox m).bound.getD 0#64 &&& 0x0000FFFFFFFFFFFC#64 :=
  w64_fieldOf_entry _

theorem mailItem_arg (s : State) (p m : Nat) {j : Nat} (hj : j < 8) :
    Rec.arg (mailItem s p m).inst.recd j = SMap.get 0#64 ((s.prt p).mbox m).inbound j := by
  have hget : Rec.arg (mailItem s p m).inst.recd j = ((s.prt p).mbox m).message.getD j 0#64 := by
    rw [Rec.arg, Rec.word, Nat.add_comm]; rfl
  rw [hget]
  simp [Mailbox.message, List.getD, hj]

theorem exec_mailboxTaskPlace_placed {s : State} {p m : Nat} (hm : m < 4) (h : canPlace s p m = true) :
    exec (.mailboxTaskPlace p m) s = .next (placeMail s p m) := by
  rw [exec_mailboxTaskPlace, execMailboxTaskPlace, if_pos ⟨hm, h⟩]

theorem exec_mailboxTaskPlace_waits {s : State} {p m : Nat} (h : canPlace s p m = false) :
    exec (.mailboxTaskPlace p m) s = .next s := by
  rw [exec_mailboxTaskPlace, execMailboxTaskPlace, if_neg (by simp [h])]

/-! ## A store to MBBIND (R17) -/

theorem exec_mailboxBind_bound {s : State} {p m i : Nat} {v : W64} (hm : m < 4) (h : cfHead s p = some (i, 0xE0 + m, v)) :
    let s1 := (inboxTake s (mbEp p) false i).modPart p (fun q =>
      let y := q.setCf (0xE0 + m) (v &&& 0x8000FFFFFFFFFFFC#64)
      y.setMbox m (takeBinding (y.mbox m) (mbBind y m)))
    exec (.mailboxBind p) s = .next (if canPlace s1 p m then placeMail s1 p m else s1) := by
  simp only [exec_mailboxBind, execMailboxBind, h]
  rw [if_pos (by omega), Nat.add_sub_cancel_left]
  exact (apply_ite Host.Outcome.next _ _ _).symm

/-! ## Replay (R364) -/

/-- A mailbox that holds a journalled message under the binding in force. -/
def replayMailbox (b : Option W64) (ws : List W64) (x : Mailbox) : Mailbox :=
  { x with inbound := (List.range 8).foldl (fun m j => SMap.set 0#64 m j (ws.getD j 0#64)) [],
           held := true, busy := true, bound := b, before := [] }

/-- The state in which the first journalled message has come to its mailbox. -/
def replayHeld (s : State) (p : Nat) (e : JEntry) (rest : List JEntry) : State :=
  s.modPart p (fun q => { q.setMbox e.mb (replayMailbox (mbBind (s.prt p) e.mb) e.words (q.mbox e.mb)) with replay := rest })

theorem replayMailbox_inbound (b : Option W64) (ws : List W64) (x : Mailbox) {j : Nat} (hj : j < 8) :
    SMap.get 0#64 (replayMailbox b ws x).inbound j = ws.getD j 0#64 :=
  (SMap.get_foldl_range (fun j => ws.getD j 0#64) 8 [] j).trans (if_pos hj)

section
variable {s : State} {p : Nat} {e : JEntry} {rest : List JEntry}

theorem replayHeld_prt : (replayHeld s p e rest).prt p =
    { (s.prt p).setMbox e.mb (replayMailbox (mbBind (s.prt p) e.mb) e.words ((s.prt p).mbox e.mb)) with
      replay := rest } := State.prt_setPart_self _ _ _

theorem replayHeld_mbox : ((replayHeld s p e rest).prt p).mbox e.mb =
    replayMailbox (mbBind (s.prt p) e.mb) e.words ((s.prt p).mbox e.mb) := by
  rw [replayHeld_prt]; exact Part.mbox_setMbox_self _ _ _

/-- Such a message follows no write of the host: it is placed where its mailbox binds and an entry is free. -/
theorem canPlace_replayHeld (hh : s.halted p = false) (hb : mbBind (s.prt p) e.mb ≠ none)
    (hc : (s.core (s.prt p).resident).runCount < 32) : canPlace (replayHeld s p e rest) p e.mb = true := by
  rw [canPlace_iff, replayHeld_mbox]
  refine ⟨?_, rfl, hb, ?_, by simp [replayMailbox]⟩
  · rw [State.halted, replayHeld_prt]; exact hh
  · rw [replayHeld_prt]; exact hc

theorem exec_replayMessagePlace_early (hr : (s.prt p).replay = e :: rest) (h : (s.prt p).retiredTasks < e.count.toNat) :
    exec (.replayMessagePlace p) s = .next s := by
  simp only [exec_replayMessagePlace, execReplayMessagePlace, hr]
  rw [if_neg (by simp; omega)]

theorem exec_replayMessagePlace_placed (hr : (s.prt p).replay = e :: rest) (h : e.count.toNat ≤ (s.prt p).retiredTasks)
    (hx : ((s.prt p).mbox e.mb).busy = false) (hc : canPlace (replayHeld s p e rest) p e.mb = true) :
    exec (.replayMessagePlace p) s = .next (placeMail (replayHeld s p e rest) p e.mb) := by
  simp only [exec_replayMessagePlace, execReplayMessagePlace, hr]
  rw [if_pos (by simp [h, hx])]
  exact if_pos hc
end

/-! ## The statement -/

/-- Settles O52, clause by clause: staging, completion, MBSTAT, the wait for earlier writes, placement, binding, replay. -/
theorem mailboxes : Obligations.Mailboxes := by
  unfold Obligations.Mailboxes
  intro s p m hp hm
  refine ⟨?word, ?complete, ?mbstat, mem_hostWrites s, canPlace_iff s p m, ?place, exec_mailboxTaskPlace_waits,
    fun i v h => exec_mailboxBind_bound hm h, takeBinding_eq, ?early, ?replay⟩
  case word =>
    intro j v hj
    exact ⟨_, exec_mailboxWordWrite_staged hp hm hj v, by simp, by simp, rfl⟩
  case complete =>
    intro v
    refine ⟨_, exec_mailboxMessageComplete_completed hp hm v, rfl, fun hb => ?_, fun hb => ?_⟩
    · simp [completeMail_busy hb]
    · simp only [State.modPart_eq, State.prt_setPart_self, Part.mbox_setMbox_self, completeMail_held hb, mbBind,
        SMap.get_set_self, true_and]
      exact fun j hj => SMap.get_set_ne _ _ _ (by omega)
  case mbstat =>
    intro v
    exact ⟨_, exec_mbstatWrite_cleared hp hm v, by simp [bitOf]⟩
  case place =>
    intro hc
    exact ⟨_, exec_mailboxTaskPlace_placed hm hc, by rw [placeMail_mbox], placeMail_mem s p m, mailItem s p m,
      placeMail_runlist s p m, rfl, rfl, rfl, mailItem_far s p m, fun j hj => mailItem_arg s p m hj⟩
  case early =>
    intro e rest hr _ h
    exact exec_replayMessagePlace_early hr h
  case replay =>
    rintro e rest hr rfl h hx hh hb hc
    have hres : ((replayHeld s p e rest).prt p).resident = (s.prt p).resident := by rw [replayHeld_prt]; rfl
    refine ⟨_, exec_replayMessagePlace_placed hr h hx (canPlace_replayHeld hh hb hc), ?_, ?_,
      mailItem (replayHeld s p e rest) p e.mb, ?_, rfl, fun j hj => ?_⟩
    · rw [placeMail_replay, replayHeld_prt]
    · rw [placeMail_mbox, replayHeld_mbox]; rfl
    · rw [← hres]; exact placeMail_runlist _ p e.mb
    · rw [mailItem_arg _ _ _ hj, replayHeld_mbox, replayMailbox_inbound _ _ _ hj]

end Sys2Proof.Machine
end

section
/-!
PROOFS. Reset and the stages of start-up (R8, R184, R283, R356).
-/
namespace Sys2Proof.Machine

open Sys2Proof

/-! ## The cellar cores' generators at Stage C -/

/-- The generator of each of some cellar cores at its start (R205). -/
def startCellarGens (hs : List Nat) (s : State) : State :=
  hs.foldl (fun s h => s.modCore (homeEp h) (fun c => { c with genX := startX 0#32 (homeEp h) })) s

/-- Only the cores change. -/
theorem startCellarGens_leaves (hs : List Nat) (s : State) : ∃ cs, startCellarGens hs s = { s with cores := cs } := by
  induction hs generalizing s with
  | nil => exact ⟨s.cores, rfl⟩
  | cons h hs ih => exact ih _

/-- A generator that is started, or stands at its start already, has its start afterwards. -/
theorem startCellarGens_genX {hs : List Nat} {h : Nat} {s : State}
    (hh : h ∈ hs ∨ (s.core (homeEp h)).genX = startX 0#32 (homeEp h)) :
    ((startCellarGens hs s).core (homeEp h)).genX = startX 0#32 (homeEp h) := by
  induction hs generalizing s with
  | nil => exact hh.resolve_left List.not_mem_nil
  | cons a hs ih =>
    refine ih (s := s.modCore (homeEp a) (fun c => { c with genX := startX 0#32 (homeEp a) })) ?_
    rw [State.modCore_eq, State.core_setCore]
    by_cases ha : homeEp a = homeEp h
    · rw [if_pos ha, ha]; exact .inr rfl
    · rw [if_neg ha]
      refine hh.imp_left fun hm => (List.mem_cons.mp hm).resolve_left fun he => ha ?_
      rw [he]

theorem get_everyDie (v : Nat) {d : Nat} (hd : d < 4) : SMap.get 0 (everyDie v) d = v := by
  match d, hd with
  | 0, _ => rfl
  | 1, _ => rfl
  | 2, _ => rfl
  | 3, _ => rfl

/-! ## The stages -/

theorem exec_stageB_next {s : State} (hs : s.stage = 1) (hr : s.recovery = false) (failed : List Nat) :
    exec (.stageB failed) s = .next { s with stage := 2, disabled := failed.filter (fun u => decide (u < 2600)) } := by
  rw [exec_stageB, execStageB, if_pos ⟨hs, hr⟩]

/-- Stage C gives the configuration registers of every die and the cellar generators their values, keeps what Stage B has
found failed, empties the ring, and leaves memory. -/
theorem exec_stageC_next {s : State} (hs : s.stage = 2) : ∃ x : State,
    exec .stageC s = .next (startCellarGens (List.range 256) x) ∧ x.stage = 3 ∧ x.disabled = s.disabled ∧
    x.agecap = everyDie 2048 ∧ x.scrubrate = everyDie 1000 ∧ x.imbal = everyDie 8 ∧ x.slots = [] ∧ x.mem = s.mem := by
  rw [exec_stageC, execStageC, if_pos hs]
  exact ⟨_, rfl, rfl, rfl, rfl, rfl, rfl, rfl, rfl⟩

/-- Settles O58: reset has its values by definition, and each stage leaves what its equation says. -/
theorem resetAndStages : Obligations.ResetAndStages := by
  unfold Obligations.ResetAndStages
  refine ⟨reset_memOk, rfl, fun _ => rfl, fun _ => rfl, rfl, rfl, ?reset, ?stageB, ?stageC⟩
  case reset =>
    intro good s
    exact ⟨_, exec_reset good s, rfl, rfl, fun _ => rfl, fun _ => rfl, rfl, rfl, rfl, rfl⟩
  case stageB =>
    intro failed s hs hr
    refine ⟨_, exec_stageB_next hs hr failed, rfl, fun u => ?_⟩
    simp
  case stageC =>
    intro s hs
    obtain ⟨x, hx, hstage, hdis, hage, hscrub, himb, hslots, hmem⟩ := exec_stageC_next hs
    obtain ⟨cs, hcs⟩ := startCellarGens_leaves (List.range 256) x
    refine ⟨_, hx, ?_, ?_, fun d hd => ?_,
      fun h hh => startCellarGens_genX (.inl (List.mem_range.mpr hh)), fun k => ?_, ?_⟩ <;> rw [hcs]
    · exact hstage
    · exact hdis
    · rw [hage, hscrub, himb]
      exact ⟨get_everyDie _ hd, get_everyDie _ hd, get_everyDie _ hd⟩
    · rw [State.slot, hslots]; rfl
    · exact hmem

end Sys2Proof.Machine
end

section
/-!
PROOFS. Compares (R113, R114): what both forms write in every lane, also where the guard fails (R23), and what the two
halves of a pair read as afterwards (R44, R94).
-/
namespace Sys2Proof.Machine

open Sys2Proof

/-! ## What the operands of a compare name -/

@[simp] theorem Uses.matrix_src (a : Src) : (Uses.src a).matrix = false := by cases a <;> rfl
@[simp] theorem Uses.matrix_vsrc (a : VSrc) : (Uses.vsrc a).matrix = false := by
  cases a with
  | reg r => rfl
  | sc a => exact Uses.matrix_src a
@[simp] theorem Uses.matrix_and (u v : Uses) : (u.and v).matrix = (u.matrix || v.matrix) := rfl

@[simp] theorem Uses.groups_src (a : Src) : (Uses.src a).groups = [] := by cases a <;> rfl
@[simp] theorem Uses.groups_and (u v : Uses) : (u.and v).groups = u.groups ++ v.groups := rfl

/-! ## An instruction word whose body runs although its guard fails -/

section
variable {c : Ctl} {lane : Bool} {u : Uses} {body : W32 → Act Ret} {s s' : State} {r : Ret}

/-- The body runs in the state it finds: it is stopped by no interlock and no region, and records no feature. -/
theorem runWord_always (ha : s.me.active = true) (hm : (u.matrix && isCellar (coreOf s.cur)) = false)
    (hv : vregCheck s.me u.groups = none) (hg : guardPasses lane (guardOf s.me c) = false)
    (hb : body (guardOf s.me c) s = .ok (r, s')) :
    runWord c lane true u body s = .next (retire s' r) := by
  have hrun : runBody {} (guardOf s.me c) (body (guardOf s.me c)) s = retire s' r :=
    runBody_ok (by split <;> rfl) (by simp [Thread.owes, Uses.regs]) (by rw [begun_none rfl, hb])
  unfold runWord
  simp only [ha, hm, hv, hg, hrun, Bool.false_and, reduceCtorEq, Bool.false_eq_true, if_false, if_true]

end

/-! ## Scalar compares -/

section
variable {c : Ctl} {cond : Nat → Nat → Bool} {t : Ty} {d : Pair} {a b : Src} {s s1 s2 : State} {x y : Nat}

theorem scalarCompare_ready (h : Ready c false ((Uses.src a).and (Uses.src b)) s)
    (hx : Reads (readSrc t a) (s.begun ((Uses.src a).and (Uses.src b))) x s1) (hy : Reads (readSrc t b) s1 y s2) :
    scalarCompare c cond t d a b s =
      .next (retire (s2.modMe (fun th => setPair th d (broadcast (cond x y)) (broadcast (!cond x y)))) .seq) := by
  have hg : (guardOf s.me c).getLsbD 0 = true := h.guardB
  refine ready_ok h ?_
  rw [if_pos hg, act_bind_ok hx, act_bind_ok hy, act_bind_ok (modMeA_run _ _), act_pure]

theorem scalarCompare_suppressed (ha : s.me.active = true) (hg : (guardOf s.me c).getLsbD 0 = false) :
    scalarCompare c cond t d a b s = .next (retire (s.modMe (fun th => setPair th d 0#32 0#32)) .seq) := by
  refine runWord_always ha (by simp) (by simp [vregCheck]) hg ?_
  rw [if_neg (ne_true_of_eq_false hg), act_bind_ok (modMeA_run _ _), act_pure]

end

/-! ## Vector compares -/

section
variable {c : Ctl} {cond : Nat → Nat → Bool} {t : Ty} {d : Pair} {a b : VSrc} {s s1 s2 : State} {x y : List Nat}

theorem laneCompare_ready (h : Ready c true ((Uses.vsrc a).and (Uses.vsrc b)) s)
    (hx : Reads (readLanes t a) (s.begun ((Uses.vsrc a).and (Uses.vsrc b))) x s1) (hy : Reads (readLanes t b) s1 y s2) :
    laneCompare c cond t d a b s =
      .next (retire (s2.modMe (fun th => setPair th d (guardOf s.me c &&& maskOf 0 (List.zipWith cond x y))
        (guardOf s.me c &&& ~~~maskOf 0 (List.zipWith cond x y)))) .seq) := by
  have hg : (guardOf s.me c != 0#32) = true := h.guardB
  refine ready_ok h ?_
  rw [if_pos hg, act_bind_ok hx, act_bind_ok hy, act_bind_ok (modMeA_run _ _), act_pure]

theorem laneCompare_suppressed (ha : s.me.active = true)
    (hv : vregCheck s.me ((Uses.vsrc a).and (Uses.vsrc b)).groups = none) (hg : guardOf s.me c = 0#32) :
    laneCompare c cond t d a b s = .next (retire (s.modMe (fun th => setPair th d 0#32 0#32)) .seq) := by
  refine runWord_always ha (by simp) hv (by rw [hg]; rfl) ?_
  rw [hg, if_neg (by simp), act_bind_ok (modMeA_run _ _), act_pure]

end

/-! ## Predicates and their LIVE bits (R44, R94) -/

theorem Thread.pred_setPred (t : Thread) (n : Nat) (v : W32) (k : Nat) :
    (t.setPred n v).pred k = if k = 0 then 0xFFFFFFFF#32 else if n = k then v else t.pred k := by
  unfold Thread.setPred Thread.pred
  by_cases hk : k = 0
  · simp only [hk, if_true]
  · by_cases hn : n = 0
    · simp only [hk, hn, if_true, if_false, if_neg (Ne.symm hk)]
    · simp only [hk, hn, if_false, SMap.get_set]

@[simp] theorem Thread.livep_setPred (t : Thread) (n : Nat) (v : W32) : (t.setPred n v).livep = t.livep := by
  unfold Thread.setPred
  split <;> rfl

@[simp] theorem Thread.pred_markLive (t : Thread) (n k : Nat) : (t.markLive n).pred k = t.pred k := by
  unfold Thread.markLive
  split <;> rfl

/-- p0 has no LIVE bit to set. -/
theorem Thread.live_markLive (t : Thread) (n : Nat) {k : Nat} (h1 : 1 ≤ k) (h16 : k < 16) :
    (t.markLive n).livep.getLsbD k = (t.livep.getLsbD k || k == n) := by
  unfold Thread.markLive
  split
  case isTrue hn =>
    have : (k == n) = false := by simp; omega
    rw [this, Bool.or_false]
  case isFalse hn =>
    have : (1#16 <<< n).getLsbD k = (k == n) := by
      rw [BitVec.getLsbD_shiftLeft, BitVec.getLsbD_one, Bool.eq_iff_iff]
      simp only [Bool.and_eq_true, Bool.not_eq_true', decide_eq_true_eq, decide_eq_false_iff_not, beq_iff_eq]
      omega
    rw [BitVec.getLsbD_or, this]

/-! ## A pair written -/

section
variable (t : Thread) (d : Pair) (yes no : W32)

/-- The half written last stands where the two halves are one predicate. -/
theorem pred_setPair (k : Nat) : (setPair t d yes no).pred k =
    if k = 0 then 0xFFFFFFFF#32 else if d.pf.toNat = k then no else if d.pt.toNat = k then yes else t.pred k := by
  simp only [setPair, Thread.pred_markLive, Thread.pred_setPred]
  split <;> rfl

theorem live_setPair {k : Nat} (h1 : 1 ≤ k) (h16 : k < 16) : (setPair t d yes no).livep.getLsbD k =
    (t.livep.getLsbD k || k == d.pt.toNat || k == d.pf.toNat) := by
  simp only [setPair, Thread.live_markLive _ _ h1 h16, Thread.livep_setPred]

end

/-- A predicate other than p0 is no pair with itself (R33). -/
theorem pairOk_self {k : BitVec 4} (h : k ≠ 0) : pairOk ⟨k, k⟩ = false := by
  simp only [pairOk, bne_self_eq_false, Bool.false_or, beq_eq_false_iff_ne]
  exact h

/-! ## The statement -/

/-- Settles O16: both conditions of a form are one compare, executed or suppressed; then the pair it has written. -/
theorem compares : Obligations.Compares := by
  unfold Obligations.Compares
  refine ⟨fun c t d a b s s1 s2 x y => ⟨?scalar, ?scalarSuppressed⟩,
    fun c t d a b s s1 s2 x y => ⟨?lanes, ?lanesSuppressed⟩,
    fun th d yes no hd => ⟨?pt, ?pf, ?others, fun k => live_setPair th d yes no, ?oneHalf⟩⟩
  case scalar =>
    intro h hx hy
    exact ⟨fun k => scalarCompare_ready h hx hy, fun k => scalarCompare_ready h hx hy⟩
  case scalarSuppressed =>
    intro ha hg
    exact ⟨fun k => scalarCompare_suppressed ha hg, fun k => scalarCompare_suppressed ha hg⟩
  case lanes =>
    intro h hx hy
    exact ⟨fun k => laneCompare_ready h hx hy, fun k => laneCompare_ready h hx hy⟩
  case lanesSuppressed =>
    intro ha hv hg
    exact ⟨fun k => laneCompare_suppressed ha hv hg, fun k => laneCompare_suppressed ha hv hg⟩
  case pt =>
    rw [pred_setPair]
    by_cases h0 : d.pt = 0
    · rw [if_pos h0, if_pos (by rw [h0]; rfl)]
    · have hz : d.pt.toNat ≠ 0 := fun h => h0 (BitVec.eq_of_toNat_eq h)
      have hne : d.pf.toNat ≠ d.pt.toNat := fun h => h0 (hd (BitVec.eq_of_toNat_eq h.symm))
      rw [if_neg h0, if_neg hz, if_neg hne, if_pos rfl]
  case pf =>
    rw [pred_setPair]
    by_cases h0 : d.pf = 0
    · rw [if_pos h0, if_pos (by rw [h0]; rfl)]
    · have hz : d.pf.toNat ≠ 0 := fun h => h0 (BitVec.eq_of_toNat_eq h)
      rw [if_neg h0, if_neg hz, if_pos rfl]
  case others =>
    intro k ht hf
    rw [pred_setPair, if_neg hf.symm, if_neg ht.symm]
    by_cases h0 : k = 0 <;> simp [h0, Thread.pred]
  case oneHalf =>
    intro k c x y t a b u v hk
    simp only [Instr.wellFormed, pairOk_self hk, Bool.and_false, and_self]

end Sys2Proof.Machine
end

section
/-!
PROOFS. Predicates as registers: p0 and the others, written and read (R94).
-/
namespace Sys2Proof.Machine

open Sys2Proof

@[simp] theorem Thread.pred_zero (t : Thread) : t.pred 0 = 0xFFFFFFFF#32 := rfl
@[simp] theorem Thread.setPred_zero (t : Thread) (v : W32) : t.setPred 0 v = t := rfl

theorem Thread.pred_setPred_self (t : Thread) {n : Nat} (h : n ≠ 0) (v : W32) : (t.setPred n v).pred n = v := by
  rw [Thread.pred_setPred, if_neg h, if_pos rfl]

theorem Thread.pred_setPred_ne (t : Thread) {n m : Nat} (h : m ≠ n) (v : W32) : (t.setPred n v).pred m = t.pred m := by
  rw [Thread.pred_setPred, if_neg h.symm]
  split
  case isTrue h0 => rw [h0, Thread.pred_zero]
  case isFalse => rfl

theorem sysRead_livep (s : State) : sysRead s 0x006 = s.me.livep.setWidth 64 := rfl

/-- Settles O15: each clause is one law of the predicates, or the reading of LIVEP. -/
theorem predicateRegisters : Obligations.PredicateRegisters := by
  unfold Obligations.PredicateRegisters
  intro t n m v s
  have hones : (t.setPred n v).pred 0 = 0xFFFFFFFF#32 := Thread.pred_zero _
  exact ⟨hones, fun h => Thread.pred_setPred_self t h v, fun h => Thread.pred_setPred_ne t h v,
    Thread.setPred_zero t v, sysRead_livep s⟩

end Sys2Proof.Machine
end

section
/-!
PROOFS. A chosen record starts on its slot (R89, R93, R95, R189, R331).
-/
namespace Sys2Proof.Machine

open Sys2Proof

/-! ## The registers of a task at its start -/

/-- The values of `g0` to `g15` (R93), in order. -/
def startVals (pt : Part) (c slot : Nat) (a : Start) (starts : W32) : List W64 :=
  [w64 (if isCellar c then coreX c else tileX c - pt.x0), w64 (if isCellar c then coreY c else tileY c - pt.y0),
   w64 a.part, w64 slot, w64 a.g4, w64 a.g5, w64 a.g6, w64 a.g7, a.g8, a.g9, (hdrTag a.header).setWidth 64,
   w64 (if isCellar c then 1 else 0), w64 pt.w, w64 pt.h, w64 (pt.coreIndex c * 2 ^ 32 + starts.toNat), w64 a.gran]

section
variable (pt : Part) (t : Nat) (a : Start) (n : W32)

theorem startThread_gReg (j : Nat) : (startThread pt t a n).gReg j =
    if j < 16 then (startVals pt (coreOf t) (slotOf t) a n).getD j 0#64 else 0#64 :=
  SMap.get_foldl_range (fun j => (startVals pt (coreOf t) (slotOf t) a n).getD j 0#64) 16 [] j

/-- The frame of a task at its start is frame 0 of an empty stack, but for the arguments. -/
theorem startThread_w {j : Nat} (hj : j < 32) : (startThread pt t a n).w j =
    if j < 8 then a.args.getD j 0#64 else 0#64 := by
  have he : stkIndex 0 j = j := by unfold stkIndex; omega
  have hw : (startThread pt t a n).w j = SMap.get 0#64 (argStack a.args) (stkIndex 0 j) := rfl
  rw [hw, he]
  exact SMap.get_foldl_range (fun j => a.args.getD j 0#64) 8 [] j

/-- A start reads nothing of its partition's mailboxes. -/
theorem startThread_setMbox (m : Nat) (x : Mailbox) : startThread (pt.setMbox m x) t a n = startThread pt t a n := rfl

end

section
variable (k : TKind) (p : Nat) (r : Rec) (g4 g5 g6 g7 : Nat) (live : Option LiveIn)

theorem startOf_args {j : Nat} (hj : j < 8) : (startOf k p r g4 g5 g6 g7 live).args.getD j 0#64 =
    if j ≤ hdrArgc (Rec.header r) then Rec.arg r j else 0#64 := by
  simp [startOf, List.getD_eq_getElem?_getD, hj]

end

/-! ## What a start leaves -/

section
variable {s s' : State} {t p : Nat} {r : Rec} {k : TKind} {g4 g5 g6 g7 : Nat} {live : Option LiveIn}

/-- A state whose thread is that of a start, and which is otherwise as it was but for the core's start count, is one in
which the task has started. -/
theorem startedAs_of_startThread
    (ht : s'.thr t = startThread (s.prt p) t (startOf k p r g4 g5 g6 g7 live) (s.core (coreOf t)).starts)
    (hstarts : (s'.core (coreOf t)).starts = (s.core (coreOf t)).starts + 1#32) (hmem : s'.mem = s.mem)
    (hothers : ∀ u, u ≠ t → s'.thr u = s.thr u) : s.startedAs s' t p r [g4, g5, g6, g7] := by
  unfold State.startedAs
  simp only [ht]
  refine ⟨rfl, rfl, rfl, rfl, rfl, rfl, rfl, rfl, fun _ => rfl, fun _ => rfl, rfl, fun _ => rfl, rfl, rfl, rfl, rfl, rfl,
    rfl, rfl, ?place, startThread_gReg _ _ _ _ 2, startThread_gReg _ _ _ _ 3, ?rect, startThread_gReg _ _ _ _ 11,
    startThread_gReg _ _ _ _ 12, startThread_gReg _ _ _ _ 13, startThread_gReg _ _ _ _ 14, startThread_gReg _ _ _ _ 15,
    ?noMore, rfl, rfl, rfl, rfl, rfl, rfl, rfl, rfl, rfl, rfl, rfl, rfl, rfl, ?args, ?noArgs, startThread_gReg _ _ _ _ 8,
    startThread_gReg _ _ _ _ 9, startThread_gReg _ _ _ _ 10, rfl, rfl, rfl, rfl, rfl, hstarts, hmem, hothers⟩
  case place =>
    intro j hj
    rw [startThread_gReg, if_pos (by omega)]
    match j, hj with
    | 0, _ => cases hc : isCellar (coreOf t) <;> simp [startVals, coreX, hc]
    | 1, _ => cases hc : isCellar (coreOf t) <;> simp [startVals, coreY, hc]
  case rect =>
    intro j hj
    rw [startThread_gReg, if_pos (by omega)]
    match j, hj with
    | 0, _ | 1, _ | 2, _ | 3, _ => rfl
  case noMore =>
    intro j hj
    rw [startThread_gReg, if_neg (by omega)]
  case args =>
    intro j hj
    rw [startThread_w _ _ _ _ (by omega), if_pos hj, startOf_args _ _ _ _ _ _ _ _ hj]
  case noArgs =>
    intro j h8 h32
    rw [startThread_w _ _ _ _ h32, if_neg (by omega)]

@[simp] theorem startTask_prt (a : Start) (q : Nat) : (startTask s t a).prt q = s.prt q := rfl

theorem startTask_thr (a : Start) (u : Nat) : (startTask s t a).thr u =
    if t = u then startThread (s.prt a.part) t a (s.core (coreOf t)).starts else s.thr u := by
  unfold startTask
  rw [State.thr_setCore, State.thr_setThr]

theorem startTask_starts (a : Start) :
    ((startTask s t a).core (coreOf t)).starts = (s.core (coreOf t)).starts + 1#32 := by
  unfold startTask
  rw [State.core_setCore_self]

end

/-! ## The event -/

/-- The state without a run-list entry that was about to start on a slot. -/
def takeStarting (s : State) (t : Nat) : State :=
  s.setCore (coreOf t) { s.core (coreOf t) with
    starting := (s.core (coreOf t)).starting.filter (fun x => x.1 != slotOf t) }

/-- The state without a granted record that was about to start on a slot. -/
def takeGranted (s : State) (t : Nat) : State :=
  s.setCore (coreOf t) { s.core (coreOf t) with
    granted := (s.core (coreOf t)).granted.filter (fun x => x.1 != slotOf t) }

section
variable {s : State} {t p : Nat} {r : Rec}

@[simp] theorem takeStarting_starts : ((takeStarting s t).core (coreOf t)).starts = (s.core (coreOf t)).starts := by
  unfold takeStarting; rw [State.core_setCore_self]
@[simp] theorem takeGranted_starts : ((takeGranted s t).core (coreOf t)).starts = (s.core (coreOf t)).starts := by
  unfold takeGranted; rw [State.core_setCore_self]

theorem exec_taskStart_starting (hf : (s.thr t).active = false) {x : Nat} {it : RunItem}
    (hi : (s.core (coreOf t)).starting.find? (fun x => x.1 == slotOf t) = some (x, it))
    (hg : hdrGran (Rec.header it.inst.recd) ≤ granulesLeft s (coreOf t))
    (hd : dispatches s (coreOf t) it.inst.part = true) :
    exec (.taskStart t) s = .next (startItem (takeStarting s t) t it) := by
  rw [exec_taskStart, execTaskStart]
  simp only [hf, hi, Bool.false_eq_true, if_false, if_pos (And.intro hg hd)]
  rfl

theorem exec_taskStart_granted (hf : (s.thr t).active = false) {x q : Nat} {live : Option LiveIn}
    (hn : (s.core (coreOf t)).starting.find? (fun x => x.1 == slotOf t) = none)
    (hi : (s.core (coreOf t)).granted.find? (fun x => x.1 == slotOf t) = some (x, r, q, live))
    (hp : grantedPart s (coreOf t) live = some p)
    (hg : hdrGran (Rec.header r) ≤ granulesLeft s (coreOf t)) (hd : dispatches s (coreOf t) p = true) :
    exec (.taskStart t) s = .next (startGranted (takeGranted s t) t p r live) := by
  rw [exec_taskStart, execTaskStart]
  simp only [hf, hn, hi, hp, Bool.false_eq_true, if_false, if_pos (And.intro hg hd)]
  rfl

/-! ## The state that each start leaves -/

theorem startItem_startedAs (it : RunItem) : s.startedAs (startItem (takeStarting s t) t it) t it.inst.part it.inst.recd
    [it.inst.g4, it.inst.g5, it.inst.g6, it.inst.g7] := by
  unfold startItem
  cases it.mail with
  | none =>
    exact startedAs_of_startThread ((startTask_thr _ t).trans (by rw [if_pos rfl, takeStarting_starts]; rfl))
      ((startTask_starts _).trans (by rw [takeStarting_starts])) rfl
      fun u hu => (startTask_thr _ u).trans (if_neg hu.symm)
  | some m =>
    refine startedAs_of_startThread (k := .mail) (live := none) ((startTask_thr _ t).trans ?_)
      ((startTask_starts _).trans ?_) rfl fun u hu => (startTask_thr _ u).trans (if_neg hu.symm)
    · rw [if_pos rfl, State.modPart_eq, State.core_setPart, takeStarting_starts]
      exact (congrArg (startThread · t _ _) (State.prt_setPart_self _ _ _)).trans (startThread_setMbox _ _ _ _ _ _)
    · rw [State.modPart_eq, State.core_setPart, takeStarting_starts]

theorem startItem_ip (it : RunItem) : ((startItem s t it).thr t).ip = align4 (Rec.far it.inst.recd) := by
  unfold startItem
  cases it.mail <;> exact congrArg Thread.ip ((startTask_thr _ t).trans (if_pos rfl))

/-- The mailbox of a message that starts is free (R355). -/
theorem startItem_busy {it : RunItem} {m : Nat} (hm : it.mail = some m) :
    (((startItem s t it).prt it.inst.part).mbox m).busy = false := by
  unfold startItem
  rw [hm]
  simp

theorem startGranted_startedAs (live : Option LiveIn) :
    s.startedAs (startGranted (takeGranted s t) t p r live) t p r [0, 0, 1, 1] := by
  unfold startGranted
  cases live <;>
    exact startedAs_of_startThread ((startTask_thr _ t).trans (by rw [if_pos rfl, takeGranted_starts]; rfl))
      ((startTask_starts _).trans (by rw [takeGranted_starts])) rfl
      fun u hu => (startTask_thr _ u).trans (if_neg hu.symm)

theorem startGranted_ip_far : ((startGranted s t p r none).thr t).ip = align4 (Rec.far r) :=
  congrArg Thread.ip ((startTask_thr _ t).trans (if_pos rfl))

theorem startGranted_ip_near (l : LiveIn) : ((startGranted s t p r (some l)).thr t).ip = align4 (Rec.near r) :=
  congrArg Thread.ip ((startTask_thr _ t).trans (if_pos rfl))

end

/-- Settles O51: a run-list entry, a near take and a steal's grant are each one start, on the thread of R89. -/
theorem tasksStart : Obligations.TasksStart := by
  unfold Obligations.TasksStart
  intro s t p r c y hf hg hd
  refine ⟨?starting, ?near, ?far⟩
  case starting =>
    rintro it hi rfl rfl
    exact ⟨_, exec_taskStart_starting hf hi hg hd, startItem_startedAs it, startItem_ip it, fun m => startItem_busy⟩
  case near =>
    rintro q l hn hi rfl
    exact ⟨_, exec_taskStart_granted hf hn hi rfl hg hd, startGranted_startedAs _, startGranted_ip_near l⟩
  case far =>
    intro q hn hp hi
    exact ⟨_, exec_taskStart_granted hf hn hi hp hg hd, startGranted_startedAs _, startGranted_ip_far⟩

end Sys2Proof.Machine
end

section
/-!
PROOFS. Barriers: arrivals, the completion of a generation, waits, `barcfg`, the watchdog and refused operands (R103,
R104, R125, R126).
-/
namespace Sys2Proof.Machine

open Sys2Proof

/-! ## The barriers of a core -/

@[simp] theorem Core.bar_setBar_self (c : Core) (n : Nat) (x : Bar) : (c.setBar n x).bar n = x := SMap.get_set_self _ _ _ _
theorem Core.bar_setBar_ne (c : Core) {n k : Nat} (x : Bar) (h : k ≠ n) : (c.setBar n x).bar k = c.bar k :=
  SMap.get_set_ne _ _ _ h.symm

theorem State.barSet_modCore_setBar (s : State) (c n : Nat) (x : Bar) (d : Nat) :
    (s.modCore c (fun k => k.setBar n x)).barSet d = s.barSet d := by
  unfold State.barSet
  rw [State.modCore_eq, State.core_setCore]
  by_cases h : c = d
  · rw [if_pos h, h]; rfl
  · rw [if_neg h]

theorem State.coreThreads_congr {s s' : State} (h : ∀ t, (s'.thr t).active = (s.thr t).active) (c : Nat) :
    s'.coreThreads c = s.coreThreads c := by
  simp only [State.coreThreads, h]

/-! ## DONE in a record -/

/-- A record with DONE set where it names generation `gen` of barrier `b` of a set (R103). -/
def BarRec.hit (set b : Nat) (gen : BitVec 8) (r : BarRec) : BarRec :=
  if r.valid = true ∧ r.bar = b ∧ r.gen = gen ∧ r.set = set then { r with done := true } else r

theorem barHit_eq (set b : Nat) (gen : BitVec 8) (t : Thread) :
    barHit set b gen t = { t with bar := t.bar.hit set b gen } := by
  unfold barHit BarRec.hit
  simp only [Bool.and_eq_true, beq_iff_eq, and_assoc]
  split <;> rfl

/-! ## Waiters that go on -/

theorem barWake_waiting {t : Thread} {m w : Nat} {g : W32} (h : t.wait = .bar m w g) (b : Nat) :
    (barWake b t).wait = if m = b then .barDone b else .bar m w g := by
  unfold barWake
  rw [h]
  dsimp only
  split
  · rfl
  · exact h

theorem barWake_barWake (b : Nat) (t : Thread) : barWake b (barWake b t) = barWake b t := by
  cases h : t.wait with
  | bar m w g =>
    by_cases hm : m = b
    · have hw : barWake b t = { t with wait := .barDone b } := by unfold barWake; rw [h]; exact if_pos hm
      rw [hw]; rfl
    · have hw : barWake b t = t := by unfold barWake; rw [h]; exact if_neg hm
      rw [hw, hw]
  | _ =>
    have hw : barWake b t = t := by unfold barWake; rw [h]
    rw [hw, hw]

/-- Only the threads change. -/
theorem foldl_wake_leaves (b : Nat) (ts : List Nat) (s : State) :
    ∃ ths, ts.foldl (fun s t => s.modThr t (barWake b)) s = { s with threads := ths } := by
  induction ts generalizing s with
  | nil => exact ⟨s.threads, rfl⟩
  | cons t ts ih => exact ih _

theorem foldl_wake_thr (b k : Nat) (ts : List Nat) (s : State) :
    (ts.foldl (fun s t => s.modThr t (barWake b)) s).thr k = if k ∈ ts then barWake b (s.thr k) else s.thr k := by
  induction ts generalizing s with
  | nil => rfl
  | cons t ts ih =>
    rw [List.foldl_cons, ih, State.modThr_eq, State.thr_setThr]
    by_cases ht : t = k
    · subst ht
      rw [if_pos rfl, barWake_barWake, if_pos List.mem_cons_self, ite_self]
    · rw [if_neg ht]
      simp only [List.mem_cons, Ne.symm ht, false_or]

/-! ## The completion of a generation (R103) -/

/-- The state with DONE set in every record of the generation in progress at a barrier. -/
def barRecordsDone (s : State) (c b : Nat) : State :=
  { s with
    saved := s.saved.map (fun (y : SavedCtx) => { y with thread := barHit (s.barSet c) b ((s.core c).bar b).gen y.thread })
    threads := s.threads.map (fun (e : Nat × Thread) => (e.1, barHit (s.barSet c) b ((s.core c).bar b).gen e.2)) }

section
variable (s : State) (c b : Nat)

theorem barRecordsDone_thr (k : Nat) : (barRecordsDone s c b).thr k =
    { s.thr k with bar := (s.thr k).bar.hit (s.barSet c) b ((s.core c).bar b).gen } :=
  (SMap.get_map Thread.free _ (barHit_free _ _ _) s.threads k).trans (barHit_eq _ _ _ _)

theorem barRecordsDone_active (k : Nat) : ((barRecordsDone s c b).thr k).active = (s.thr k).active := by
  rw [barRecordsDone_thr]

theorem barComplete_eq : barComplete s c b =
    (s.coreThreads c).foldl (fun s t => s.modThr t (barWake b)) ((barRecordsDone s c b).modCore c
      (fun k => k.setBar b { (s.core c).bar b with arr := 0, gen := ((s.core c).bar b).gen + 1#8 })) := by
  have hc : ((barRecordsDone s c b).modCore c (fun k => k.setBar b { (s.core c).bar b with
      arr := 0, gen := ((s.core c).bar b).gen + 1#8 })).coreThreads c = s.coreThreads c :=
    State.coreThreads_congr (barRecordsDone_active s c b) c
  rw [← hc]
  rfl

/-- Every record of the generation has DONE, and the waiters of the core go on. -/
theorem barComplete_thr (k : Nat) : (barComplete s c b).thr k =
    if k ∈ s.coreThreads c then barWake b ((barRecordsDone s c b).thr k) else (barRecordsDone s c b).thr k := by
  rw [barComplete_eq, foldl_wake_thr]
  rfl

theorem barComplete_leaves : ∃ ths, barComplete s c b =
    { (barRecordsDone s c b).modCore c (fun k => k.setBar b { (s.core c).bar b with
        arr := 0, gen := ((s.core c).bar b).gen + 1#8 }) with threads := ths } := by
  rw [barComplete_eq]
  exact foldl_wake_leaves _ _ _

theorem barComplete_core : (barComplete s c b).core c =
    (s.core c).setBar b { (s.core c).bar b with arr := 0, gen := ((s.core c).bar b).gen + 1#8 } := by
  obtain ⟨ths, h⟩ := barComplete_leaves s c b
  rw [h]
  exact State.core_setCore_self _ _ _

theorem barComplete_bar_self : ((barComplete s c b).core c).bar b =
    { (s.core c).bar b with arr := 0, gen := ((s.core c).bar b).gen + 1#8 } := by
  rw [barComplete_core, Core.bar_setBar_self]

theorem barComplete_bar_ne {k : Nat} (h : k ≠ b) : ((barComplete s c b).core c).bar k = (s.core c).bar k := by
  rw [barComplete_core, Core.bar_setBar_ne _ _ h]

theorem barComplete_saved : (barComplete s c b).saved.map (fun y => y.thread.bar) =
    s.saved.map (fun y => y.thread.bar.hit (s.barSet c) b ((s.core c).bar b).gen) := by
  obtain ⟨ths, h⟩ := barComplete_leaves s c b
  rw [h]
  refine (List.map_map ..).trans (List.map_congr_left fun y _ => ?_)
  exact congrArg Thread.bar (barHit_eq _ _ _ _)

theorem barComplete_mem : (barComplete s c b).mem = s.mem := by
  obtain ⟨ths, h⟩ := barComplete_leaves s c b
  rw [h]; rfl
theorem barComplete_net : (barComplete s c b).net = s.net := by
  obtain ⟨ths, h⟩ := barComplete_leaves s c b
  rw [h]; rfl
theorem barComplete_cur : (barComplete s c b).cur = s.cur := by
  obtain ⟨ths, h⟩ := barComplete_leaves s c b
  rw [h]; rfl

/-- The record of every thread, as `BarRec.hit` says it. -/
theorem barComplete_hit (k : Nat) : ((barComplete s c b).thr k).bar =
    (s.thr k).bar.hit (s.barSet c) b ((s.core c).bar b).gen := by
  rw [barComplete_record, barHit_eq]

end

/-! ## Arrivals (R103) -/

/-- The state in which an arrival has been counted and recorded. -/
def barCounted (s : State) (t b : Nat) : State :=
  (s.modThr t (fun y => { y with
      bar := ⟨true, b, ((s.core (coreOf t)).bar b).gen, false, s.barSet (coreOf t)⟩ })).modCore (coreOf t)
    (fun k => k.setBar b { (s.core (coreOf t)).bar b with arr := ((s.core (coreOf t)).bar b).arr + 1 })

section
variable {s : State} {t b : Nat}

theorem barArrive_inert (h : ((s.core (coreOf t)).bar b).count = 0) : barArrive s t b = s := by
  unfold barArrive
  exact if_pos h

theorem barArrive_counts (h : ((s.core (coreOf t)).bar b).arr + 1 < ((s.core (coreOf t)).bar b).count) :
    barArrive s t b = barCounted s t b := by
  unfold barArrive
  simp only [if_neg (Nat.ne_zero_of_lt h), if_neg (Nat.not_le.mpr h)]
  rfl

theorem barArrive_completes (h0 : ((s.core (coreOf t)).bar b).count ≠ 0)
    (h : ((s.core (coreOf t)).bar b).count ≤ ((s.core (coreOf t)).bar b).arr + 1) :
    barArrive s t b = barComplete (barCounted s t b) (coreOf t) b := by
  unfold barArrive
  simp only [if_neg h0, if_pos h]
  rfl

theorem barCounted_bar : ((barCounted s t b).core (coreOf t)).bar b =
    { (s.core (coreOf t)).bar b with arr := ((s.core (coreOf t)).bar b).arr + 1 } := by
  unfold barCounted
  rw [State.modCore_eq, State.core_setCore_self, Core.bar_setBar_self]

theorem barCounted_record : ((barCounted s t b).thr t).bar =
    ⟨true, b, ((s.core (coreOf t)).bar b).gen, false, s.barSet (coreOf t)⟩ := by
  unfold barCounted
  rw [State.modCore_eq, State.thr_setCore, State.modThr_eq, State.thr_setThr_self]

theorem barCounted_barSet (d : Nat) : (barCounted s t b).barSet d = s.barSet d :=
  State.barSet_modCore_setBar _ _ _ _ _

/-- An arrival that completes its generation has DONE in its own record. -/
theorem barComplete_barCounted_record : ((barComplete (barCounted s t b) (coreOf t) b).thr t).bar =
    ⟨true, b, ((s.core (coreOf t)).bar b).gen, true, s.barSet (coreOf t)⟩ := by
  rw [barComplete_hit, barCounted_record, barCounted_bar, barCounted_barSet]
  exact if_pos ⟨rfl, rfl, rfl, rfl⟩

end

/-! ## Instructions whose body begins with the barrier's number (R125) -/

@[simp] theorem Uses.feats_wi (x : WI) : (Uses.wi x).feats = [] := by cases x <;> rfl
@[simp] theorem Uses.feats_and (u v : Uses) : (u.and v).feats = u.feats ++ v.feats := rfl

theorem readLimit_trap {op fn wher lim : Nat} {r : BitVec 5} {s : State} (h : lim < (s.me.w r.toNat).toNat) :
    readLimit op fn wher lim (.w r) s =
      .error (.trap (fun s => s) 0x01 (fun _ => illegalTval (wField r) fn op wher 5)) := by
  simp only [readLimit, act_bind, getMe_run, if_neg (Nat.not_le.mpr h)]
  rfl

/-- A scalar instruction's body does not ask for the guard's result. -/
theorem runScalar_eq (c : Ctl) (u : Uses) (body : Act Ret) (s : State) :
    runScalar c u body s = runWord c false false u (fun _ => body) s := rfl

section
variable {c : Ctl} {b : WI} {s s' : State} {i : Instr} {op fn : Nat} {k : W32 → Nat → Act Ret} {r : Ret}

theorem exec_bar_ok (e : exec i s = runWord c false false (Uses.wi b) (fun g => barNum op fn b >>= k g) s)
    (h : Ready c false (Uses.wi b) s) (hb : wiWithin s.me 127 b)
    (hk : k (guardOf s.me c) (wiNat s.me b) s = .ok (r, s')) : exec i s = .next (retire s' r) := by
  refine exec_ok e h ?_
  rw [begun_none (Uses.feats_wi b), barNum, act_bind_ok (readLimit_run hb), hk]

theorem exec_bar_block (e : exec i s = runWord c false false (Uses.wi b) (fun g => barNum op fn b >>= k g) s)
    (h : Ready c false (Uses.wi b) s) (hb : wiWithin s.me 127 b) {fix : State → State}
    (hk : k (guardOf s.me c) (wiNat s.me b) s = .error (.block fix)) : exec i s = .next (fix s) := by
  refine exec_block e h ?_
  rw [begun_none (Uses.feats_wi b), barNum, act_bind_ok (readLimit_run hb), hk]

theorem exec_bar_refused {r : BitVec 5}
    (e : exec i s = runWord c false false (Uses.wi (.w r)) (fun g => barNum op fn (.w r) >>= k g) s)
    (h : Ready c false (Uses.w r) s) (hr : 127 < (s.me.w r.toNat).toNat) :
    exec i s = .next (s.trapped c 0x01 (illegalTval (wField r) fn op 1 5)) := by
  refine exec_trap e h (fix := fun s => s) (tval := fun _ => illegalTval (wField r) fn op 1 5) ?_
  rw [begun_none rfl, barNum, act_bind_error (readLimit_trap hr)]

end

/-! ## `bar.arr` -/

section
variable {c : Ctl} {b : WI} {s : State}

theorem waitArrive_run {n : Nat}
    (h : ((s.core (coreOf s.cur)).bar n).count = 0 ∨ s.fencesOver s.cur allPaths = true) :
    waitArrive n s = .ok ((), s) := by
  unfold waitArrive
  rw [act_bind_ok (act_get s)]
  by_cases h0 : ((s.core (coreOf s.cur)).bar n).count = 0
  · rw [if_pos h0, act_pure]
  · rw [if_neg h0, waitFences_run (h.resolve_left h0)]

theorem waitArrive_blocks {n : Nat} (h0 : ((s.core (coreOf s.cur)).bar n).count ≠ 0)
    (h : s.fencesOver s.cur allPaths = false) : waitArrive n s = .error (.block (fun s => s)) := by
  unfold waitArrive
  rw [act_bind_ok (act_get s), if_neg h0, waitFences_blocks h]

theorem exec_barArr_arrives (h : Ready c false (Uses.wi b) s) (hb : wiWithin s.me 127 b)
    (hf : ((s.core (coreOf s.cur)).bar (wiNat s.me b)).count = 0 ∨ s.fencesOver s.cur allPaths = true) :
    exec (.barArr c b) s = .next (retire (barArrive s s.cur (wiNat s.me b)) .seq) := by
  refine exec_bar_ok ((exec_barArr c b s).trans (runScalar_eq ..)) h hb ?_
  rw [act_bind_ok (waitArrive_run hf), act_bind_ok (act_modify _ _), act_pure]

theorem exec_barArr_fenced (h : Ready c false (Uses.wi b) s) (hb : wiWithin s.me 127 b)
    (h0 : ((s.core (coreOf s.cur)).bar (wiNat s.me b)).count ≠ 0) (hf : s.fencesOver s.cur allPaths = false) :
    exec (.barArr c b) s = .next s := by
  refine exec_bar_block ((exec_barArr c b s).trans (runScalar_eq ..)) h hb (fix := fun s => s) ?_
  rw [act_bind_error (waitArrive_blocks h0 hf)]

/-! ## `bar.wait` and `bar.sync`, as they begin -/

theorem exec_barWait_passes (h : Ready c false (Uses.wi b) s) (hb : wiWithin s.me 127 b) (hw : s.me.wait = .none)
    (hd : barRecDone s.me (wiNat s.me b) = true ∨ ((s.core (coreOf s.cur)).bar (wiNat s.me b)).count = 0) :
    exec (.barWait c b) s = .next (retire s .seq) := by
  refine exec_bar_ok (exec_barWait c b s) h hb ?_
  rw [act_bind_ok (act_get s)]
  simp only [hw, Bool.or_eq_true, beq_iff_eq, if_pos hd, act_pure]

theorem exec_barWait_waits (h : Ready c false (Uses.wi b) s) (hb : wiWithin s.me 127 b) (hw : s.me.wait = .none)
    (hd : barRecDone s.me (wiNat s.me b) = false) (h0 : ((s.core (coreOf s.cur)).bar (wiNat s.me b)).count ≠ 0) :
    exec (.barWait c b) s = .next (barWaitFix (wiNat s.me b) (guardOf s.me c) s) := by
  refine exec_bar_block (exec_barWait c b s) h hb ?_
  rw [act_bind_ok (act_get s)]
  simp only [hw, hd, Bool.false_or, beq_iff_eq, if_neg h0, blockWith_run]

theorem exec_barSync_inert (h : Ready c false (Uses.wi b) s) (hb : wiWithin s.me 127 b) (hw : s.me.wait = .none)
    (h0 : ((s.core (coreOf s.cur)).bar (wiNat s.me b)).count = 0) :
    exec (.barSync c b) s = .next (retire s .seq) := by
  refine exec_bar_ok (exec_barSync c b s) h hb ?_
  rw [act_bind_ok (act_get s)]
  simp only [hw, if_pos h0, act_pure]

section
variable (h : Ready c false (Uses.wi b) s) (hb : wiWithin s.me 127 b) (hw : s.me.wait = .none)
  (h0 : ((s.core (coreOf s.cur)).bar (wiNat s.me b)).count ≠ 0)
include h hb hw h0

theorem exec_barSync_stands_passes (hs : barStands s (wiNat s.me b) = true)
    (hd : barRecDone s.me (wiNat s.me b) = true) : exec (.barSync c b) s = .next (retire s .seq) := by
  refine exec_bar_ok (exec_barSync c b s) h hb ?_
  rw [act_bind_ok (act_get s)]
  simp only [hw, if_neg h0, if_pos hs, if_pos hd, act_pure]

theorem exec_barSync_stands_waits (hs : barStands s (wiNat s.me b) = true)
    (hd : barRecDone s.me (wiNat s.me b) = false) :
    exec (.barSync c b) s = .next (barWaitFix (wiNat s.me b) (guardOf s.me c) s) := by
  refine exec_bar_block (exec_barSync c b s) h hb ?_
  rw [act_bind_ok (act_get s)]
  simp only [hw, if_neg h0, if_pos hs, hd, Bool.false_eq_true, if_false, blockWith_run]

theorem exec_barSync_arrives_passes (hs : barStands s (wiNat s.me b) ≠ true) (hf : s.fencesOver s.cur allPaths = true)
    (hd : barRecDone (syncArrive (wiNat s.me b) s).me (wiNat s.me b) = true) :
    exec (.barSync c b) s = .next (retire (syncArrive (wiNat s.me b) s) .seq) := by
  refine exec_bar_ok (exec_barSync c b s) h hb ?_
  rw [act_bind_ok (act_get s)]
  simp only [hw, if_neg h0, if_neg hs, act_bind, waitFences_run hf, if_pos hd, act_set, act_pure]

theorem exec_barSync_arrives_waits (hs : barStands s (wiNat s.me b) ≠ true) (hf : s.fencesOver s.cur allPaths = true)
    (hd : barRecDone (syncArrive (wiNat s.me b) s).me (wiNat s.me b) = false) :
    exec (.barSync c b) s =
      .next (barWaitFix (wiNat s.me b) (guardOf s.me c) (syncArrive (wiNat s.me b) s)) := by
  refine exec_bar_block (exec_barSync c b s) h hb
    (fix := fun x => barWaitFix (wiNat s.me b) (guardOf s.me c) (syncArrive (wiNat s.me b) x)) ?_
  rw [act_bind_ok (act_get s)]
  simp only [hw, if_neg h0, if_neg hs, act_bind, waitFences_run hf, hd, Bool.false_eq_true, if_false, blockWith_run]

theorem exec_barSync_fenced (hs : barStands s (wiNat s.me b) ≠ true) (hf : s.fencesOver s.cur allPaths = false) :
    exec (.barSync c b) s = .next s := by
  refine exec_bar_block (exec_barSync c b s) h hb (fix := fun s => s) ?_
  rw [act_bind_ok (act_get s)]
  simp only [hw, if_neg h0, if_neg hs, act_bind, waitFences_blocks hf]

end

/-- An arrival stands where its barrier and GEN are the record's, in progress or completed (R104). -/
theorem barStands_iff (s : State) (n : Nat) : barStands s n = true ↔
    s.me.restarted = true ∧ s.me.syncRec = some (n, s.me.bar.gen, s.me.ip) ∧ s.me.bar.valid = true ∧ s.me.bar.bar = n ∧
      (s.me.bar.done = true ∨ (s.me.bar.set = s.barSet (coreOf s.cur) ∧
        s.me.bar.gen = ((s.core (coreOf s.cur)).bar n).gen)) := by
  simp only [barStands, Bool.and_eq_true, Bool.or_eq_true, beq_iff_eq, and_assoc]

/-- The record of an arrival that stands is done where its DONE is set. -/
theorem barRecDone_of_stands {n : Nat} (h : barStands s n = true) : barRecDone s.me n = s.me.bar.done := by
  obtain ⟨-, -, hv, hn, -⟩ := (barStands_iff s n).mp h
  simp only [barRecDone, hv, hn, beq_self_eq_true, Bool.true_and]

/-! ## `bar.wait` and `bar.sync`, once they wait -/

theorem exec_barWait_released (h : Ready c false (Uses.wi b) s) (hb : wiWithin s.me 127 b) {k : Nat}
    (hw : s.me.wait = .barDone k) : exec (.barWait c b) s = .next (retire s .seq) := by
  refine exec_bar_ok (exec_barWait c b s) h hb ?_
  rw [act_bind_ok (act_get s)]
  simp only [hw, act_pure]

theorem exec_barSync_released (h : Ready c false (Uses.wi b) s) (hb : wiWithin s.me 127 b) {k : Nat}
    (hw : s.me.wait = .barDone k) : exec (.barSync c b) s = .next (retire s .seq) := by
  refine exec_bar_ok (exec_barSync c b s) h hb ?_
  rw [act_bind_ok (act_get s)]
  simp only [hw, act_pure]

theorem exec_barWait_held (h : Ready c false (Uses.wi b) s) (hb : wiWithin s.me 127 b) {k w : Nat} {g : W32}
    (hw : s.me.wait = .bar k w g) : exec (.barWait c b) s = .next s := by
  refine exec_bar_block (exec_barWait c b s) h hb (fix := fun s => s) ?_
  rw [act_bind_ok (act_get s)]
  simp only [hw, block_run]

theorem exec_barSync_held (h : Ready c false (Uses.wi b) s) (hb : wiWithin s.me 127 b) {k w : Nat} {g : W32}
    (hw : s.me.wait = .bar k w g) : exec (.barSync c b) s = .next s := by
  refine exec_bar_block (exec_barSync c b s) h hb (fix := fun s => s) ?_
  rw [act_bind_ok (act_get s)]
  simp only [hw, block_run]

end

/-! ## `barcfg` and the watchdog -/

section
variable {c : Ctl} {b count barto : WI} {s : State}

theorem exec_barcfg_writes (h : Ready c false (((Uses.wi b).and (Uses.wi count)).and (Uses.wi barto)) s)
    (hb : wiWithin s.me 127 b) (hk : wiWithin s.me 255 count) :
    let s1 := s.modCore (coreOf s.cur) (fun y => y.setBar (wiNat s.me b)
      { (s.core (coreOf s.cur)).bar (wiNat s.me b) with
        count := wiNat s.me count, barto := min (wiVal s.me barto).toNat (2 ^ 32 - 1) })
    exec (.barcfg c b count barto) s =
      .next (retire (if 1 ≤ wiNat s.me count ∧ wiNat s.me count ≤ ((s.core (coreOf s.cur)).bar (wiNat s.me b)).arr
        then barComplete s1 (coreOf s.cur) (wiNat s.me b) else s1) .seq) := by
  intro s1
  refine exec_ok ((exec_barcfg c b count barto s).trans (runScalar_eq ..)) h ?_
  rw [begun_none (by simp), barNum, act_bind_ok (readLimit_run hb), act_bind_ok (readLimit_run hk),
    act_bind_ok (readWI_run barto s), act_bind_ok (act_get s), act_bind_ok (act_set _ _), act_pure]

theorem exec_barcfg_numberRefused {r : BitVec 5} {x y : WI}
    (h : Ready c false (((Uses.w r).and (Uses.wi x)).and (Uses.wi y)) s) (hr : 127 < (s.me.w r.toNat).toNat) :
    exec (.barcfg c (.w r) x y) s = .next (s.trapped c 0x01 (illegalTval (wField r) 0 0xA1 1 5)) := by
  refine exec_trap ((exec_barcfg c (.w r) x y s).trans (runScalar_eq ..)) h (fix := fun s => s)
    (tval := fun _ => illegalTval (wField r) 0 0xA1 1 5) ?_
  rw [begun_none (by simp), barNum, act_bind_error (readLimit_trap hr)]

theorem exec_barcfg_countRefused {r : BitVec 5} {x y : WI}
    (h : Ready c false (((Uses.wi x).and (Uses.w r)).and (Uses.wi y)) s) (hx : wiWithin s.me 127 x)
    (hr : 255 < (s.me.w r.toNat).toNat) :
    exec (.barcfg c x (.w r) y) s = .next (s.trapped c 0x01 (illegalTval (wField r) 0 0xA1 2 5)) := by
  refine exec_trap ((exec_barcfg c x (.w r) y s).trans (runScalar_eq ..)) h (fix := fun s => s)
    (tval := fun _ => illegalTval (wField r) 0 0xA1 2 5) ?_
  rw [begun_none (by simp), barNum, act_bind_ok (readLimit_run hx), act_bind_error (readLimit_trap hr)]

theorem exec_barrierTimeout_traps {t n barto : Nat} {g : W32} (ha : (s.thr t).active = true)
    (hw : (s.thr t).wait = .bar n barto g) (h1 : 1 ≤ barto) :
    exec (.barrierTimeout t) s = .next (takeTrap s t false 0x07 (w64 n) g (s.thr t).ip) := by
  rw [exec_barrierTimeout, execBarrierTimeout]
  simp only [hw, ha, decide_eq_true h1, Bool.and_self, if_true]
  rfl

end

/-! ## The statement -/

/-- Settles O31: the three instructions as they begin and once they wait, the completion of a generation, `barcfg` and
the watchdog, and the refused operands. -/
theorem barriers : Obligations.Barriers := by
  unfold Obligations.Barriers
  refine ⟨fun c b s h hb hw => ?begins,
    ⟨fun c b s h hb => ⟨fun k hw => ⟨exec_barWait_released h hb hw, exec_barSync_released h hb hw⟩,
      fun k w g hw => ⟨exec_barWait_held h hb hw, exec_barSync_held h hb hw⟩⟩, ?completes⟩,
    ⟨fun c b count barto s h hb hk => exec_barcfg_writes h hb hk,
      fun t n barto g s ha hw h1 => exec_barrierTimeout_traps ha hw h1⟩,
    fun c b r x y s => ⟨?numberRefused, exec_barcfg_numberRefused, exec_barcfg_countRefused⟩⟩
  case begins =>
    intro n x free arrived waiting stands
    have hst : barStands s n = true ↔ stands := barStands_iff s n
    have hfree : ¬ free → s.fencesOver s.cur allPaths = false := Bool.eq_false_iff.mpr
    refine ⟨exec_barArr_arrives h hb, fun h0 hf => exec_barArr_fenced h hb h0 (hfree hf), barArrive_inert, ?counts,
      ?lastArrival, exec_barWait_passes h hb hw, exec_barWait_waits h hb hw, exec_barSync_inert h hb hw, ?standsDone,
      ?standsWaits, fun hs h0 => exec_barSync_arrives_passes h hb hw h0 (mt hst.mp hs),
      fun hs h0 => exec_barSync_arrives_waits h hb hw h0 (mt hst.mp hs),
      fun hs h0 hf => exec_barSync_fenced h hb hw h0 (mt hst.mp hs) (hfree hf)⟩
    case counts =>
      intro _ hlt
      dsimp only
      rw [barArrive_counts hlt]
      exact ⟨barCounted_bar, barCounted_record⟩
    case lastArrival =>
      intro h0 hle _
      dsimp only
      rw [barArrive_completes h0 hle]
      refine ⟨?_, ?_⟩
      · rw [barComplete_bar_self, barCounted_bar]
      · rw [State.me_eq, barComplete_cur]
        exact barComplete_barCounted_record
    case standsDone =>
      intro hs h0 hd
      exact exec_barSync_stands_passes h hb hw h0 (hst.mpr hs) ((barRecDone_of_stands (hst.mpr hs)).trans hd)
    case standsWaits =>
      intro hs h0 hd
      exact exec_barSync_stands_waits h hb hw h0 (hst.mpr hs) ((barRecDone_of_stands (hst.mpr hs)).trans hd)
  case completes =>
    intro s core n x s1 hit
    refine ⟨barComplete_bar_self s core n, fun k hk => barComplete_bar_ne s core n hk, fun t ht => ⟨?record, ?goesOn⟩,
      fun t ht => ?elsewhere, barComplete_saved s core n, barComplete_mem s core n, barComplete_net s core n⟩
    case record => exact barComplete_hit s core n t
    case goesOn =>
      intro m w g hw
      have hd : ((barRecordsDone s core n).thr t).wait = .bar m w g := by rw [barRecordsDone_thr]; exact hw
      rw [barComplete_thr, if_pos ht, barWake_waiting hd]
    case elsewhere =>
      rw [barComplete_thr, if_neg ht]
      exact barRecordsDone_thr s core n t
  case numberRefused =>
    intro h hr
    exact ⟨exec_bar_refused ((exec_barArr c (.w b) s).trans (runScalar_eq ..)) h hr,
      exec_bar_refused (exec_barWait c (.w b) s) h hr, exec_bar_refused (exec_barSync c (.w b) s) h hr⟩

end Sys2Proof.Machine
end

section
/-!
PROOFS. Control: idling and loops (R102, R110, R112), branches, calls and returns (R109).
-/
namespace Sys2Proof.Machine

open Sys2Proof

/-! ## `nop`, `yield` and `loop` -/

section
variable {c : Ctl} {s : State}

theorem exec_nop_goesOn (h : Ready c false Uses.none s) : exec (.nop c) s = .next (retire s .seq) :=
  exec_ok ((exec_nop c s).trans (runScalar_eq ..)) h (by rw [begun_none rfl, act_pure])

theorem exec_yield_goesOn (h : Ready c false Uses.none s) : exec (.yield c) s = .next (retire s .seq) :=
  exec_ok ((exec_yield c s).trans (runScalar_eq ..)) h (by rw [begun_none rfl, act_pure])

variable {count : WI} {off : BitVec 15}

theorem exec_loop_skips (h : Ready c false (Uses.wi count) s) (hn : wiVal s.me count = 0#64) :
    exec (.loop c count off) s = .next (retire s (.jump (targetOf s.me.ip off + 12#64))) := by
  refine exec_ok ((exec_loop c count off s).trans (runScalar_eq ..)) h ?_
  rw [begun_none (Uses.feats_wi count), act_bind_ok (readWI_run count s), act_bind_ok (getMe_run s)]
  simp only [if_pos hn, act_pure]

theorem exec_loop_begins (h : Ready c false (Uses.wi count) s) (hn : wiVal s.me count ≠ 0#64) :
    exec (.loop c count off) s =
      .next (retire (s.modMe (fun t => setLoop t (wiVal s.me count) (targetOf s.me.ip off))) (.jump (s.me.ip + 12#64))) := by
  refine exec_ok ((exec_loop c count off s).trans (runScalar_eq ..)) h ?_
  rw [begun_none (Uses.feats_wi count), act_bind_ok (readWI_run count s), act_bind_ok (getMe_run s)]
  simp only [if_neg hn]
  rw [act_bind_ok (modMeA_run _ s), act_pure]

end

/-- Settles O12: `nop` and `yield` are empty bodies; `loop` goes one of two ways. -/
theorem idlingAndLoops : Obligations.IdlingAndLoops := by
  unfold Obligations.IdlingAndLoops
  exact ⟨fun c s h => ⟨exec_nop_goesOn h, exec_yield_goesOn h⟩,
    fun c count off s h => ⟨exec_loop_skips h, exec_loop_begins h⟩⟩

/-! ## Branches -/

section
variable {c : Ctl} {s : State}

theorem exec_br_jumps (h : Ready c false Uses.none s) (off : BitVec 15) :
    exec (.br c off) s = .next (retire s (.jump (targetOf s.me.ip off))) :=
  exec_ok ((exec_br c off s).trans (runScalar_eq ..)) h (by rw [begun_none rfl, act_bind_ok (getMe_run s), act_pure])

theorem exec_brLong_jumps (h : Ready c false Uses.none s) (off : BitVec 36) :
    exec (.brLong c off) s = .next (retire s (.jump (targetOf s.me.ip off))) :=
  exec_ok ((exec_brLong c off s).trans (runScalar_eq ..)) h (by rw [begun_none rfl, act_bind_ok (getMe_run s), act_pure])

theorem exec_brx_jumps {a : BitVec 5} (h : Ready c false (Uses.w a) s) :
    exec (.brx c a) s = .next (retire s (.jump (align4 (s.me.w a.toNat)))) :=
  exec_ok ((exec_brx c a s).trans (runScalar_eq ..)) h (by rw [begun_none rfl, act_bind_ok (getMe_run s), act_pure])

end

/-! ## Calls: `call`, its long form and `callx` are `doCall` with a target -/

section
variable {c : Ctl} {u : Uses} {i : Instr} {op fn : Nat} {target : Thread → W64} {s : State}

theorem exec_doCall_enters (e : exec i s = runWord c false false u (fun _ => doCall op fn target) s)
    (h : Ready c false u s) (hu : u.feats = []) (htm : s.me.tm = false) (hd : s.me.depth ≠ 65535)
    (hl : s.me.depth - s.me.low ≠ 9) :
    exec i s = .next (retire (s.modMe enterFrame) (.jump (target s.me))) := by
  refine exec_ok e h ?_
  rw [begun_none hu, doCall, act_bind_ok (getMe_run s)]
  simp only [htm, Bool.false_eq_true, if_false, if_neg hd, if_neg hl]
  rw [act_bind_ok (modMeA_run _ s), act_pure]

theorem exec_doCall_trapMode (e : exec i s = runWord c false false u (fun _ => doCall op fn target) s)
    (h : Ready c false u s) (hu : u.feats = []) (htm : s.me.tm = true) :
    exec i s = .next (s.trapped c 0x01 (illegalTval 0 fn op 0 2)) := by
  refine exec_trap e h (fix := fun s => s) (tval := fun _ => illegalTval 0 fn op 0 2) ?_
  rw [begun_none hu, doCall, act_bind_ok (getMe_run s), if_pos htm]
  rfl

theorem exec_doCall_deepest (e : exec i s = runWord c false false u (fun _ => doCall op fn target) s)
    (h : Ready c false u s) (hu : u.feats = []) (htm : s.me.tm = false) (hd : s.me.depth = 65535) :
    exec i s = .next (s.trapped c 0x04 1#64) := by
  refine exec_trap e h (fix := fun s => s) (tval := fun _ => 1#64) ?_
  rw [begun_none hu, doCall, act_bind_ok (getMe_run s)]
  simp only [htm, Bool.false_eq_true, if_false, if_pos hd]
  rfl

theorem exec_doCall_tenResident (e : exec i s = runWord c false false u (fun _ => doCall op fn target) s)
    (h : Ready c false u s) (hu : u.feats = []) (htm : s.me.tm = false) (hd : s.me.depth ≠ 65535)
    (hl : s.me.depth - s.me.low = 9) : exec i s = .next (s.trapped c 0x04 0#64) := by
  refine exec_trap e h (fix := fun s => s) (tval := fun _ => 0#64) ?_
  rw [begun_none hu, doCall, act_bind_ok (getMe_run s)]
  simp only [htm, Bool.false_eq_true, if_false, if_neg hd, if_pos hl]
  rfl

/-- The three ways in which a call does not go through. -/
theorem doCall_turnedAway (e : exec i s = runWord c false false u (fun _ => doCall op fn target) s)
    (h : Ready c false u s) (hu : u.feats = []) :
    (s.me.tm = true → exec i s = .next (s.trapped c 0x01 (illegalTval 0 fn op 0 2))) ∧
    (s.me.tm = false → s.me.depth = 65535 → exec i s = .next (s.trapped c 0x04 1#64)) ∧
    (s.me.tm = false → s.me.depth ≠ 65535 → s.me.depth - s.me.low = 9 → exec i s = .next (s.trapped c 0x04 0#64)) :=
  ⟨exec_doCall_trapMode e h hu, exec_doCall_deepest e h hu, exec_doCall_tenResident e h hu⟩

end

theorem exec_call_eq (c : Ctl) (off : BitVec 15) (s : State) : exec (.call c off) s =
    runWord c false false { extra := callRegs s.me } (fun _ => doCall 0x04 0x00 (fun t => targetOf t.ip off)) s :=
  (exec_call c off s).trans (runScalar_eq ..)
theorem exec_callLong_eq (c : Ctl) (off : BitVec 36) (s : State) : exec (.callLong c off) s =
    runWord c false false { extra := callRegs s.me } (fun _ => doCall 0x04 0x80 (fun t => targetOf t.ip off)) s :=
  (exec_callLong c off s).trans (runScalar_eq ..)
theorem exec_callx_eq (c : Ctl) (a : BitVec 5) (s : State) : exec (.callx c a) s =
    runWord c false false { ws := [a.toNat], extra := callRegs s.me }
      (fun _ => doCall 0x05 0x00 (fun t => align4 (t.w a.toNat))) s :=
  (exec_callx c a s).trans (runScalar_eq ..)

/-! ## Returns -/

section
variable {c : Ctl} {a : BitVec 5} {s : State}

theorem exec_ret_leaves (h : Ready c false (Uses.w a) s) (htm : s.me.tm = false) (h0 : s.me.depth ≠ 0)
    (hl : s.me.depth ≠ s.me.low) : exec (.ret c a) s =
      .next (retire (s.modMe (fun t => { t with depth := t.depth - 1 })) (.jump (align4 (s.me.w a.toNat)))) := by
  refine exec_ok ((exec_ret c a s).trans (runScalar_eq ..)) h ?_
  rw [begun_none rfl, act_bind_ok (getMe_run s)]
  simp only [htm, Bool.false_eq_true, if_false, if_neg h0, if_neg hl]
  rw [act_bind_ok (modMeA_run _ s), act_pure]

theorem exec_ret_trapMode (h : Ready c false (Uses.w a) s) (htm : s.me.tm = true) :
    exec (.ret c a) s = .next (s.trapped c 0x01 (illegalTval 0 0x00 0x06 0 2)) := by
  refine exec_trap ((exec_ret c a s).trans (runScalar_eq ..)) h (fix := fun s => s)
    (tval := fun _ => illegalTval 0 0x00 0x06 0 2) ?_
  rw [begun_none rfl, act_bind_ok (getMe_run s), if_pos htm]
  rfl

theorem exec_ret_frameZero (h : Ready c false (Uses.w a) s) (htm : s.me.tm = false) (h0 : s.me.depth = 0) :
    exec (.ret c a) s = .next (s.trapped c 0x05 1#64) := by
  refine exec_trap ((exec_ret c a s).trans (runScalar_eq ..)) h (fix := fun s => s) (tval := fun _ => 1#64) ?_
  rw [begun_none rfl, act_bind_ok (getMe_run s)]
  simp only [htm, Bool.false_eq_true, if_false, if_pos h0]
  rfl

theorem exec_ret_lowestResident (h : Ready c false (Uses.w a) s) (htm : s.me.tm = false) (h0 : s.me.depth ≠ 0)
    (hl : s.me.depth = s.me.low) : exec (.ret c a) s = .next (s.trapped c 0x05 0#64) := by
  refine exec_trap ((exec_ret c a s).trans (runScalar_eq ..)) h (fix := fun s => s) (tval := fun _ => 0#64) ?_
  rw [begun_none rfl, act_bind_ok (getMe_run s)]
  simp only [htm, Bool.false_eq_true, if_false, if_neg h0, if_pos hl]
  rfl

end

/-! ## The register window outside trap mode (R90) -/

theorem Thread.preg_eq_stk {t : Thread} (h : t.tm = false) (r : Nat) : t.preg r = .stk (stkIndex t.depth r) :=
  if_neg (ne_true_of_eq_false h)

theorem Thread.w_eq_stk {t : Thread} (h : t.tm = false) (r : Nat) :
    t.w r = SMap.get 0#64 t.stk (stkIndex t.depth r) := by
  rw [Thread.w, Thread.preg_eq_stk h, Thread.readP]

theorem Thread.setW_eq_stk {t : Thread} (h : t.tm = false) (r : Nat) (v : W64) :
    t.setW r v = { t with stk := SMap.set 0#64 t.stk (stkIndex t.depth r) v } := by
  rw [Thread.setW, Thread.preg_eq_stk h, Thread.writeP]

/-- The outs of a frame are the ins of the next one. -/
theorem stkIndex_succ (d r : Nat) : stkIndex (d + 1) r = stkIndex d (24 + r) := by
  unfold stkIndex
  congr 1
  omega

/-- The registers that two neighbouring frames name are as many stack entries. -/
theorem stkIndex_inj {d i j : Nat} (hi : i < 56) (hj : j < 56) : stkIndex d i = stkIndex d j ↔ i = j := by
  unfold stkIndex
  omega

/-- A run of registers cleared. -/
theorem foldl_setW_zero {t : Thread} (h : t.tm = false) (n : Nat) : ∃ m,
    (List.range n).foldl (fun x j => x.setW (8 + j) 0#64) t = { t with stk := m } ∧
    (∀ j < n, SMap.get 0#64 m (stkIndex t.depth (8 + j)) = 0#64) ∧
    ∀ e, (∀ j < n, e ≠ stkIndex t.depth (8 + j)) → SMap.get 0#64 m e = SMap.get 0#64 t.stk e := by
  induction n with
  | zero => exact ⟨t.stk, rfl, fun j hj => absurd hj (Nat.not_lt_zero j), fun _ _ => rfl⟩
  | succ n ih =>
    obtain ⟨m, hm, hzero, hsame⟩ := ih
    refine ⟨SMap.set 0#64 m (stkIndex t.depth (8 + n)) 0#64, ?_, fun j hj => ?_, fun e he => ?_⟩
    · rw [List.range_succ, List.foldl_append, hm, List.foldl_cons, List.foldl_nil,
        Thread.setW_eq_stk (t := { t with stk := m }) h]
    · rw [SMap.get_set]
      split
      case isTrue => rfl
      case isFalse hne =>
        have hjn : j ≠ n := fun hjn => hne (by rw [hjn])
        exact hzero j (by omega)
    · rw [SMap.get_set_ne _ _ _ (he n (Nat.lt_succ_self n)).symm]
      exact hsame e fun j hj => he j (by omega)

/-- A call changes the depth, and of the stack w7 to w31 of the next frame alone: w7 is the link, the others are 0
(R109). -/
theorem enterFrame_eq {t : Thread} (h : t.tm = false) : ∃ m,
    enterFrame t = { t with depth := t.depth + 1, stk := m } ∧
    SMap.get 0#64 m (stkIndex (t.depth + 1) 7) = t.ip + 12#64 ∧
    (∀ j < 24, SMap.get 0#64 m (stkIndex (t.depth + 1) (8 + j)) = 0#64) ∧
    ∀ e, (∀ j < 25, e ≠ stkIndex (t.depth + 1) (7 + j)) → SMap.get 0#64 m e = SMap.get 0#64 t.stk e := by
  obtain ⟨m, hm, hzero, hsame⟩ := foldl_setW_zero (t := { t with depth := t.depth + 1 }) h 24
  refine ⟨SMap.set 0#64 m (stkIndex (t.depth + 1) 7) (t.ip + 12#64), ?_, SMap.get_set_self _ _ _ _, fun j hj => ?_,
    fun e he => ?_⟩
  · rw [enterFrame, hm, Thread.setW_eq_stk (t := { t with depth := t.depth + 1, stk := m }) h]
  · have h7 : stkIndex (t.depth + 1) 7 ≠ stkIndex (t.depth + 1) (8 + j) := by
      rw [Ne, stkIndex_inj (by omega) (by omega)]
      omega
    rw [SMap.get_set_ne _ _ _ h7]
    exact hzero j hj
  · rw [SMap.get_set_ne _ _ _ (he 0 (by omega)).symm]
    refine hsame e fun j hj => ?_
    rw [show 8 + j = 7 + (j + 1) by omega]
    exact he (j + 1) (by omega)

/-! ## The frame of a callee, and the caller's once the callee has returned -/

section
variable {t : Thread} (h : t.tm = false)
include h

theorem enterFrame_depth : (enterFrame t).depth = t.depth + 1 := by
  obtain ⟨m, hm, -⟩ := enterFrame_eq h
  rw [hm]

theorem enterFrame_loop : (enterFrame t).lc = t.lc ∧ (enterFrame t).ls = t.ls ∧ (enterFrame t).le = t.le ∧
    (enterFrame t).loopOn = t.loopOn := by
  obtain ⟨m, hm, -⟩ := enterFrame_eq h
  rw [hm]
  exact ⟨rfl, rfl, rfl, rfl⟩

theorem enterFrame_link : (enterFrame t).w 7 = t.ip + 12#64 := by
  obtain ⟨m, hm, hlink, -⟩ := enterFrame_eq h
  rw [hm, Thread.w_eq_stk (t := { t with depth := t.depth + 1, stk := m }) h, hlink]

theorem enterFrame_fresh {j : Nat} (hj : j < 24) : (enterFrame t).w (8 + j) = 0#64 := by
  obtain ⟨m, hm, -, hzero, -⟩ := enterFrame_eq h
  rw [hm, Thread.w_eq_stk (t := { t with depth := t.depth + 1, stk := m }) h, hzero j hj]

/-- What a call leaves of the stack: every entry below its link, in the numbering of the caller's frame. -/
theorem enterFrame_stk {k : Nat} (hk : k < 31) :
    SMap.get 0#64 (enterFrame t).stk (stkIndex t.depth k) = t.w k := by
  obtain ⟨m, hm, -, -, hsame⟩ := enterFrame_eq h
  rw [hm, Thread.w_eq_stk h]
  refine hsame _ fun j hj => ?_
  rw [stkIndex_succ, Ne, stkIndex_inj (by omega) (by omega)]
  omega

theorem enterFrame_tm : (enterFrame t).tm = false := by
  obtain ⟨m, hm, -⟩ := enterFrame_eq h
  rw [hm]
  exact h

/-- R109: the caller's w24 to w30 reach the callee as w0 to w6. -/
theorem enterFrame_outs {j : Nat} (hj : j < 7) : (enterFrame t).w j = t.w (24 + j) := by
  rw [Thread.w_eq_stk (enterFrame_tm h), enterFrame_depth h, stkIndex_succ, enterFrame_stk h (by omega)]

theorem enterFrame_back {j : Nat} (hj : j < 24) : ({ enterFrame t with depth := t.depth } : Thread).w j = t.w j := by
  rw [Thread.w_eq_stk (t := { enterFrame t with depth := t.depth }) (enterFrame_tm h)]
  exact enterFrame_stk h (by omega)

/-- The callee's w0 to w7 are the caller's w24 to w31. -/
theorem w_setW_callee (j : Nat) (v : W64) :
    ({ ({ t with depth := t.depth + 1 } : Thread).setW j v with depth := t.depth } : Thread).w (24 + j) = v := by
  have hread : SMap.get 0#64 (SMap.set 0#64 t.stk (stkIndex (t.depth + 1) j) v) (stkIndex t.depth (24 + j)) = v := by
    rw [stkIndex_succ, SMap.get_set_self]
  rw [Thread.setW_eq_stk (t := { t with depth := t.depth + 1 }) h]
  exact (Thread.w_eq_stk (by exact h) _).trans hread

end

/-- Settles O13: branches; calls and returns that go through, and the two frames; and the three traps of each. -/
theorem branchesAndCalls : Obligations.BranchesAndCalls := by
  unfold Obligations.BranchesAndCalls
  refine ⟨fun c s => ⟨fun h => ⟨exec_br_jumps h, exec_brLong_jumps h⟩, fun a h => exec_brx_jumps h⟩,
    fun c s htm => ⟨?calls, fun h0 hl a h => exec_ret_leaves h htm h0 hl, enterFrame_depth htm, enterFrame_link htm,
      fun j hj => enterFrame_fresh htm hj, fun j hj => enterFrame_outs htm hj, ?loop⟩,
    fun c s => ⟨?callTraps, ?callxTraps, ?retTraps⟩⟩
  case calls =>
    intro hd hl
    exact ⟨fun off h => exec_doCall_enters (exec_call_eq c off s) h rfl htm hd hl,
      fun off h => exec_doCall_enters (exec_callLong_eq c off s) h rfl htm hd hl,
      fun a h => exec_doCall_enters (exec_callx_eq c a s) h rfl htm hd hl⟩
  case loop =>
    obtain ⟨hlc, hls, hle, hon⟩ := enterFrame_loop htm
    exact ⟨hlc, hls, hle, hon, fun j hj => enterFrame_back htm hj, fun t j v ht _ => w_setW_callee ht j v⟩
  case callTraps =>
    intro h
    exact ⟨fun off => doCall_turnedAway (exec_call_eq c off s) h rfl,
      fun off => doCall_turnedAway (exec_callLong_eq c off s) h rfl⟩
  case callxTraps =>
    intro a h
    exact doCall_turnedAway (exec_callx_eq c a s) h rfl
  case retTraps =>
    intro a h
    exact ⟨exec_ret_trapMode h, exec_ret_frameZero h, exec_ret_lowestResident h⟩

end Sys2Proof.Machine
end

section
/-!
PROOFS. Scalar arithmetic: the instructions of one shape run as their row says (R119, R120, R123, R124), and what their
counts and extensions are (R107, R119).
-/
namespace Sys2Proof.Machine

open Sys2Proof

/-! ## The three shapes -/

section
variable {c : Ctl} {op : Nat} {t : Ty} {d : Dst} {a b : Src} {s s1 s2 s3 : State} {x y : Nat}

theorem scalarBin_ready {f : Nat → Nat → Nat × Fl} (h : Ready c false (twoUses op d a b) s)
    (hx : Reads (readSrc t a) (s.begun (twoUses op d a b)) x s1) (hy : Reads (readSrc t b) s1 y s2)
    (hw : Reads (writeResult t d (f x y).1) s2 () s3) :
    scalarBin c op t d a b f s = .next (retire (s3.modMe (fun th => th.raise (f x y).2)) .seq) := by
  unfold twoUses at h hx
  rw [scalarBin, runScalar_eq]
  refine ready_ok h ?_
  rw [act_bind_ok hx, act_bind_ok hy, act_bind_ok hw, act_bind_ok (raiseA_run _ s3), act_pure]

theorem scalarUn_ready {f : Nat → Nat} (h : Ready c false (oneUses op d a) s)
    (hx : Reads (readSrc t a) (s.begun (oneUses op d a)) x s1) (hw : Reads (writeResult t d (f x)) s1 () s2) :
    scalarUn c op t d a f s = .next (retire s2 .seq) := by
  unfold oneUses at h hx
  rw [scalarUn, runScalar_eq]
  refine ready_ok h ?_
  rw [act_bind_ok hx, act_bind_ok hw, act_pure]

theorem exec_fcvt_ready {dt : Ty} {m : CvtMode} (h : Ready c false (oneUses 0x3E d a) s)
    (hx : Reads (readSrc t a) (s.begun (oneUses 0x3E d a)) x s1)
    (hw : Reads (writeResult dt d (convert dt t m x).1) s1 () s2) :
    exec (.fcvt c dt t m d a) s = .next (retire (s2.modMe (fun th => th.raise (convert dt t m x).2)) .seq) := by
  unfold oneUses at h hx
  refine exec_ok ((exec_fcvt c dt t m d a s).trans (runScalar_eq ..)) h ?_
  rw [act_bind_ok hx, act_bind_ok hw, act_bind_ok (raiseA_run _ s2), act_pure]

end

/-! ## The rows -/

/-- Every row of `scalarTwo` is the shape with two sources, at its OP and with its result. -/
theorem exec_scalarTwo {p : ScalarRow} (hp : p ∈ scalarTwo) (c : Ctl) (t : Ty) (d : Dst) (a b : Src) (s : State) :
    exec (p.2.1 c t d a b) s = scalarBin c p.1 t d a b (p.2.2 t) s := by
  revert p
  simp only [scalarTwo, List.forall_mem_cons, List.not_mem_nil, false_implies, implies_true, and_true]
  exact ⟨exec_add .., exec_sub .., exec_mul .., exec_mulh .., exec_div .., exec_rem .., exec_and .., exec_or ..,
    exec_xor .., exec_andn .., exec_shl .., exec_shr .., exec_sar .., exec_rot .., exec_min .., exec_max ..,
    exec_fadd .., exec_fsub .., exec_fmul ..⟩

/-- Every row of `scalarOne` is the shape with one source. -/
theorem exec_scalarOne {p : Nat × (Ctl → Ty → Dst → Src → Instr) × (Ty → Nat → Nat)} (hp : p ∈ scalarOne) (c : Ctl)
    (t : Ty) (d : Dst) (a : Src) (s : State) : exec (p.2.1 c t d a) s = scalarUn c p.1 t d a (p.2.2 t) s := by
  revert p
  simp only [scalarOne, List.forall_mem_cons, List.not_mem_nil, false_implies, implies_true, and_true]
  exact ⟨exec_clz .., exec_popc .., exec_sext .., exec_zext ..⟩

/-! ## Leading zeros -/

/-- `k` of the `n` bits of `f` lie above the highest one. -/
def LeadingZeros (f : Nat → Bool) (n k : Nat) : Prop :=
  k ≤ n ∧ (∀ i, n - k ≤ i → f i = false) ∧ (k < n → f (n - 1 - k) = true)

theorem LeadingZeros.not_lt {f : Nat → Bool} {n k l : Nat} (hk : LeadingZeros f n k) (hl : LeadingZeros f n l) :
    ¬ k < l := by
  obtain ⟨-, -, hone⟩ := hk
  obtain ⟨hle, hzero, -⟩ := hl
  intro hlt
  have h1 := hone (by omega)
  rw [hzero (n - 1 - k) (by omega)] at h1
  exact Bool.false_ne_true h1

theorem LeadingZeros.unique {f : Nat → Bool} {n k l : Nat} (hk : LeadingZeros f n k) (hl : LeadingZeros f n l) : k = l :=
  Nat.le_antisymm (Nat.not_lt.mp (hl.not_lt hk)) (Nat.not_lt.mp (hk.not_lt hl))

theorem leadingZeros_iClz {t : Ty} {x : Nat} (hx : x < 2 ^ tyWidth t) :
    LeadingZeros (fun i => (BitVec.ofNat (tyWidth t) x).getLsbD i) (tyWidth t) (iClz t x) := by
  unfold iClz LeadingZeros
  simp only [BitVec.getLsbD_ofNat]
  split
  case isTrue h0 => simp [h0]
  case isFalse h0 =>
    have hlog : x.log2 < tyWidth t := (Nat.log2_lt h0).mpr hx
    have hlast : tyWidth t - 1 - (tyWidth t - 1 - x.log2) = x.log2 := by omega
    refine ⟨by omega, fun i hi => ?_, fun _ => ?_⟩
    · have hxi : x < 2 ^ i := (Nat.log2_lt h0).mp (by omega)
      rw [Nat.testBit_lt_two_pow hxi, Bool.and_false]
    · rw [hlast, Nat.testBit_log2 h0, decide_eq_true hlog]
      rfl

theorem iClz_eq_iff {t : Ty} {x : Nat} (hx : x < 2 ^ tyWidth t) (k : Nat) : iClz t x = k ↔
    LeadingZeros (fun i => (BitVec.ofNat (tyWidth t) x).getLsbD i) (tyWidth t) k := by
  refine ⟨fun h => ?_, fun h => (leadingZeros_iClz hx).unique h⟩
  rw [← h]
  exact leadingZeros_iClz hx

/-! ## Ones -/

/-- A count kept along a list. -/
theorem foldl_count {α : Type} (f : α → Bool) (l : List α) (n : Nat) :
    l.foldl (fun n i => if f i then n + 1 else n) n = n + l.countP f := by
  induction l generalizing n with
  | nil => rfl
  | cons i l ih =>
    rw [List.foldl_cons, ih, List.countP_cons]
    split <;> omega

theorem iPopc_eq_countP (t : Ty) (x : Nat) :
    iPopc t x = (List.range (tyWidth t)).countP (fun i => (BitVec.ofNat (tyWidth t) x).getLsbD i) := by
  rw [iPopc, foldl_count, Nat.zero_add]
  refine List.countP_congr fun i hi => ?_
  rw [BitVec.getLsbD_ofNat, decide_eq_true (List.mem_range.mp hi), Bool.true_and]

/-! ## Extension of a result (R107) -/

theorem tySigned_of_tyIB {t : Ty} (h : tyIB t = true) : tySigned t = tyI t := by 
  revert h
  cases t <;> decide

theorem tyWidth_pos (t : Ty) : 0 < tyWidth t := by cases t <;> decide

/-- The reading of n bits in two's complement is the library's. -/
theorem toSigned_eq_toInt {n x : Nat} (hn : 0 < n) : toSigned n x = (BitVec.ofNat n x).toInt := by
  obtain ⟨m, rfl⟩ : ∃ m, n = m + 1 := ⟨n - 1, by omega⟩
  rw [BitVec.toInt_eq_toNat_cond, toSigned, BitVec.toNat_ofNat]
  have h2 : 2 ^ (m + 1) = 2 * 2 ^ m := by rw [Nat.pow_succ, Nat.mul_comm]
  simp only [Nat.add_sub_cancel]
  split <;> split <;> omega

theorem w64_sextNat {n : Nat} (hn : 0 < n) (x : Nat) : w64 (sextNat n 64 x) = (BitVec.ofNat n x).signExtend 64 := by
  rw [sextNat, wrapInt, toSigned_eq_toInt hn, BitVec.signExtend]
  refine BitVec.eq_of_toNat_eq ?_
  rw [w64, BitVec.toNat_ofNat, BitVec.toNat_ofInt, Nat.mod_eq_of_lt]
  omega

theorem w64_mod (n x : Nat) : w64 (x % 2 ^ n) = (BitVec.ofNat n x).setWidth 64 := by
  refine BitVec.eq_of_toNat_eq ?_
  rw [w64, BitVec.toNat_ofNat, BitVec.toNat_setWidth, BitVec.toNat_ofNat]

theorem result64_eq {t : Ty} (h : tyIB t = true) (x : Nat) :
    result64 t x = if tyI t then (BitVec.ofNat (tyWidth t) x).signExtend 64
      else (BitVec.ofNat (tyWidth t) x).setWidth 64 := by
  rw [result64, extendTo, tySigned_of_tyIB h]
  split
  case isTrue => exact w64_sextNat (tyWidth_pos t) x
  case isFalse => exact w64_mod (tyWidth t) x

/-- Settles O8: the rows by their shape, conversion, and the values of the counts and extensions. -/
theorem scalarArithmetic : Obligations.ScalarArithmetic := by
  unfold Obligations.ScalarArithmetic
  refine ⟨fun p hp c t d a b s s1 s2 s3 x y h hx hy hw => ?two, ⟨fun p hp c t d a s s1 s2 x h hx hw => ?one,
    fun c dt st m d a s s1 s2 x h hx hw => exec_fcvt_ready h hx hw⟩,
    fun t ht x hx => ⟨iClz_eq_iff hx, iPopc_eq_countP t x, result64_eq ht x⟩⟩
  case two =>
    rw [exec_scalarTwo hp]
    exact scalarBin_ready h hx hy hw
  case one =>
    rw [exec_scalarOne hp]
    exact scalarUn_ready h hx hw

end Sys2Proof.Machine
end

section
/-!
PROOFS. Instructions that write one predicate, and those that count and find its ones (R115 to R118).
-/
namespace Sys2Proof.Machine

open Sys2Proof

/-! ## The lanes of a mask written -/

/-- A lane instruction's body is given G. -/
theorem runLane_eq (c : Ctl) (u : Uses) (body : W32 → Act Ret) (s : State) :
    runLane c u body s = runWord c true false u body s := rfl

section
variable {c : Ctl} {u : Uses} {i : Instr} {s : State}

/-- An instruction whose body writes one predicate, with a mask that the thread's registers give. -/
theorem exec_setPredLanes {x : Thread → W32} {d : BitVec 4}
    (e : exec i s = runWord c true false u (fun g => do
      modMeA (fun t => setPredLanes t d.toNat g (x t))
      return .seq) s) (h : Ready c true u s) (hu : u.feats = []) :
    exec i s = .next (retire (s.modMe (fun t => setPredLanes t d.toNat (guardOf s.me c) (x s.me))) .seq) := by
  refine exec_ok e h ?_
  rw [begun_none hu, act_bind_ok (modMeA_run _ s), act_pure]
  rfl

end

section
variable {c : Ctl} {s : State}

theorem exec_plog_writes (h : Ready c true Uses.none s) (tt : BitVec 8) (d a b : BitVec 4) :
    exec (.plog c tt d a b) s = .next (retire (s.modMe (fun t => setPredLanes t d.toNat (guardOf s.me c)
      (plogTable tt (s.me.pred a.toNat) (s.me.pred b.toNat) (s.me.pred d.toNat)))) .seq) :=
  exec_setPredLanes (x := fun t => plogTable tt (t.pred a.toNat) (t.pred b.toNat) (t.pred d.toNat))
    ((exec_plog c tt d a b s).trans (runLane_eq ..)) h rfl

theorem exec_pmov_writes (h : Ready c true Uses.none s) (d a : BitVec 4) :
    exec (.pmov c d a) s =
      .next (retire (s.modMe (fun t => setPredLanes t d.toNat (guardOf s.me c) (s.me.pred a.toNat))) .seq) :=
  exec_setPredLanes (x := fun t => t.pred a.toNat) ((exec_pmov c d a s).trans (runLane_eq ..)) h rfl

theorem exec_pset_writes (h : Ready c true Uses.none s) (d : BitVec 4) (m : BitVec 15) :
    exec (.pset c d m) s =
      .next (retire (s.modMe (fun t => setPredLanes t d.toNat (guardOf s.me c) (m.signExtend 32))) .seq) :=
  exec_setPredLanes (x := fun _ => m.signExtend 32) ((exec_pset c d m s).trans (runLane_eq ..)) h rfl

theorem exec_pmovFromW_writes {a : BitVec 5} (h : Ready c true (Uses.w a) s) (d : BitVec 4) :
    exec (.pmovFromW c d a) s = .next (retire (s.modMe (fun t => setPredLanes t d.toNat (guardOf s.me c)
      ((s.me.w a.toNat).setWidth 32))) .seq) :=
  exec_setPredLanes (x := fun t => (t.w a.toNat).setWidth 32) ((exec_pmovFromW c d a s).trans (runLane_eq ..)) h rfl

theorem exec_psetFirst_writes {n : WI} (h : Ready c true (Uses.wi n) s) (d : BitVec 4) :
    exec (.psetFirst c d n) s = .next (retire (s.modMe (fun t => setPredLanes t d.toNat (guardOf s.me c)
      (lowMask (wiVal s.me n).toNat))) .seq) := by
  refine exec_ok ((exec_psetFirst c d n s).trans (runLane_eq ..)) h ?_
  rw [begun_none (Uses.feats_wi n), act_bind_ok (readWI_run n s), act_bind_ok (modMeA_run _ s), act_pure]

theorem exec_pmovToW_writes {d : BitVec 5} (h : Ready c true (Uses.w d) s) (a : BitVec 4) :
    exec (.pmovToW c d a) s = .next (retire (s.modMe (fun t => t.setW d.toNat
      ((s.me.w d.toNat).extractLsb' 32 32 ++
        mixLanes (guardOf s.me c) ((s.me.w d.toNat).setWidth 32) (s.me.pred a.toNat)))) .seq) := by
  refine exec_ok ((exec_pmovToW c d a s).trans (runLane_eq ..)) h ?_
  rw [begun_none rfl, act_bind_ok (getMe_run s), act_bind_ok (getMe_run s), act_bind_ok (setWA_run d _ s), act_pure]

end

/-! ## Counts -/

theorem popCount32_eq_countP (p : W32) : popCount32 p = (List.range 32).countP (fun i => p.getLsbD i) := by
  rw [popCount32, foldl_count, Nat.zero_add]

section
variable {c : Ctl} {d : Dst} {a : BitVec 4} {s s1 : State}

theorem exec_pcnt_counts (h : Ready c false (Uses.dst 0x16 d) s)
    (hw : Reads (writeDst d (w64 (popCount32 ((s.begun (Uses.dst 0x16 d)).me.pred a.toNat))))
      (s.begun (Uses.dst 0x16 d)) () s1) :
    exec (.pcnt c d a) s = .next (retire s1 .seq) := by
  refine exec_ok ((exec_pcnt c d a s).trans (runScalar_eq ..)) h ?_
  rw [act_bind_ok (getMe_run _), act_bind_ok hw, act_pure]

theorem exec_pfirst_finds (h : Ready c false (Uses.dst 0x17 d) s)
    (hw : Reads (writeDst d (w64 (firstSet ((s.begun (Uses.dst 0x17 d)).me.pred a.toNat) 32 0)))
      (s.begun (Uses.dst 0x17 d)) () s1) :
    exec (.pfirst c d a) s = .next (retire s1 .seq) := by
  refine exec_ok ((exec_pfirst c d a s).trans (runScalar_eq ..)) h ?_
  rw [act_bind_ok (getMe_run _), act_bind_ok hw, act_pure]

end

/-! ## The table of `plog` (R115) -/

/-- The number of a combination of three bits. -/
def tableIndex (a b d : Bool) : Nat := 4 * a.toNat + 2 * b.toNat + d.toNat

theorem tableIndex_lt (a b d : Bool) : tableIndex a b d < 8 := by revert a b d; decide

/-- A lane is in the term of its own combination, and in no other. -/
theorem guardTerm_getLsbD (a b d : W32) {i : Nat} (hi : i < 32) {k : Nat} (hk : k < 8) :
    (guardTerm a b d k).getLsbD i = decide (k = tableIndex (a.getLsbD i) (b.getLsbD i) (d.getLsbD i)) := by
  unfold guardTerm
  simp only [BitVec.getLsbD_and, apply_ite (fun x : W32 => x.getLsbD i), BitVec.getLsbD_not,
    decide_eq_true hi, Bool.true_and]
  generalize a.getLsbD i = x
  generalize b.getLsbD i = y
  generalize d.getLsbD i = z
  revert hk k x y z
  decide

/-- A union of some of a list of masks has the lanes of those masks. -/
theorem getLsbD_foldl_or {α : Type} (p : α → Bool) (f : α → W32) (l : List α) (acc : W32) (i : Nat) :
    (l.foldl (fun acc k => if p k then acc ||| f k else acc) acc).getLsbD i =
      (acc.getLsbD i || l.any (fun k => p k && (f k).getLsbD i)) := by
  induction l generalizing acc with
  | nil => simp
  | cons k l ih =>
    rw [List.foldl_cons, ih, List.any_cons]
    cases p k <;> simp [Bool.or_assoc]

theorem plogTable_getLsbD (tt : BitVec 8) (a b d : W32) {i : Nat} (hi : i < 32) :
    (plogTable tt a b d).getLsbD i = tt.getLsbD (tableIndex (a.getLsbD i) (b.getLsbD i) (d.getLsbD i)) := by
  rw [plogTable, getLsbD_foldl_or, BitVec.getLsbD_zero, Bool.false_or, Bool.eq_iff_iff, List.any_eq_true]
  have hindex := tableIndex_lt (a.getLsbD i) (b.getLsbD i) (d.getLsbD i)
  refine ⟨?_, fun htt => ⟨_, List.mem_range.mpr hindex, ?_⟩⟩
  · rintro ⟨k, hk, hterm⟩
    rw [guardTerm_getLsbD a b d hi (List.mem_range.mp hk), Bool.and_eq_true, decide_eq_true_eq] at hterm
    obtain ⟨htt, rfl⟩ := hterm
    exact htt
  · rw [guardTerm_getLsbD a b d hi hindex, htt, decide_eq_true rfl]
    rfl

/-! ## The lowest bits, and the lowest one (R117, R118) -/

theorem lowMask_getLsbD (n : Nat) {i : Nat} (hi : i < 32) : (lowMask n).getLsbD i = decide (i < n) := by
  rw [lowMask, w32, BitVec.getLsbD_ofNat, Nat.testBit_two_pow_sub_one, decide_eq_true hi, Bool.true_and]
  exact decide_eq_decide.mpr (by omega)

/-- The search goes past zeros, to the first one or to its end. -/
theorem firstSet_spec (p : W32) (n i : Nat) :
    (firstSet p n i = 32 ∧ ∀ k, i ≤ k → k < i + n → p.getLsbD k = false) ∨
    (firstSet p n i < i + n ∧ p.getLsbD (firstSet p n i) = true ∧
      ∀ k, i ≤ k → k < firstSet p n i → p.getLsbD k = false) := by
  induction n generalizing i with
  | zero => exact .inl ⟨rfl, fun k h1 h2 => by omega⟩
  | succ n ih =>
    by_cases hi : p.getLsbD i = true
    · refine .inr ?_
      rw [firstSet, if_pos hi]
      exact ⟨by omega, hi, fun k h1 h2 => by omega⟩
    · have hpast : ∀ m, (∀ k, i + 1 ≤ k → k < m → p.getLsbD k = false) →
          ∀ k, i ≤ k → k < m → p.getLsbD k = false := by
        intro m hz k h1 h2
        obtain rfl | hk := Nat.eq_or_lt_of_le h1
        · exact Bool.eq_false_iff.mpr hi
        · exact hz k hk h2
      rw [firstSet, if_neg hi]
      obtain ⟨hend, hz⟩ | ⟨hlt, hone, hz⟩ := ih (i + 1)
      · exact .inl ⟨hend, hpast _ fun k h1 h2 => hz k h1 (by omega)⟩
      · exact .inr ⟨by omega, hone, hpast _ hz⟩

theorem firstSet_eq_32 (p : W32) : firstSet p 32 0 = 32 ↔ p = 0#32 := by
  refine ⟨fun h => ?_, fun h => by rw [h]; rfl⟩
  obtain ⟨-, hz⟩ | ⟨hlt, -, -⟩ := firstSet_spec p 32 0
  · exact BitVec.eq_of_getLsbD_eq fun i hi => by rw [hz i (Nat.zero_le i) (by omega), BitVec.getLsbD_zero]
  · omega

theorem firstSet_lowest {p : W32} (h : p ≠ 0#32) :
    p.getLsbD (firstSet p 32 0) = true ∧ ∀ i, i < firstSet p 32 0 → p.getLsbD i = false := by
  obtain ⟨h32, -⟩ | ⟨-, hone, hz⟩ := firstSet_spec p 32 0
  · exact absurd ((firstSet_eq_32 p).mp h32) h
  · exact ⟨hone, fun i => hz i (Nat.zero_le i)⟩

/-- Settles O17: each instruction writes through `setPredLanes`; then the masks that it writes, and the counts. -/
theorem predicateWrites : Obligations.PredicateWrites := by
  unfold Obligations.PredicateWrites
  refine ⟨fun c s => ⟨fun h => ⟨exec_plog_writes h, exec_pmov_writes h, exec_pset_writes h⟩,
      fun d a h => exec_pmovFromW_writes h d, fun d a h => exec_pmovToW_writes h a,
      fun d n h => exec_psetFirst_writes h d⟩,
    fun tt a b d i hi => plogTable_getLsbD tt a b d hi, fun n i hi => lowMask_getLsbD n hi, firstSet_eq_32,
    fun p h => firstSet_lowest h, fun c d a s s1 => ⟨fun h hw => exec_pcnt_counts h ?_, exec_pfirst_finds⟩⟩
  rw [popCount32_eq_countP]
  exact hw

end Sys2Proof.Machine
end

section
/-!
PROOFS. The end of a task (R111, R200): `done` and `done.j`, and what a slot that is free again leaves as it was.
-/
namespace Sys2Proof.Machine

open Sys2Proof

/-! ## What leaves a core with a decrement -/

@[simp] theorem post_cur (s : State) (m : Msg) : (s.post m).cur = s.cur := by
  unfold State.post
  split <;> rfl

@[simp] theorem sentPlain_cur (s : State) (p : Path) (dst : Nat) (req : Req) (rel : Bool) :
    (s.sentPlain p dst req rel).cur = s.cur := by
  unfold State.sentPlain State.sentOrHeld
  split
  · rfl
  · exact post_cur _ _

/-- A write to a counter block goes through where it may be sent or held. -/
theorem sendBlock_run {l : DmLoc} {req : Req} {rel : Bool} {s : State} (h : s.maySendPlain (s.pathTo l.home) rel) :
    sendBlock l req rel s = .ok ((), s.sentPlain (s.pathTo l.home) (homeEp l.home) req rel) := by
  unfold sendBlock State.sentPlain State.sentOrHeld
  rw [act_bind_ok (act_get s)]
  unfold State.maySendPlain at h
  split at h
  case isTrue hs =>
    rw [if_pos hs, if_pos hs, sendOrHold, act_bind_ok (act_get s), if_pos hs, holdA, act_bind_ok (act_get s),
      if_neg (Nat.not_le.mpr h), modMeA_run]
  case isFalse hs =>
    obtain ⟨hopen, hrel⟩ := h
    have hwait : (if rel then waitRecord else return () : Act Unit) s = .ok ((), s) := by
      cases rel with
      | false => rfl
      | true => exact waitRecord_run (hrel rfl)
    rw [if_neg hs, if_neg hs, act_bind_ok hwait, act_bind_ok (waitSend_run ⟨hopen, fun h => absurd h Bool.false_ne_true⟩),
      act_modify]
    rfl

theorem blockAccess_run {blk : BitVec 5} {l : DmLoc} {s : State}
    (h : Reads (dmAccess .atomic (s.me.w blk.toNat).toNat 256) s l s) : blockAccess blk s = .ok (l, s) := by
  rw [blockAccess, act_bind_ok (getMe_run s), h]

theorem finishTask_run (s : State) : finishTask s = .ok (.ended, endTask s s.cur) := rfl

/-! ## `done` and `done.j` -/

section
variable {c : Ctl} {s : State} {l : DmLoc}

theorem exec_done_ends (h : Ready c false { conflict := some 0x08 } s) (ho : s.me.owed = []) (hc : s.me.cont = 0#64) :
    exec (.done c) s = .next (endTask s s.cur) := by
  refine exec_ok (r := .ended) ((exec_done c s).trans (runScalar_eq ..)) h ?_
  rw [begun_none rfl, act_bind_ok (getMe_run s), if_pos hc, ho]
  exact finishTask_run s

/-- What both instructions do once the block is named: the decrement leaves, and the task ends. -/
theorem decrement_finishTask_run (h : s.maySendPlain (s.pathTo l.home) true) :
    (do sendBlock l (.decrement (.dm l)) true; finishTask : Act Ret) s =
      .ok (.ended, endTask (s.sentPlain (s.pathTo l.home) (homeEp l.home) (.decrement (.dm l)) true) s.cur) := by
  rw [act_bind_ok (sendBlock_run h), finishTask_run, sentPlain_cur]

theorem exec_done_decrements (h : Ready c false { conflict := some 0x08 } s) (ho : s.me.owed = [])
    (hc : s.me.cont ≠ 0#64) (hl : Reads (dmAccess .atomic s.me.cont.toNat 256) s l s)
    (hs : s.maySendPlain (s.pathTo l.home) true) : exec (.done c) s =
      .next (endTask (s.sentPlain (s.pathTo l.home) (homeEp l.home) (.decrement (.dm l)) true) s.cur) := by
  refine exec_ok (r := .ended) ((exec_done c s).trans (runScalar_eq ..)) h ?_
  rw [begun_none rfl, act_bind_ok (getMe_run s), if_neg hc, act_bind_ok hl, ho]
  exact decrement_finishTask_run hs

theorem exec_doneJ_decrements {a : BitVec 5} (h : Ready c false ((Uses.w a).and { conflict := some 0x08 }) s)
    (ho : s.me.owed = []) (hl : Reads (dmAccess .atomic (s.me.w a.toNat).toNat 256) s l s)
    (hs : s.maySendPlain (s.pathTo l.home) true) : exec (.doneJ c a) s =
      .next (endTask (s.sentPlain (s.pathTo l.home) (homeEp l.home) (.decrement (.dm l)) true) s.cur) := by
  refine exec_ok (r := .ended) ((exec_doneJ c a s).trans (runScalar_eq ..)) h ?_
  rw [begun_none rfl, act_bind_ok (blockAccess_run hl), act_bind_ok (getMe_run s), ho]
  exact decrement_finishTask_run hs

end

/-! ## Channels and routes settle: nothing but cores and routes changes (R291) -/

theorem feedChan_leaves (s : State) (core chan : Nat) :
    ∃ cs rs, feedChan s core chan = { s with cores := cs, routes := rs } := by
  unfold feedChan
  dsimp only
  split
  · split
    · exact ⟨_, _, rfl⟩
    · exact ⟨_, s.routes, rfl⟩
  · exact ⟨s.cores, s.routes, rfl⟩

theorem removeRoute_leaves (s : State) (r : Route) : ∃ cs rs, removeRoute s r = { s with cores := cs, routes := rs } := by
  unfold removeRoute
  dsimp only
  split
  · exact ⟨_, _, rfl⟩
  · exact ⟨s.cores, _, rfl⟩

theorem settleChan_leaves (core chan n : Nat) (s : State) :
    ∃ cs rs, settleChan core chan n s = { s with cores := cs, routes := rs } := by
  induction n generalizing s with
  | zero => exact ⟨s.cores, s.routes, rfl⟩
  | succ n ih =>
    obtain ⟨cs, rs, hfeed⟩ := feedChan_leaves s core chan
    unfold settleChan
    rw [hfeed]
    dsimp only
    split
    case h_1 => exact ⟨cs, rs, rfl⟩
    case h_2 id _ =>
      split
      case h_1 => exact ⟨cs, rs, rfl⟩
      case h_2 r _ =>
        obtain ⟨cs', rs', hremove⟩ := removeRoute_leaves { s with cores := cs, routes := rs } r
        rw [hremove]
        split
        · exact ⟨cs, rs, rfl⟩
        · split
          · exact ih _
          · exact ⟨cs, _, rfl⟩

theorem settle_leaves (s : State) (core chan : Nat) : ∃ cs rs, settle s core chan = { s with cores := cs, routes := rs } :=
  settleChan_leaves ..

/-! ## What the end of a task on a slot leaves as it was -/

/-- Nothing of the executing thread's number, of memory, or of any thread but `t` has changed. -/
structure KeepsOthers (t : Nat) (s s' : State) : Prop where
  cur : s'.cur = s.cur
  mem : s'.mem = s.mem
  thr : ∀ k, k ≠ t → s'.thr k = s.thr k

theorem KeepsOthers.refl (t : Nat) (s : State) : KeepsOthers t s s := ⟨rfl, rfl, fun _ _ => rfl⟩

theorem KeepsOthers.trans {t : Nat} {s s' s'' : State} (h : KeepsOthers t s s') (h' : KeepsOthers t s' s'') :
    KeepsOthers t s s'' :=
  ⟨h'.cur.trans h.cur, h'.mem.trans h.mem, fun k hk => (h'.thr k hk).trans (h.thr k hk)⟩

theorem keepsOthers_setThr (s : State) (t : Nat) (x : Thread) : KeepsOthers t s (s.setThr t x) :=
  ⟨rfl, rfl, fun _ hk => State.thr_setThr_ne s x hk.symm⟩

theorem keepsOthers_coresRoutes (t : Nat) (s : State) (cs : SMap Core) (rs : List Route) :
    KeepsOthers t s { s with cores := cs, routes := rs } := ⟨rfl, rfl, fun _ _ => rfl⟩

theorem settle_keepsOthers (t : Nat) (s : State) (core chan : Nat) : KeepsOthers t s (settle s core chan) := by
  obtain ⟨cs, rs, h⟩ := settle_leaves s core chan
  rw [h]
  exact keepsOthers_coresRoutes t s cs rs

theorem closePort_keepsOthers (s : State) (t k : Nat) : KeepsOthers t s (closePort s t k) := by
  have hport : ∀ cs rs, KeepsOthers t s { s.modThr t (fun x => x.setPort k .unbound) with cores := cs, routes := rs } :=
    fun cs rs => (keepsOthers_setThr s t _).trans (keepsOthers_coresRoutes t _ cs rs)
  unfold closePort
  split
  · exact KeepsOthers.refl t s
  · dsimp only
    split
    · exact (hport s.cores _).trans (settle_keepsOthers ..)
    · exact hport s.cores _
  · exact (hport _ _).trans (settle_keepsOthers ..)

theorem foldl_closePort_keepsOthers (t : Nat) (ks : List Nat) (s : State) :
    KeepsOthers t s (ks.foldl (fun s k => closePort s t k) s) := by
  induction ks generalizing s with
  | nil => exact KeepsOthers.refl t s
  | cons k ks ih => exact (closePort_keepsOthers s t k).trans (ih _)

theorem closePorts_keepsOthers (s : State) (t : Nat) : KeepsOthers t s (closePorts s t) :=
  foldl_closePort_keepsOthers t (List.range 8) s

theorem dropOut_keepsOthers (t : Nat) (s : State) : KeepsOthers t s (dropOut t s) := by
  unfold dropOut
  split
  · exact (keepsOthers_coresRoutes t s _ s.routes).trans (keepsOthers_setThr (lowerOut s (coreOf t)) t _)
  · exact KeepsOthers.refl t s

theorem freeSlot_keepsOthers (s : State) (t : Nat) : KeepsOthers t s (freeSlot s t) :=
  (dropOut_keepsOthers t s).trans
    ((keepsOthers_coresRoutes t (dropOut t s) _ (dropOut t s).routes).trans (keepsOthers_setThr _ t Thread.free))

@[simp] theorem freeSlot_thr_self (s : State) (t : Nat) : (freeSlot s t).thr t = Thread.free := State.thr_setThr_self ..

/-- The slot is free, but for the count of retired tasks that the resident core's partition keeps. -/
theorem endTask_eq (s : State) (t : Nat) : ∃ s3 ps,
    s3 = freeSlot (stopStreamCopies (closePorts s t) (s.thr t).part (s.thr t).task) t ∧
    endTask s t = { s3 with parts := ps } := by
  unfold endTask
  dsimp only
  generalize hs3 : freeSlot (stopStreamCopies (closePorts s t) (s.thr t).part (s.thr t).task) t = s3
  split
  · exact ⟨s3, _, rfl, rfl⟩
  · exact ⟨s3, s3.parts, rfl, rfl⟩

theorem endTask_thr_self (s : State) (t : Nat) : (endTask s t).thr t = Thread.free := by
  obtain ⟨s3, ps, hs3, h⟩ := endTask_eq s t
  have hfree : s3.thr t = Thread.free := by rw [hs3, freeSlot_thr_self]
  rw [h]
  exact hfree

theorem stopStreamCopies_keepsOthers (s : State) (p : Nat) (task : W64) (t : Nat) :
    KeepsOthers t s (stopStreamCopies s p task) := ⟨rfl, rfl, fun _ _ => rfl⟩

theorem endTask_keepsOthers (s : State) (t : Nat) : KeepsOthers t s (endTask s t) := by
  obtain ⟨s3, ps, hs3, h⟩ := endTask_eq s t
  have hfree : KeepsOthers t s s3 := by
    rw [hs3]
    exact ((closePorts_keepsOthers s t).trans (stopStreamCopies_keepsOthers _ _ _ t)).trans (freeSlot_keepsOthers _ t)
  rw [h]
  exact ⟨hfree.cur, hfree.mem, hfree.thr⟩

/-- Settles O30: the two instructions end in one body; then the slot that the task leaves. -/
theorem tasksEnd : Obligations.TasksEnd := by
  unfold Obligations.TasksEnd
  intro c s ho
  have hkeeps := endTask_keepsOthers s s.cur
  refine ⟨fun h => ⟨fun hc => exec_done_ends h ho hc, fun l hc hl hs => exec_done_decrements h ho hc hl hs⟩,
    fun a l h hl hs => exec_doneJ_decrements h ho hl hs, ?freed, hkeeps.thr, hkeeps.mem⟩
  rw [State.me, hkeeps.cur, endTask_thr_self]

end Sys2Proof.Machine
end

section
/-!
PROOFS. Lane arithmetic (R127 to R133): every lane instruction of one shape runs as its row says; the absolute value, the
negation and the clamp (R130, R131).
-/
namespace Sys2Proof.Machine

open Sys2Proof

/-! ## What a lane destination takes (R127) -/

theorem writeVNum_run (r : Nat) (g : W32) (ls : Lanes) (s : State) :
    writeVNum r g ls s = .ok ((), s.putLanes r g ls) := rfl

theorem writeVReg_run (d : VReg) (g : W32) (ls : Lanes) (s : State) :
    writeVReg d g ls s = .ok ((), s.putLanes (s.me.vIdx d) g ls) := rfl

theorem writeLanes_run (t : Ty) (d : VReg) (g : W32) (xs : List Nat) (s : State) :
    writeLanes t d g xs s = .ok ((), s.putLanes (s.me.vIdx d) g (xs.map (laneWord t))) := rfl

theorem writeLanesFl_run (t : Ty) (d : VReg) (g : W32) (xs : List (Nat × Fl)) (s : State) :
    writeLanesFl t d g xs s = .ok ((), s.putResults t d g xs) := by
  rw [writeLanesFl, act_bind_ok (writeLanes_run ..), raiseA_run, List.map_map]
  rfl

/-! ## The shapes -/

section
variable {c : Ctl} {t : Ty} {d : VReg} {a b : VSrc} {s s1 s2 s3 : State} {x y z : List Nat}

theorem laneBin_ready {f : Nat → Nat → Nat × Fl} (h : Ready c true (laneUses d a b) s)
    (hx : Reads (readLanes t a) (s.begun (laneUses d a b)) x s1) (hy : Reads (readLanes t b) s1 y s2) :
    laneBin c t d a b f s = .next (retire (s2.putResults t d (guardOf s.me c) (List.zipWith f x y)) .seq) := by
  unfold laneUses at h hx
  rw [laneBin, runLane_eq]
  refine ready_ok h ?_
  rw [act_bind_ok hx, act_bind_ok hy, act_bind_ok (writeLanesFl_run ..), act_pure]

/-- The source and the destination may be of two types. -/
theorem laneUn_ready {dt : Ty} {f : Nat → Nat × Fl} (h : Ready c true (lane1Uses d a) s)
    (hx : Reads (readLanes t a) (s.begun (lane1Uses d a)) x s1) :
    laneUn c dt t d a f s = .next (retire (s1.putResults dt d (guardOf s.me c) (x.map f)) .seq) := by
  unfold lane1Uses at h hx
  rw [laneUn, runLane_eq]
  refine ready_ok h ?_
  rw [act_bind_ok hx, act_bind_ok (writeLanesFl_run ..), act_pure]

theorem exec_vfma_ready (h : Ready c true (laneUses d a b) s)
    (hx : Reads (readLanes t a) (s.begun (laneUses d a b)) x s1) (hy : Reads (readLanes t b) s1 y s2)
    (hz : Reads (readLanes t (.reg d)) s2 z s3) :
    exec (.vfma c t d a b) s =
      .next (retire (s3.putResults t d (guardOf s.me c) (zip3 (fFma (tyFmt t)) z x y)) .seq) := by
  unfold laneUses at h hx
  refine exec_ok ((exec_vfma c t d a b s).trans (runLane_eq ..)) h ?_
  rw [act_bind_ok hx, act_bind_ok hy, act_bind_ok hz, act_bind_ok (writeLanesFl_run ..), act_pure]

end

/-! ## The rows -/

/-- Every row of `laneTwo` is the shape with two sources, with its result. -/
theorem exec_laneTwo {p : LaneRow} (hp : p ∈ laneTwo) (c : Ctl) (t : Ty) (d : VReg) (a b : VSrc) (s : State) :
    exec (p.1 c t d a b) s = laneBin c t d a b (p.2 t) s := by
  revert p
  simp only [laneTwo, List.forall_mem_cons, List.not_mem_nil, false_implies, implies_true, and_true]
  exact ⟨exec_vadd .., exec_vsub .., exec_vadd .., exec_vsub .., exec_vmul .., exec_vmulh .., exec_vmin .., exec_vmax ..,
    exec_vand .., exec_vor .., exec_vxor .., exec_vshl .., exec_vshr .., exec_vsar .., exec_vfadd .., exec_vfsub ..,
    exec_vfmul .., exec_vfmin .., exec_vfmax ..⟩

/-- Every row of `laneOne` is the shape with one source. -/
theorem exec_laneOne {p : (Ctl → Ty → VReg → VSrc → Instr) × (Ty → Nat → Nat × Fl)} (hp : p ∈ laneOne) (c : Ctl) (t : Ty)
    (d : VReg) (a : VSrc) (s : State) : exec (p.1 c t d a) s = laneUn c t t d a (p.2 t) s := by
  revert p
  simp only [laneOne, List.forall_mem_cons, List.not_mem_nil, false_implies, implies_true, and_true]
  exact ⟨exec_vabs .., exec_vneg .., exec_vrcp .., exec_vrsq .., exec_vexp2 .., exec_vlog2 .., exec_vmov ..⟩

/-! ## The elements of the integer types (R51, R130) -/

theorem tyFloat_of_tyIB {t : Ty} (h : tyIB t = true) : tyFloat t = false := by
  revert h
  cases t <;> decide

theorem elemInt_eq {t : Ty} (h : tyIB t = true) (x : Nat) :
    elemInt t x = if tyI t then (BitVec.ofNat (tyWidth t) x).toInt else ((BitVec.ofNat (tyWidth t) x).toNat : Int) := by
  rw [elemInt, tySigned_of_tyIB h, toSigned_eq_toInt (tyWidth_pos t), BitVec.toNat_ofNat]

/-- The low bits of an integer are the library's. -/
theorem wrapInt_eq_toNat (n : Nat) (v : Int) : wrapInt n v = (BitVec.ofInt n v).toNat := (BitVec.toNat_ofInt v).symm

theorem intRange_eq {t : Ty} (h : tyIB t = true) : intRange t =
    (if tyI t then -2 ^ (tyWidth t - 1) else 0, if tyI t then 2 ^ (tyWidth t - 1) - 1 else 2 ^ tyWidth t - 1) := by
  revert h
  cases t <;> decide

theorem clampInt_eq {t : Ty} (h : tyIB t = true) (v : Int) :
    let lo : Int := if tyI t then -2 ^ (tyWidth t - 1) else 0
    let hi : Int := if tyI t then 2 ^ (tyWidth t - 1) - 1 else 2 ^ tyWidth t - 1
    clampInt t v = if v < lo then ((BitVec.ofInt (tyWidth t) lo).toNat, flOF)
      else if hi < v then ((BitVec.ofInt (tyWidth t) hi).toNat, flOF) else ((BitVec.ofInt (tyWidth t) v).toNat, 0#7) := by
  simp only [clampInt, intRange_eq h, wrapInt_eq_toNat]

/-! ## Absolute value and negation (R130, R131) -/

section
variable {t : Ty}

theorem ofInt_elemInt (h : tyIB t = true) (x : Nat) :
    BitVec.ofInt (tyWidth t) (elemInt t x) = BitVec.ofNat (tyWidth t) x := by
  rw [elemInt_eq h x]
  split
  · exact BitVec.ofInt_toInt
  · rw [BitVec.ofInt_natCast, BitVec.ofNat_toNat, BitVec.setWidth_eq]

theorem vnegOp_eq (h : tyIB t = true) (x : Nat) : vnegOp t x = (-BitVec.ofNat (tyWidth t) x).toNat := by
  rw [vnegOp, tyFloat_of_tyIB h, if_neg Bool.false_ne_true, wrapInt_eq_toNat, BitVec.ofInt_neg, ofInt_elemInt h x]

/-- Only an element of `.iN` with its highest bit set is negative. -/
theorem elemInt_neg_iff (h : tyIB t = true) (x : Nat) :
    elemInt t x < 0 ↔ (tyI t && (BitVec.ofNat (tyWidth t) x).msb) = true := by
  rw [elemInt_eq h x]
  cases tyI t with
  | true => simp [BitVec.msb_eq_toInt]
  | false => exact iff_of_false (Int.not_lt.mpr (Int.natCast_nonneg _)) Bool.false_ne_true

theorem vabsOp_eq (h : tyIB t = true) {x : Nat} (hx : x < 2 ^ tyWidth t) : vabsOp t x =
    if tyI t && (BitVec.ofNat (tyWidth t) x).msb then (-BitVec.ofNat (tyWidth t) x).toNat else x := by
  rw [vabsOp, tyFloat_of_tyIB h, if_neg Bool.false_ne_true, wrapInt_eq_toNat]
  by_cases hneg : elemInt t x < 0
  · rw [if_pos ((elemInt_neg_iff h x).mp hneg), Int.ofNat_natAbs_of_nonpos (by omega), BitVec.ofInt_neg,
      ofInt_elemInt h x]
  · rw [if_neg (mt (elemInt_neg_iff h x).mpr hneg), Int.natAbs_of_nonneg (by omega), ofInt_elemInt h x,
      BitVec.toNat_ofNat, Nat.mod_eq_of_lt hx]

end

theorem tyFloat_of_tyF2 {t : Ty} (h : tyF2 t = true) : tyFloat t = true := by
  revert h
  cases t <;> decide

/-- A float's absolute value is without its sign bit. -/
theorem vabsOp_testBit {t : Ty} (h : tyF2 t = true) (x i : Nat) :
    (vabsOp t x).testBit i = (decide (i < tyWidth t - 1) && x.testBit i) := by
  rw [vabsOp, if_pos (tyFloat_of_tyF2 h), Nat.testBit_mod_two_pow]

/-- A float's negation has its sign bit inverted. -/
theorem vnegOp_testBit {t : Ty} (h : tyF2 t = true) (x i : Nat) :
    (vnegOp t x).testBit i = (x.testBit i != decide (i = tyWidth t - 1)) := by
  rw [vnegOp, if_pos (tyFloat_of_tyF2 h), Nat.testBit_xor, Nat.testBit_two_pow]
  simp only [eq_comm, bne]

/-- Settles O18: the rows by their shape, broadcast and conversion by the shape with one source, and the values. -/
theorem laneArithmetic : Obligations.LaneArithmetic := by
  unfold Obligations.LaneArithmetic
  refine ⟨⟨fun p hp c t d a b s s1 s2 x y h hx hy => ?two, fun p hp c t d a s s1 x h hx => ?one,
      fun c t d a s s1 x h hx => ?vbcast, fun c dt st m d a s s1 x h hx => ?vcvt,
      fun c t d a b s s1 s2 s3 x y z h hx hy hz => exec_vfma_ready h hx hy hz⟩,
    fun t ht x hx => ⟨elemInt_eq ht x, vabsOp_eq ht hx, vnegOp_eq ht x⟩,
    fun t ht x i => ⟨vabsOp_testBit ht x i, vnegOp_testBit ht x i⟩, fun t ht v => clampInt_eq ht v⟩
  case two =>
    rw [exec_laneTwo hp]
    exact laneBin_ready h hx hy
  case one =>
    rw [exec_laneOne hp]
    exact laneUn_ready h hx
  case vbcast =>
    rw [exec_vbcast]
    exact laneUn_ready h hx
  case vcvt =>
    rw [exec_vcvt]
    exact laneUn_ready h hx

end Sys2Proof.Machine
end

section
/-!
PROOFS. Moves of lanes (R134 to R136): selection, broadcast, index vectors, `vperm` and `vshuf`, and the source lane of each
pattern.
-/
namespace Sys2Proof.Machine

open Sys2Proof

/-! ## Moves (R134) -/

theorem laneNum_run (j : WI) (s : State) : laneNum j s = .ok ((wiVal s.me j).toNat % 32, s) := by
  rw [laneNum, act_bind_ok (readWI_run j s), act_pure]

section
variable {c : Ctl} {t : Ty} {d : VReg} {s s1 s2 : State}

theorem exec_vsel_selects {a b : VSrc} {x y : List Nat} (h : Ready c true (laneUses d a b) s)
    (hx : Reads (readLanes t a) (s.begun (laneUses d a b)) x s1) (hy : Reads (readLanes t b) s1 y s2) (k : BitVec 4) :
    exec (.vsel c t k d a b) s = .next (retire (s2.putLanes (s2.me.vIdx d) (guardOf s.me c)
      ((pickLanes (s2.me.pred k.toNat) 0 x y).map (laneWord t))) .seq) := by
  unfold laneUses at h hx
  refine exec_ok ((exec_vsel c t k d a b s).trans (runLane_eq ..)) h ?_
  rw [act_bind_ok hx, act_bind_ok hy, act_bind_ok (getMe_run s2), act_bind_ok (writeLanes_run ..), act_pure]

theorem exec_vbcastLane_broadcasts {a : VV} {j : WI} {x : Lanes}
    (h : Ready c true (((Uses.vr d).and (Uses.vv a)).and (Uses.wi j)) s)
    (hx : Reads (readVV a) (s.begun (((Uses.vr d).and (Uses.vv a)).and (Uses.wi j))) x s1) :
    exec (.vbcastLane c t d a j) s = .next (retire (s1.putLanes (s1.me.vIdx d) (guardOf s.me c)
      (List.replicate 32 (laneWord t ((x.getD ((wiVal s1.me j).toNat % 32) 0#32).toNat % 2 ^ tyWidth t)))) .seq) := by
  refine exec_ok ((exec_vbcastLane c t d a j s).trans (runLane_eq ..)) h ?_
  rw [act_bind_ok hx, act_bind_ok (laneNum_run j s1), act_bind_ok (writeLanes_run ..), act_pure, List.map_replicate]

theorem exec_vidx_counts (h : Ready c true (Uses.vr d) s) : exec (.vidx c t d) s =
    .next (retire (s.putLanes (s.me.vIdx d) (guardOf s.me c) ((List.range 32).map (laneWord t))) .seq) := by
  refine exec_ok ((exec_vidx c t d s).trans (runLane_eq ..)) h ?_
  rw [begun_none rfl, act_bind_ok (writeLanes_run ..), act_pure]

theorem exec_vidxStep_counts {a b : Src} {x y : List Nat}
    (h : Ready c true (((Uses.vr d).and (Uses.src a)).and (Uses.src b)) s)
    (hx : Reads (readScLanes t a) (s.begun (((Uses.vr d).and (Uses.src a)).and (Uses.src b))) x s1)
    (hy : Reads (readScLanes t b) s1 y s2) :
    exec (.vidxStep c t d a b) s = .next (retire (s2.putLanes (s2.me.vIdx d) (guardOf s.me c)
      ((List.range 32).map (fun i => laneWord t ((x.getD i 0 + i * y.getD i 0) % 2 ^ tyWidth t)))) .seq) := by
  refine exec_ok ((exec_vidxStep c t d a b s).trans (runLane_eq ..)) h ?_
  rw [act_bind_ok hx, act_bind_ok hy, act_bind_ok (writeLanes_run ..), act_pure, List.map_map]
  rfl

/-! ## The permute network (R135, R136) -/

theorem exec_vperm_permutes {a b : VV} {x y : Lanes} (h : Ready c true (((Uses.vr d).and (Uses.vv a)).and (Uses.vv b)) s)
    (hx : Reads (readVV a) (s.begun (((Uses.vr d).and (Uses.vv a)).and (Uses.vv b))) x s1)
    (hy : Reads (readVV b) s1 y s2) :
    exec (.vperm c d a b) s = .next (retire (s2.putLanes (s2.me.vIdx d) (guardOf s.me c)
      (y.map (fun k => laneOr0 x (k.toNat % 256)))) .seq) := by
  refine exec_ok ((exec_vperm c d a b s).trans (runLane_eq ..)) h ?_
  rw [act_bind_ok hx, act_bind_ok hy, act_bind_ok (writeVReg_run ..), act_pure]

/-- A pattern without a count. -/
theorem exec_vshuf_fixed {pat : Shuf} {a : VV} {x : Lanes} (hk : shufK pat = none)
    (h : Ready c true (((Uses.vr d).and (Uses.vv a)).and Uses.none) s)
    (hx : Reads (readVV a) (s.begun (((Uses.vr d).and (Uses.vv a)).and Uses.none)) x s1) :
    exec (.vshuf c pat d a) s = .next (retire (s1.putLanes (s1.me.vIdx d) (guardOf s.me c)
      ((List.range 32).map (fun i => laneOr0 x (shufSrc pat 0 i)))) .seq) := by
  rw [exec_vshuf, execVshuf, hk, runLane_eq]
  refine ready_ok h ?_
  rw [act_bind_ok hx, act_bind_ok (act_pure 0 s1), act_bind_ok (writeVReg_run ..), act_pure]

/-- A pattern with a count. -/
theorem exec_vshuf_counted {pat : Shuf} {k : WI} {a : VV} {x : Lanes} (hk : shufK pat = some k)
    (h : Ready c true (((Uses.vr d).and (Uses.vv a)).and (Uses.wi k)) s)
    (hx : Reads (readVV a) (s.begun (((Uses.vr d).and (Uses.vv a)).and (Uses.wi k))) x s1) :
    exec (.vshuf c pat d a) s = .next (retire (s1.putLanes (s1.me.vIdx d) (guardOf s.me c)
      ((List.range 32).map (fun i => laneOr0 x (shufSrc pat ((wiVal s1.me k).toNat % 32) i)))) .seq) := by
  rw [exec_vshuf, execVshuf, hk, runLane_eq]
  refine ready_ok h ?_
  rw [act_bind_ok hx, act_bind_ok (laneNum_run k s1), act_bind_ok (writeVReg_run ..), act_pure]

end

/-! ## The source lanes of the patterns (R136) -/

section
variable {n : WI} {k i : Nat}

theorem shufSrc_shd_within (h : i + k < 32) : shufSrc (.shd n) k i = i + k := if_neg (Nat.not_le.mpr h)
theorem shufSrc_shd_beyond (h : 32 ≤ i + k) : shufSrc (.shd n) k i = 32 := if_pos h
theorem shufSrc_shu_within (h : k ≤ i) : shufSrc (.shu n) k i = i - k := if_neg (Nat.not_lt.mpr h)
theorem shufSrc_shu_beyond (h : i < k) : shufSrc (.shu n) k i = 32 := if_pos h

theorem shufSrc_xor (hk : k < 32) (hi : i < 32) :
    shufSrc (.xor n) k i = (BitVec.ofNat 5 i ^^^ BitVec.ofNat 5 k).toNat := by
  rw [BitVec.toNat_xor, BitVec.toNat_ofNat, BitVec.toNat_ofNat, Nat.mod_eq_of_lt hi, Nat.mod_eq_of_lt hk]
  rfl

theorem shufSrc_unzip (k i : Nat) : shufSrc .unzip k i = 2 * i % 32 + (if 16 ≤ i then 1 else 0) := rfl
theorem shufSrc_zip (k i : Nat) : shufSrc .zip k i = i / 2 + 16 * (i % 2) := rfl

/-- The even lanes come to the lower half, and the odd lanes to the upper. -/
theorem shufSrc_unzip_halves (k : Nat) (hi : i < 16) :
    shufSrc .unzip k i = 2 * i ∧ shufSrc .unzip k (16 + i) = 2 * i + 1 := by
  rw [shufSrc_unzip, shufSrc_unzip, if_neg (by omega), if_pos (by omega)]
  omega

/-- The lower half comes to the even lanes, and the upper half to the odd ones. -/
theorem shufSrc_zip_halves (k i : Nat) :
    shufSrc .zip k (2 * i) = i ∧ shufSrc .zip k (2 * i + 1) = 16 + i := by
  rw [shufSrc_zip, shufSrc_zip]
  omega

theorem shufSrc_zip_unzip (k : Nat) (hi : i < 32) : shufSrc .zip k (shufSrc .unzip k i) = i := by
  rw [shufSrc_zip, shufSrc_unzip]
  split <;> omega

theorem shufSrc_unzip_zip (k : Nat) (hi : i < 32) : shufSrc .unzip k (shufSrc .zip k i) = i := by
  obtain ⟨j, rfl | rfl⟩ : ∃ j, i = 2 * j ∨ i = 2 * j + 1 := ⟨i / 2, by omega⟩
  · rw [(shufSrc_zip_halves k j).1, (shufSrc_unzip_halves k (by omega)).1]
  · rw [(shufSrc_zip_halves k j).2, (shufSrc_unzip_halves k (by omega)).2]

end

/-- Settles O19: each instruction by its equation, `vshuf` with and without a count; then the patterns. -/
theorem laneMoves : Obligations.LaneMoves := by
  unfold Obligations.LaneMoves
  refine ⟨fun c d s s1 s2 => ⟨fun t k a b x y h hx hy => exec_vsel_selects h hx hy k,
      fun t a j x h hx => exec_vbcastLane_broadcasts h hx, fun t h => exec_vidx_counts h,
      fun t a b x y h hx hy => exec_vidxStep_counts h hx hy, fun a b x y h hx hy => exec_vperm_permutes h hx hy,
      fun pat a x h hx => ?vshuf⟩,
    fun k i n hk hi => ⟨rfl, rfl, shufSrc_shd_within, fun h => Nat.le_of_eq (shufSrc_shd_beyond h).symm, shufSrc_shu_within,
      fun h => Nat.le_of_eq (shufSrc_shu_beyond h).symm, shufSrc_xor hk hi, fun h => ?halves, shufSrc_zip_unzip k hi,
      shufSrc_unzip_zip k hi, rfl, rfl, rfl, rfl⟩⟩
  case vshuf =>
    cases hk : shufK pat with
    | none =>
      rw [hk] at h hx
      exact exec_vshuf_fixed hk h hx
    | some k =>
      rw [hk] at h hx
      exact exec_vshuf_counted hk h hx
  case halves =>
    obtain ⟨hlow, hhigh⟩ := shufSrc_unzip_halves k h
    exact ⟨hlow, hhigh, shufSrc_zip_halves k i⟩

end Sys2Proof.Machine
end

section
/-!
PROOFS. The lane networks run: `vred` and `vscan` (R137), `vpack` and `vunpack` (R138, R139), `vgath` and `vscat` (R140).
-/
namespace Sys2Proof.Machine

open Sys2Proof

section
variable {c : Ctl} {op : RedOp} {t : Ty} {s s1 s2 s3 : State}

theorem exec_vred_reduces {d : BitVec 5} {a : VV} {x : Lanes} (h : Ready c true ((Uses.w d).and (Uses.vv a)) s)
    (hx : Reads (readVV a) (s.begun ((Uses.w d).and (Uses.vv a))) x s1) :
    let r := redTree op t 5 (redElems op t (guardOf s.me c) x)
    exec (.vred c op t d a) s = .next (retire ((s1.modMe (fun th => th.setW d.toNat (result64 t (r.1.headD 0)))).modMe
      (fun th => th.raise r.2)) .seq) := by
  refine exec_ok ((exec_vred c op t d a s).trans (runLane_eq ..)) h ?_
  rw [act_bind_ok hx, act_bind_ok (setWA_run d _ s1), act_bind_ok (raiseA_run _ _), act_pure]

theorem exec_vscan_scans {d : VReg} {a : VV} {x : Lanes} (h : Ready c true ((Uses.vr d).and (Uses.vv a)) s)
    (hx : Reads (readVV a) (s.begun ((Uses.vr d).and (Uses.vv a))) x s1) :
    exec (.vscan c op t d a) s = .next (retire (s1.putResults t d (guardOf s.me c)
      (scanAll op t [1, 2, 4, 8, 16] (redElems op t (guardOf s.me c) x))) .seq) := by
  refine exec_ok ((exec_vscan c op t d a s).trans (runLane_eq ..)) h ?_
  rw [act_bind_ok hx, act_bind_ok (writeLanesFl_run ..), act_pure]

theorem exec_vpack_packs {d a : VReg} {xs : List Lanes} {u : Uses}
    (hu : u = ((Uses.ty t).and (Uses.vr d)).and (Uses.group a (packF t))) (h : Ready c true u s)
    (hx : Reads (readGroup ((s.begun u).me.vIdx a) (packF t)) (s.begun u) xs s1) :
    exec (.vpack c t d a) s = .next (retire (s1.putLanes (s1.me.vIdx d) (guardOf s.me c)
      ((List.range 32).map (packLane t xs))) .seq) := by
  subst hu
  refine exec_ok ((exec_vpack c t d a s).trans (runLane_eq ..)) h ?_
  rw [act_bind_ok (getMe_run _), act_bind_ok hx, act_bind_ok (writeVReg_run ..), act_pure]

theorem exec_vunpack_unpacks {d : VReg} {a : VV} {x : Lanes} {u : Uses} {rs : List (List (W32 × Fl))}
    (hu : u = ((Uses.ty t).and (Uses.group d (packF t))).and (Uses.vv a))
    (hrs : rs = (List.range (packF t)).map (unpackReg t x)) (h : Ready c true u s)
    (hx : Reads (readVV a) (s.begun u) x s1)
    (hw : Reads (writeGroup (s1.me.vIdx d) (guardOf s.me c) (rs.map (fun r => r.map (·.1)))) s1 () s2) :
    exec (.vunpack c t d a) s = .next (retire (s2.modMe (fun th => th.raise
      (rs.foldl (fun f r => f ||| maskFlags (guardOf s.me c) 0 (r.map (·.2))) 0#7))) .seq) := by
  subst hu hrs
  refine exec_ok ((exec_vunpack c t d a s).trans (runLane_eq ..)) h ?_
  rw [act_bind_ok hx, act_bind_ok (getMe_run s1), act_bind_ok hw, act_bind_ok (raiseA_run _ s2), act_pure]

theorem exec_vgath_gathers {l : BitVec 8} {d tab : VReg} {idx : VV} {xs : List Lanes} {x : Lanes} {u : Uses}
    (hu : u = ((Uses.vr d).and (Uses.group tab (l.toNat + 1))).and (Uses.vv idx)) (h : Ready c true u s)
    (hxs : Reads (readGroup ((s.begun u).me.vIdx tab) (l.toNat + 1)) (s.begun u) xs s1) (hx : Reads (readVV idx) s1 x s2) :
    let r := (List.range 32).map (gatherLane xs x)
    exec (.vgath c l d tab idx) s = .next (retire ((s2.putLanes (s2.me.vIdx d) (guardOf s.me c) (r.map (·.1))).modMe
      (fun th => th.raise (maskFlags (guardOf s.me c) 0 (r.map (·.2))))) .seq) := by
  subst hu
  refine exec_ok ((exec_vgath c l d tab idx s).trans (runLane_eq ..)) h ?_
  rw [act_bind_ok (getMe_run _), act_bind_ok hxs, act_bind_ok hx, act_bind_ok (writeVReg_run ..),
    act_bind_ok (raiseA_run _ _), act_pure]

theorem exec_vscat_scatters {l : BitVec 8} {tab : VReg} {idx : VV} {a : VSrc} {x : Lanes} {y : List Nat} {u : Uses}
    (hu : u = ((Uses.group tab (l.toNat + 1)).and (Uses.vv idx)).and (Uses.vsrc a)) (h : Ready c true u s)
    (hx : Reads (readVV idx) (s.begun u) x s1) (hy : Reads (readLanes .b32 a) s1 y s2)
    (hw : Reads (scatter (s2.me.vIdx tab) (guardOf s.me c) x (y.map w32) (l.toNat + 1)) s2 () s3) :
    exec (.vscat c l tab idx a) s = .next (retire (s3.modMe (fun th => th.raise
      (maskFlags (guardOf s.me c) 0 (x.map (fun k => if k.toNat < l.toNat + 1 then 0#7 else flOOB))))) .seq) := by
  subst hu
  refine exec_ok ((exec_vscat c l tab idx a s).trans (runLane_eq ..)) h ?_
  rw [act_bind_ok hx, act_bind_ok hy, act_bind_ok (getMe_run s2), act_bind_ok hw, act_bind_ok (raiseA_run _ s3), act_pure]

end

end Sys2Proof.Machine
end

section
/-!
PROOFS. Reductions and scans (R70 to R72, R137): the elements that enter, a level of the tree, a step of the scan, and the
operations with their identities.
-/
namespace Sys2Proof.Machine

open Sys2Proof

/-! ## The elements that enter (R72) -/

theorem pickLanes_length (m : W32) (i : Nat) (xs ys : List Nat) (h : xs.length = ys.length) :
    (pickLanes m i xs ys).length = xs.length := by
  induction xs generalizing i ys with
  | nil => rfl
  | cons x xs ih =>
    cases ys with
    | nil => exact absurd h (Nat.succ_ne_zero _)
    | cons y ys => rw [pickLanes, List.length_cons, ih (i + 1) ys (Nat.succ.inj h), List.length_cons]

theorem pickLanes_getD (m : W32) (i : Nat) (xs ys : List Nat) {j : Nat} (hx : j < xs.length) (hy : j < ys.length) :
    (pickLanes m i xs ys).getD j 0 = if m.getLsbD (i + j) then xs.getD j 0 else ys.getD j 0 := by
  induction xs generalizing i ys j with
  | nil => exact absurd hx (Nat.not_lt_zero j)
  | cons x xs ih =>
    cases ys with
    | nil => exact absurd hy (Nat.not_lt_zero j)
    | cons y ys =>
      cases j with
      | zero => rfl
      | succ j =>
        rw [show i + (j + 1) = i + 1 + j by omega]
        exact ih (i + 1) ys (Nat.lt_of_succ_lt_succ hx) (Nat.lt_of_succ_lt_succ hy)

section
variable (op : RedOp) (t : Ty) (g : W32) {x : Lanes}

theorem redElems_length (hx : x.length = 32) : (redElems op t g x).length = 32 := by
  rw [redElems, pickLanes_length _ _ _ _ (by simp [hx]), List.length_map, hx]

/-- A suppressed lane counts as the identity of the operation. -/
theorem redElems_getD (hx : x.length = 32) {i : Nat} (hi : i < 32) : (redElems op t g x).getD i 0 =
    if g.getLsbD i then (x.getD i 0#32).toNat % 2 ^ tyWidth t else redIdentity op t := by
  have hidentity : (List.replicate 32 (redIdentity op t)).getD i 0 = redIdentity op t := by
    rw [List.getD_eq_getElem?_getD, List.getElem?_replicate, if_pos hi, Option.getD_some]
  rw [redElems, pickLanes_getD _ _ _ _ (by simp [hx, hi]) (by rw [List.length_replicate]; exact hi), Nat.zero_add,
    hidentity]
  simp [List.getD_eq_getElem?_getD, hx, hi]

end

/-! ## The tree (R70) -/

/-- What a level of the tree makes of its pair number j. -/
def levelPair (op : RedOp) (t : Ty) (l : List Nat) (j : Nat) : Nat × Fl :=
  redOp op t (l.getD (2 * j) 0) (l.getD (2 * j + 1) 0)

/-- The results of a level's pairs, and the union of their flags. -/
theorem redLevel_eq (op : RedOp) (t : Ty) (l : List Nat) (h : l.length % 2 = 0) :
    redLevel op t l = ((List.range (l.length / 2)).map (fun j => (levelPair op t l j).1),
      (List.range (l.length / 2)).foldr (fun j f => (levelPair op t l j).2 ||| f) 0#7) := by
  match l with
  | [] => rfl
  | [_] => exact absurd h Nat.one_ne_zero
  | a :: b :: rest =>
    have hhalf : (a :: b :: rest).length / 2 = rest.length / 2 + 1 := by simp only [List.length_cons]; omega
    have hrest : rest.length % 2 = 0 := by simp only [List.length_cons] at h; omega
    rw [hhalf, List.range_succ_eq_map, List.map_cons, List.foldr_cons, List.map_map, List.foldr_map, redLevel,
      redLevel_eq op t rest hrest]
    rfl

theorem getLsbD_foldr_or {α : Type} (f : α → Fl) (l : List α) (b : Nat) :
    (l.foldr (fun j g => f j ||| g) 0#7).getLsbD b = l.any (fun j => (f j).getLsbD b) := by
  induction l with
  | nil => simp
  | cons j l ih => rw [List.foldr_cons, BitVec.getLsbD_or, ih, List.any_cons]

section
variable (op : RedOp) (t : Ty) {l : List Nat} (h : l.length % 2 = 0)
include h

theorem redLevel_length : (redLevel op t l).1.length = l.length / 2 := by
  rw [redLevel_eq op t l h, List.length_map, List.length_range]

theorem redLevel_getD {j : Nat} (hj : j < l.length / 2) : (redLevel op t l).1.getD j 0 = (levelPair op t l j).1 := by
  rw [redLevel_eq op t l h]
  simp [List.getD_eq_getElem?_getD, hj]

theorem redLevel_flags (b : Nat) : (redLevel op t l).2.getLsbD b =
    (List.range (l.length / 2)).any (fun j => (levelPair op t l j).2.getLsbD b) := by
  rw [redLevel_eq op t l h, getLsbD_foldr_or]

end

/-! ## The scan (R71) -/

section
variable (op : RedOp) (t : Ty) {d : Nat} {l : List (Nat × Fl)}

theorem scanStep_length (hd : d ≤ l.length) : (scanStep op t d l).length = l.length := by
  rw [scanStep, List.length_append, List.length_take, List.length_zipWith, List.length_drop]
  omega

/-- A lane below the distance keeps its element; any other is combined with the one that far below it. -/
theorem scanStep_getD {i : Nat} (hi : i < l.length) : (scanStep op t d l).getD i (0, 0#7) =
    if i < d then l.getD i (0, 0#7) else
      ((redOp op t (l.getD (i - d) (0, 0#7)).1 (l.getD i (0, 0#7)).1).1,
        (l.getD i (0, 0#7)).2 ||| (redOp op t (l.getD (i - d) (0, 0#7)).1 (l.getD i (0, 0#7)).1).2) := by
  unfold scanStep
  split
  case isTrue hlow =>
    rw [List.getD_eq_getElem?_getD, List.getElem?_append_left (by rw [List.length_take]; omega),
      List.getElem?_take_of_lt hlow, List.getD_eq_getElem?_getD]
  case isFalse hhigh =>
    have hd : d ≤ l.length := by omega
    have hfrom : d + (i - d) = i := by omega
    have hbelow : i - d < l.length := by omega
    rw [List.getD_eq_getElem?_getD, List.getElem?_append_right (by rw [List.length_take]; omega), List.length_take,
      Nat.min_eq_left hd]
    simp [List.getD_eq_getElem?_getD, List.getElem?_zipWith, hfrom, hi, hbelow]

theorem scanAll_append (ds : List Nat) (d : Nat) (l : List Nat) :
    scanAll op t (ds ++ [d]) l = scanStep op t d (scanAll op t ds l) := by
  rw [scanAll, List.foldl_append]
  rfl

end

/-! ## The operations and their identities (R72, R137) -/

section
variable {t : Ty} (h : tyIB t = true)
include h

theorem redOp_minMax_int (x y : Nat) :
    redOp .min t x y = (iMin t x y, 0#7) ∧ redOp .max t x y = (iMax t x y, 0#7) := by
  have hf : ¬ tyFloat t = true := by rw [tyFloat_of_tyIB h]; exact Bool.false_ne_true
  exact ⟨if_neg hf, if_neg hf⟩

theorem redOp_add_int (x y : Nat) : redOp .add t x y = ((x + y) % 2 ^ tyWidth t, 0#7) := by
  have hf : ¬ tyFloat t = true := by rw [tyFloat_of_tyIB h]; exact Bool.false_ne_true
  have hadd : redOp .add t x y = (wrapInt (tyWidth t) (elemInt t x + elemInt t y), 0#7) := if_neg hf
  rw [hadd, wrapInt_eq_toNat, BitVec.ofInt_add, ofInt_elemInt h, ofInt_elemInt h, ← BitVec.ofNat_add, BitVec.toNat_ofNat]

theorem redIdentity_add_int : redIdentity .add t = 0 := by
  rw [redIdentity, tyFloat_of_tyIB h]
  rfl

/-- The identities of the other two operations are the ends of the type's range. -/
theorem elemInt_redIdentity_min : elemInt t (redIdentity .min t) = (intRange t).2 := by
  revert h
  cases t <;> decide

theorem elemInt_redIdentity_max : elemInt t (redIdentity .max t) = (intRange t).1 := by
  revert h
  cases t <;> decide

/-- An element lies in the range of its type (R51). -/
theorem elemInt_mem_intRange (x : Nat) : (intRange t).1 ≤ elemInt t x ∧ elemInt t x ≤ (intRange t).2 := by
  have hpos := tyWidth_pos t
  rw [elemInt_eq h x, intRange_eq h]
  generalize BitVec.ofNat (tyWidth t) x = a
  cases tyI t with
  | true =>
    have hlow := BitVec.le_toInt a
    have hhigh := BitVec.toInt_lt (x := a)
    simp only [if_true]
    omega
  | false =>
    have hlt : (a.toNat : Int) < 2 ^ tyWidth t := by exact_mod_cast a.isLt
    simp only [Bool.false_eq_true, if_false]
    omega

theorem iMin_redIdentity (x : Nat) : iMin t x (redIdentity .min t) = x := by
  rw [iMin, elemInt_redIdentity_min h, if_pos (elemInt_mem_intRange h x).2]

theorem iMax_redIdentity (y : Nat) : iMax t (redIdentity .max t) y = y := by
  rw [iMax, elemInt_redIdentity_max h, if_pos (elemInt_mem_intRange h y).1]

end

section
variable {t : Ty} (h : tyFloat t = true)
include h

theorem redOp_float (x y : Nat) : redOp .add t x y = fAdd (tyFmt t) x y ∧
    redOp .min t x y = (fMinMax false (tyFmt t) x y, 0#7) ∧ redOp .max t x y = (fMinMax true (tyFmt t) x y, 0#7) :=
  ⟨if_pos h, if_pos h, if_pos h⟩

/-- The identity of a float sum is −0. -/
theorem fdec_redIdentity_add : fdec (tyFmt t) (redIdentity .add t) = .fin true 0 (tyFmt t).qmin := by
  revert h
  cases t <;> decide

/-- The identities of the float minimum and maximum are the infinities, where the format has them. -/
theorem fdec_redIdentity_minMax (h4 : t ≠ .fp8e4) :
    fdec (tyFmt t) (redIdentity .min t) = .inf false ∧ fdec (tyFmt t) (redIdentity .max t) = .inf true := by
  revert h h4
  cases t <;> decide

end

end Sys2Proof.Machine
end

section
/-!
PROOFS. Packed elements (R52, R53, R138, R139): the bits that are packed, the elements that are unpacked, and the values of an
INT4X byte.
-/
namespace Sys2Proof.Machine

open Sys2Proof

/-! ## Packing (R138) -/

/-- The number whose `n` lowest digits of `w` bits are the low bits of `f 0`, `f 1` and so on. -/
def digitSum (w : Nat) (f : Nat → Nat) (n : Nat) : Nat :=
  (List.range n).foldl (fun acc m => acc + f m % 2 ^ w * 2 ^ (w * m)) 0

/-- One digit more is the highest. -/
theorem digitSum_succ (w : Nat) (f : Nat → Nat) (n : Nat) :
    digitSum w f (n + 1) = 2 ^ (w * n) * (f n % 2 ^ w) + digitSum w f n := by
  rw [digitSum, List.range_succ, List.foldl_append, Nat.add_comm, Nat.mul_comm]
  rfl

theorem digitSum_lt (w : Nat) (f : Nat → Nat) (n : Nat) : digitSum w f n < 2 ^ (w * n) := by
  induction n with
  | zero => exact Nat.one_pos
  | succ n ih =>
    have hdigit : f n % 2 ^ w + 1 ≤ 2 ^ w := Nat.mod_lt _ (Nat.two_pow_pos w)
    calc digitSum w f (n + 1) = 2 ^ (w * n) * (f n % 2 ^ w) + digitSum w f n := digitSum_succ w f n
      _ < 2 ^ (w * n) * (f n % 2 ^ w + 1) := by rw [Nat.mul_succ]; omega
      _ ≤ 2 ^ (w * n) * 2 ^ w := Nat.mul_le_mul_left _ hdigit
      _ = 2 ^ (w * (n + 1)) := by rw [← Nat.pow_add, Nat.mul_succ]

theorem digitSum_testBit {w : Nat} (f : Nat → Nat) {n m b : Nat} (hm : m < n) (hb : b < w) :
    (digitSum w f n).testBit (w * m + b) = (f m).testBit b := by
  induction n with
  | zero => exact absurd hm (Nat.not_lt_zero m)
  | succ n ih =>
    rw [digitSum_succ, Nat.testBit_two_pow_mul_add _ (digitSum_lt w f n)]
    obtain hlt | rfl := Nat.lt_succ_iff_lt_or_eq.mp hm
    · have hbelow : w * m + b < w * n := by
        have := Nat.mul_le_mul_left w (Nat.succ_le_of_lt hlt)
        rw [Nat.mul_succ] at this
        omega
      rw [if_pos hbelow, ih hlt]
    · rw [if_neg (by omega), Nat.add_sub_cancel_left, Nat.testBit_mod_two_pow, decide_eq_true hb, Bool.true_and]

theorem packLane_eq (t : Ty) (xs : List Lanes) (i : Nat) : packLane t xs i = w32 (digitSum (tyWidth t)
    (fun m => ((xs.getD ((packF t * i + m) / 32) []).getD ((packF t * i + m) % 32) 0#32).toNat) (packF t)) := rfl

theorem packLane_getLsbD (t : Ty) (xs : List Lanes) (i : Nat) {m b : Nat} (hf : packF t * tyWidth t = 32)
    (hm : m < packF t) (hb : b < tyWidth t) : (packLane t xs i).getLsbD (tyWidth t * m + b) =
      ((xs.getD ((packF t * i + m) / 32) []).getD ((packF t * i + m) % 32) 0#32).getLsbD b := by
  have hin : tyWidth t * m + b < 32 := by
    have := Nat.mul_le_mul_left (tyWidth t) (Nat.succ_le_of_lt hm)
    rw [Nat.mul_succ, Nat.mul_comm _ (packF t), hf] at this
    omega
  rw [packLane_eq, w32, BitVec.getLsbD_ofNat, digitSum_testBit _ hm hb, decide_eq_true hin, Bool.true_and,
    BitVec.testBit_toNat]

/-! ## The values of 4-bit elements (R52, R53) -/

theorem int4sVal_eq {n : Nat} (hn : n < 16) : int4sVal n = if n = 8 then (0, true) else (toSigned 4 n, false) := by
  revert n
  decide

/-- A small whole number. -/
def wholeVal (n : Nat) : FVal := .fin (decide (toSigned 4 n < 0)) (toSigned 4 n).natAbs 0

/-- R53, case by case: the reserved code in one of the two positions makes the other one a scaled E4M3 value. -/
theorem int4xVal_eq {byte : Nat} (hb : byte < 256) (upper : Bool) : int4xVal byte upper =
    if byte % 16 = 8 then (if upper then .fin false 0 0 else fdec fmtE4 (16 * (byte / 16) + 8))
    else if byte / 16 = 8 then (if upper then fdec fmtE4 (16 * (byte % 16) + 8) else .fin false 0 0)
    else if upper then wholeVal (byte / 16) else wholeVal (byte % 16) := by
  have hlo : byte % 16 < 16 := Nat.mod_lt _ (by omega)
  have hhi : byte / 16 < 16 := by omega
  unfold int4xVal wholeVal
  simp only [Nat.mod_eq_of_lt hhi, beq_iff_eq, Nat.mul_comm _ 16, int4sVal_eq hlo, int4sVal_eq hhi]
  split
  · rfl
  · split
    · rfl
    · rfl

/-- Rounding to FP32 raises nothing, and leaves a value that is neither above nor below. -/
def ExactF32 (v : FVal) : Prop :=
  (roundVal fmtF32 v).2 = 0#7 ∧ valLt (fdec fmtF32 (roundVal fmtF32 v).1) v = false ∧
    valLt v (fdec fmtF32 (roundVal fmtF32 v).1) = false

theorem exactF32_zero : ExactF32 (.fin false 0 0) := by unfold ExactF32; decide

theorem exactF32_wholeVal {n : Nat} (hn : n < 16) : ExactF32 (wholeVal n) := by
  unfold ExactF32
  revert n
  decide

theorem exactF32_scaled {n : Nat} (hn : n < 16) : ExactF32 (fdec fmtE4 (16 * n + 8)) := by
  unfold ExactF32
  revert n
  decide

theorem exactF32_int4xVal {byte : Nat} (hb : byte < 256) (upper : Bool) : ExactF32 (int4xVal byte upper) := by
  have hlo : byte % 16 < 16 := Nat.mod_lt _ (by omega)
  have hhi : byte / 16 < 16 := by omega
  rw [int4xVal_eq hb]
  split
  · cases upper
    · exact exactF32_scaled hhi
    · exact exactF32_zero
  · split
    · cases upper
      · exact exactF32_zero
      · exact exactF32_scaled hlo
    · cases upper
      · exact exactF32_wholeVal hlo
      · exact exactF32_wholeVal hhi

/-! ## Unpacking (R139) -/

theorem unpackReg_getD (t : Ty) (x : Lanes) {i : Nat} (hi : i < 32) (j : Nat) (y : W32 × Fl) :
    (unpackReg t x j).getD i y = unpackElem t x (32 * j + i) := by
  simp [unpackReg, List.getD_eq_getElem?_getD, hi]

/-- The bits of element e of a packed source. -/
def packedBits (t : Ty) (x : Lanes) (e : Nat) : Nat :=
  ((x.getD (e / packF t) 0#32).toNat >>> (tyWidth t * (e % packF t))) % 2 ^ tyWidth t

theorem unpackElem_extends {t : Ty} (hs : t ≠ .int4s) (hx : t ≠ .int4x) (x : Lanes) (e : Nat) :
    unpackElem t x e = (w32 (extendTo t 32 (packedBits t x e)), 0#7) := by
  rw [packedBits, Nat.shiftRight_eq_div_pow]
  cases t with
  | int4s => exact absurd rfl hs
  | int4x => exact absurd rfl hx
  | _ => rfl

theorem unpackElem_int4s (x : Lanes) (e : Nat) : unpackElem .int4s x e =
    if packedBits .int4s x e = 8 then (0#32, flRC) else (BitVec.ofInt 32 (toSigned 4 (packedBits .int4s x e)), 0#7) := by
  have hlt : packedBits .int4s x e < 16 := Nat.mod_lt _ (by decide)
  have helem : unpackElem .int4s x e = (w32 (wrapInt 32 (int4sVal (packedBits .int4s x e)).1),
      if (int4sVal (packedBits .int4s x e)).2 then flRC else 0#7) := by
    rw [packedBits, Nat.shiftRight_eq_div_pow]
    rfl
  rw [helem, int4sVal_eq hlt]
  split
  · rfl
  · rw [wrapInt_eq_toNat, w32, BitVec.ofNat_toNat, BitVec.setWidth_eq]
    rfl

theorem unpackElem_int4x (x : Lanes) (e : Nat) : unpackElem .int4x x e =
    (w32 (roundVal fmtF32 (int4xVal (((x.getD (e / packF .int4x) 0#32).toNat >>> (8 * (e % 8 / 2))) % 256)
      (e % 2 == 1))).1, 0#7) := by
  rw [Nat.shiftRight_eq_div_pow]
  rfl

end Sys2Proof.Machine
end

section
/-!
PROOFS. The lanes of a mask written, and the scatter (R140): what each leaves in every lane, and what it leaves alone.
-/
namespace Sys2Proof.Machine

open Sys2Proof

/-! ## The lanes of a mask written (R95) -/

/-- Only the lane file changes. -/
theorem setLanes_leaves (t : Thread) (r : Nat) (g : W32) (i : Nat) (ls : Lanes) :
    ∃ v, setLanes t r g i ls = { t with v := v } := by
  induction ls generalizing t i with
  | nil => exact ⟨t.v, rfl⟩
  | cons x xs ih =>
    rw [setLanes]
    split
    · exact ih (t.setLane r i x) (i + 1)
    · exact ih t (i + 1)

theorem Thread.lane_setLane (t : Thread) (r : Nat) {i : Nat} (x : W32) (q : Nat) {j : Nat} (hi : i < 32) (hj : j < 32) :
    (t.setLane r i x).lane q j = if q = r ∧ j = i then x else t.lane q j := by
  unfold Thread.setLane Thread.lane
  rw [SMap.get_set]
  exact ite_congr (propext (by omega)) (fun _ => rfl) fun _ => rfl

theorem lane_setLanes (t : Thread) (r : Nat) (g : W32) (i : Nat) (ls : Lanes) (hl : i + ls.length ≤ 32) (q : Nat) {j : Nat}
    (hj : j < 32) : (setLanes t r g i ls).lane q j =
      if q = r ∧ i ≤ j ∧ j < i + ls.length ∧ g.getLsbD j = true then ls.getD (j - i) 0#32 else t.lane q j := by
  induction ls generalizing t i with
  | nil => rw [setLanes, if_neg (by rw [List.length_nil]; omega)]
  | cons x xs ih =>
    rw [List.length_cons] at hl ⊢
    rw [setLanes, ih _ (i + 1) (by omega)]
    by_cases hlater : q = r ∧ i + 1 ≤ j ∧ j < i + 1 + xs.length ∧ g.getLsbD j = true
    · obtain ⟨hq, hij, hjl, hg⟩ := hlater
      rw [if_pos ⟨hq, hij, hjl, hg⟩, if_pos ⟨hq, by omega, by omega, hg⟩, show j - i = j - (i + 1) + 1 by omega]
      rfl
    · rw [if_neg hlater, apply_ite (fun th : Thread => th.lane q j), Thread.lane_setLane t r x q (by omega) hj]
      by_cases hji : j = i
      · subst hji
        by_cases hq : q = r <;> by_cases hg : g.getLsbD j = true <;> simp [hq, hg]
      · have hnot : ¬ (q = r ∧ i ≤ j ∧ j < i + (xs.length + 1) ∧ g.getLsbD j = true) :=
          fun ⟨hq, _, _, hg⟩ => hlater ⟨hq, by omega, by omega, hg⟩
        have hother : ¬ (q = r ∧ j = i) := fun ⟨_, h⟩ => hji h
        rw [if_neg hother, if_neg hnot, ite_self]

section
variable (s : State) (r : Nat) (g : W32) {ls : Lanes}

/-- A masked write leaves the executing lanes of its register, and leaves every other lane. -/
theorem putLanes_lane (hl : ls.length = 32) (q : Nat) {j : Nat} (hj : j < 32) : (s.putLanes r g ls).me.lane q j =
    if q = r ∧ g.getLsbD j = true then ls.getD j 0#32 else s.me.lane q j := by
  have hme : (s.putLanes r g ls).me = setLanes s.me r g 0 ls := State.thr_setThr_self _ _ _
  rw [hme, lane_setLanes s.me r g 0 ls (by omega) q hj, Nat.sub_zero]
  exact ite_congr (by simp [hl, hj]) (fun _ => rfl) fun _ => rfl

theorem putLanes_keepsOthers (ls : Lanes) : KeepsOthers s.cur s (s.putLanes r g ls) :=
  ⟨rfl, rfl, fun _ hk => State.thr_setThr_ne _ _ hk.symm⟩

theorem putLanes_me (ls : Lanes) : ∃ v, (s.putLanes r g ls).me = { s.me with v := v } := by
  have hme : (s.putLanes r g ls).me = setLanes s.me r g 0 ls := State.thr_setThr_self _ _ _
  rw [hme]
  exact setLanes_leaves s.me r g 0 ls

end

/-! ## The scatter (R140) -/

section
variable (base : Nat) (g : W32) (idx a : Lanes)

/-- The lanes that write one register of the table are the executing ones whose index names it. -/
theorem scatMask_getLsbD (k : Nat) {i : Nat} (hi : i < 32) :
    (scatMask g idx k).getLsbD i = (g.getLsbD i && (idx.getD i 0#32).toNat == k) := by
  have hbit : ∀ j, (1#32 <<< j).getLsbD i = decide (i = j) := by
    intro j
    rw [BitVec.getLsbD_shiftLeft, BitVec.getLsbD_one, Bool.eq_iff_iff]
    simp only [Bool.and_eq_true, Bool.not_eq_true', decide_eq_true_eq, decide_eq_false_iff_not]
    omega
  rw [scatMask, getLsbD_foldl_or, BitVec.getLsbD_zero, Bool.false_or, Bool.eq_iff_iff, List.any_eq_true]
  simp only [hbit, Bool.and_eq_true, decide_eq_true_eq]
  exact ⟨fun ⟨j, _, hj, hij⟩ => hij ▸ hj, fun h => ⟨i, List.mem_range.mpr hi, h, rfl⟩⟩

/-- The state once the first `n` registers of the table are written. -/
def scattered (s : State) : Nat → State
  | 0 => s
  | k + 1 => (scattered s k).putLanes (base + k) (scatMask g idx k) a

variable (s : State)

theorem scatter_run (n : Nat) : scatter base g idx a n s = .ok ((), scattered base g idx a s n) := by
  induction n with
  | zero => rfl
  | succ n ih => rw [scatter, act_bind_ok ih, writeVNum_run, scattered]

theorem scattered_keepsOthers (n : Nat) : KeepsOthers s.cur s (scattered base g idx a s n) := by
  induction n with
  | zero => exact KeepsOthers.refl s.cur s
  | succ n ih =>
    have hstep := putLanes_keepsOthers (scattered base g idx a s n) (base + n) (scatMask g idx n) a
    rw [ih.cur] at hstep
    exact ih.trans hstep

theorem scattered_me (n : Nat) : ∃ v, (scattered base g idx a s n).me = { s.me with v := v } := by
  induction n with
  | zero => exact ⟨s.me.v, rfl⟩
  | succ n ih =>
    obtain ⟨v, hv⟩ := ih
    obtain ⟨v', hv'⟩ := putLanes_me (scattered base g idx a s n) (base + n) (scatMask g idx n) a
    exact ⟨v', by rw [scattered, hv', hv]⟩

/-- An executing lane writes its word where its index says, if that lies in the table; no other lane changes. -/
theorem scattered_lane (ha : a.length = 32) (n q : Nat) {i : Nat} (hi : i < 32) :
    (scattered base g idx a s n).me.lane q i =
      if g.getLsbD i = true ∧ (idx.getD i 0#32).toNat < n ∧ q = base + (idx.getD i 0#32).toNat then a.getD i 0#32
      else s.me.lane q i := by
  induction n with
  | zero => rw [scattered, if_neg (fun ⟨_, h, _⟩ => Nat.not_lt_zero _ h)]
  | succ n ih =>
    rw [scattered, putLanes_lane _ _ _ ha q hi, scatMask_getLsbD g idx n hi, ih]
    simp only [Bool.and_eq_true, beq_iff_eq]
    by_cases hlast : q = base + n ∧ g.getLsbD i = true ∧ (idx.getD i 0#32).toNat = n
    · obtain ⟨hq, hg, hk⟩ := hlast
      rw [if_pos ⟨hq, hg, hk⟩, if_pos ⟨hg, by omega, by omega⟩]
    · rw [if_neg hlast]
      refine ite_congr (propext ⟨fun ⟨hg, hk, hq⟩ => ⟨hg, by omega, hq⟩, fun ⟨hg, hk, hq⟩ => ⟨hg, ?_, hq⟩⟩)
        (fun _ => rfl) fun _ => rfl
      have hne : (idx.getD i 0#32).toNat ≠ n := fun h => hlast ⟨by omega, hg, h⟩
      omega

end

end Sys2Proof.Machine
end

section
/-!
PROOFS. The lane networks (R137 to R140): how they run, and what they compute.
-/
namespace Sys2Proof.Machine

open Sys2Proof

/-- Settles O20: each instruction by its equation; then the trees and scans, the packed elements, and the table. -/
theorem laneNetworks : Obligations.LaneNetworks := by
  unfold Obligations.LaneNetworks
  refine ⟨fun c s s1 s2 s3 => ⟨fun op t d a x h hx => exec_vred_reduces h hx, fun op t d a x h hx => exec_vscan_scans h hx,
      fun t d a xs => exec_vpack_packs rfl, fun t d a x => exec_vunpack_unpacks rfl rfl,
      fun l d tab idx xs x => exec_vgath_gathers rfl, fun l tab idx a x y => exec_vscat_scatters rfl⟩,
    fun op t g x i hx hi => ⟨redElems_length op t g hx, redElems_getD op t g hx hi⟩,
    fun op t l hl => ⟨redLevel_length op t hl, fun j => redLevel_getD op t hl, fun b _ => redLevel_flags op t hl b⟩,
    fun op t n l => ⟨rfl, rfl⟩, fun op t d l i hd hi => ⟨scanStep_length op t hd, scanStep_getD op t hi⟩,
    fun op t ds d l => ⟨rfl, scanAll_append op t ds d l⟩, fun t x y => ⟨fun ht _ _ => ?int, fun ht => ?float⟩,
    fun t xs i m b hf _ hm hb => packLane_getLsbD t xs i hf hm hb,
    fun t x i j hf hi => ?unpack, fun byte upper hb => ⟨int4xVal_eq hb upper, exactF32_int4xVal hb upper⟩,
    fun tab idx i => rfl, fun base g idx a n s ha => ?scatter⟩
  case int =>
    obtain ⟨hmin, hmax⟩ := redOp_minMax_int ht x y
    exact ⟨redOp_add_int ht x y, hmin, hmax, redIdentity_add_int ht, iMin_redIdentity ht x, iMax_redIdentity ht y⟩
  case float =>
    obtain ⟨hadd, hmin, hmax⟩ := redOp_float ht x y
    refine ⟨hadd, hmin, hmax, fdec_redIdentity_add ht, fdec_redIdentity_minMax ht, ?_⟩
    rintro rfl
    exact ⟨rfl, rfl⟩
  case unpack =>
    dsimp only
    rw [unpackReg_getD t x hi]
    refine ⟨fun hs hx => unpackElem_extends hs hx x _, ?_, ?_⟩
    · rintro rfl
      exact unpackElem_int4s x _
    · rintro rfl
      exact unpackElem_int4x x _
  case scatter =>
    have hkeeps := scattered_keepsOthers base g idx a s n
    obtain ⟨v, hv⟩ := scattered_me base g idx a s n
    refine ⟨_, scatter_run base g idx a s n, fun q i hi => scattered_lane base g idx a s ha n q hi, ?_, ?_, ?_,
      hkeeps.thr, hkeeps.mem⟩ <;> rw [hv]

end Sys2Proof.Machine
end
